-- ==== Sys2Proof/Word.lean ====
section
/-! DEFINITION. The bit strings of the ZD960 (spec/00 R6, R7, R9): words of an instruction table, of an operand, of a
wide token, and the byte. Only their names and widths; every helper over them is in Sys2Proof/Machine/Bits.lean. -/

namespace Sys2Proof

/-- A byte of memory (R7). -/
abbrev Byte := BitVec 8

/-- An instruction word or an extension word (R35, R42). -/
abbrev Word32 := BitVec 32

/-- A narrow payload, a register, a side-table entry of S, A, Q and M (R22, R37). -/
abbrev Word := BitVec 64

/-- A wide payload: lane i in bits [32i+31:32i] (R7, R22). -/
abbrev Wide := BitVec 512

/-- A tag: frame identifier in [22:6], iteration tag in [5:0] (R21). -/
abbrev Tag := BitVec 23

end Sys2Proof
end

