-- ==== Sys2Proof/Syntax.lean ====
section
/-! DEFINITION. What the ZD960 can be told to do: the operands of an instruction word and of its extension word
(spec/02 R35 to R48), the objects a program is made of (Glicy images, graph images), the operands of host, peer and
physical acts, and Instr, with one constructor for every row of spec/opcode_table.json. -/

namespace Sys2Proof

/-- Where a thing stands: die, cluster, unit, element (R2, R18). A unit is named with element 0. -/
structure Pos where
  die : Nat
  clu : Nat
  unit : Nat
  elem : Nat
  deriving DecidableEq, Repr

/-- The element classes (R18); cluster units 36 to 39 have none. -/
inductive ElemClass | s | v | m | q | a
  deriving DecidableEq, Repr

/-- Tag actions (R40). -/
inductive TagAction | keep | next | enter | exit | free | tagb | iter0
  deriving DecidableEq, Repr

/-- Source selects (R37): token, nothing, tag, side-table entry. -/
inductive Src | t | n | g | c (k : Fin 16)
  deriving DecidableEq, Repr

/-- Destination selects (R39): a route entry 0 to 30, or none for 31. -/
abbrev Dst := Option (Fin 31)

/-- Scopes of an access (R44). -/
inductive Scope | none | tile | cluster | die | package | system
  deriving DecidableEq, Repr

/-- Access sizes (R44). -/
inductive Size | b1 | b2 | b4 | b8 | b64
  deriving DecidableEq, Repr

/-- Format codes (R48). -/
inductive Fmt | fp32 | bf16 | fp16 | e4m3 | e5m2 | dl8 | i8 | ui8 | e2m1 | i4 | i32 | i16 | raw
  deriving DecidableEq, Repr

/-- Barrier levels (R46). -/
inductive BarLevel | cluster | die | package
  deriving DecidableEq, Repr

/-- Install error codes (R53). -/
inductive InstallCode | eopc | eclass | esel | eta | eroute | elong | efire | erate | ecap | ecycle | ehdecl | evct
  | eslot | esig | egeom
  deriving DecidableEq, Repr

/-- An instruction word with tag action, two sides and two destinations (R35). -/
structure Ops2 where
  ta : TagAction
  sa : Src
  sb : Src
  d0 : Dst
  d1 : Dst
  deriving DecidableEq, Repr

/-- An instruction word whose side B must select N (R38). -/
structure Ops1 where
  ta : TagAction
  sa : Src
  d0 : Dst
  d1 : Dst
  deriving DecidableEq, Repr

/-- FFMA and ACAS: side C is selected in D1 (R38). -/
structure Ops3 where
  ta : TagAction
  sa : Src
  sb : Src
  sc : Src
  d0 : Dst
  deriving DecidableEq, Repr

/-- JOIN: side B selects T and TA is KEEP (R83, R41). -/
structure OpsJoin where
  sa : Src
  d0 : Dst
  d1 : Dst
  deriving DecidableEq, Repr

/-- FALLOC: side B selects the side-table entry of the frame descriptor (R68). -/
structure OpsFrame where
  ta : TagAction
  sa : Src
  sb : Fin 16
  d0 : Dst
  d1 : Dst
  deriving DecidableEq, Repr

/-- CALL: as FALLOC with TA KEEP (R41, R68). -/
structure OpsCall where
  sa : Src
  sb : Fin 16
  d0 : Dst
  d1 : Dst
  deriving DecidableEq, Repr

/-- FFREE and LOOPN: TA is KEEP (R41). -/
structure OpsKeep where
  sa : Src
  sb : Src
  d0 : Dst
  d1 : Dst
  deriving DecidableEq, Repr

/-- RET and SWITCH: TA is KEEP and both destinations are 31 (R83, R117). -/
structure OpsSink where
  sa : Src
  sb : Src
  deriving DecidableEq, Repr

/-- XM, the memory extension (R44). -/
structure Xm where
  h : BitVec 8
  sc : Scope
  sz : Size
  str : Bool
  ack : Bool
  off : BitVec 16
  deriving DecidableEq, Repr

/-- XX, the matrix extension (R45). -/
structure Xx where
  qa : BitVec 4
  qb : BitVec 4
  fa : Fmt
  fb : Fmt
  acc : BitVec 7
  zs : Bool
  ad : Bool
  nm : Bool
  em : Bool
  sat : Bool
  deriving DecidableEq, Repr

/-- XH, general layout (R46). -/
structure Xh where
  h1 : BitVec 8
  h2 : BitVec 8
  f : BitVec 16
  deriving DecidableEq, Repr

/-- XH, barrier layout (R46). -/
structure Xbar where
  lvl : BarLevel
  bno : BitVec 6
  deriving DecidableEq, Repr

/-- XH, system layout (R46). -/
structure Xsys where
  sreg : BitVec 12
  deriving DecidableEq, Repr

/-- XS, the sparse extension (R47). -/
structure Xs where
  h : BitVec 8
  uc : BitVec 8
  mode : BitVec 16
  deriving DecidableEq, Repr

/-! ## The objects of a program

The spec gives a Glicy image and a graph image their contents and no byte format (assumption 1): they are held as
objects at a virtual address. -/

/-- A rectangle of a die's tile grid (R13). -/
structure Rect where
  x : Nat
  y : Nat
  w : Nat
  h : Nat
  deriving DecidableEq, Repr

/-- A stage's sub-rectangle of one die slot's rectangle (R15). -/
structure StageRect where
  stage : Nat
  slot : Nat
  r : Rect
  deriving DecidableEq, Repr

/-- Handle levels (R186). -/
inductive HLevel | spad | clu | hbm
  deriving DecidableEq, Repr

/-- Handle kinds (R186). -/
inductive HKind | dense | ring | csr | nm | pat
  deriving DecidableEq, Repr

/-- A `.handle` declaration with its `.data` (R188). `tile` is the region tile that homes it, none when replicated;
`base` is the parameter word of its address; `data` gives bytes by offset. -/
structure HandleDecl where
  num : Nat
  level : HLevel
  kind : HKind
  fmt : Fmt
  rows : Nat
  cols : Nat
  dyn : Bool
  tile : Option Nat
  banks : Nat
  bytes : Nat
  base : Option Nat
  ptr : Nat
  idx : Nat
  vals : Nat
  meta' : Nat
  pat : Nat
  data : List (Nat × Byte)
  deriving DecidableEq, Repr

/-- A `.ring` line: ring slot `q` of region tile `tile` of die slot `slot` (R198). -/
structure RingDecl where
  slot : Nat
  tile : Nat
  q : Nat
  handle : Nat
  size : Nat
  count : Nat
  deriving DecidableEq, Repr

/-- A `.frame` declaration (R66). -/
structure FrameDecl where
  logk : Nat
  max : Nat
  deriving DecidableEq, Repr

/-- Where an image places code: an element of a region tile, or (`apr`) an access processor `apn` of the cluster that
holds region tile `tile` (R17, R62, R100). -/
structure Loc where
  slot : Nat
  apr : Bool
  tile : Nat
  apn : Nat
  elem : Nat
  deriving DecidableEq, Repr

/-- A `.rate` line: the channel leaving destination `d` of the instruction `entry` at `loc` (R112). -/
structure RateDecl where
  loc : Loc
  entry : Nat
  d : Nat
  prod : Nat
  cons : Nat
  depth : Nat
  deriving DecidableEq, Repr

/-- The code an image gives one element: instruction table, body of each entry (63 is the root body), entry marks,
route table as in the image, side table, the mask of filled entries, live mask, VC table, parameters (R66, R97, R107). -/
structure ElemCode where
  loc : Loc
  words : List Word32
  bodies : List Nat
  entries : List Nat
  routes : List Word
  side : List (Nat × Wide)
  filled : List Nat
  live : List Nat
  vcs : List Word32
  params : List (Nat × Nat)
  deriving DecidableEq, Repr

/-- One configuration of an image (R96). -/
structure ConfigImage where
  elems : List ElemCode
  frames : List FrameDecl
  rates : List RateDecl
  handles : List HandleDecl
  rings : List RingDecl
  deriving DecidableEq, Repr

/-- A Glicy image (R11, R13, R15, R62, R96): shape, stages, claims by die slot and cluster ordinal, patterns,
configurations. `sig` is none for an image without a privileged signature, else whether the signature verifies. -/
structure Image where
  sig : Option Bool
  level : Nat
  cost : Nat
  dies : Nat
  shape : List Rect
  stages : Nat
  stageRects : List StageRect
  ap : List (List Nat)
  mill : List (List Nat)
  patterns : List (Nat × List Word32)
  configs : List ConfigImage
  sameShape : Bool
  deriving DecidableEq, Repr

/-- What a graph node is (R320, R329, R330): a kernel naming an image-table entry, a condition, a while node. -/
inductive GKind
  | kernel (image : Nat)
  | cond (h off : Nat)
  | loop (body h off bound : Nat)
  deriving DecidableEq, Repr

/-- A node line of a graph image, with its `.launch` if it has one (R62). -/
structure GNode where
  kind : GKind
  prio : Nat
  cost : Nat
  launch : Option (Nat × List Nat)
  deriving DecidableEq, Repr

/-- A graph image (R318): nodes, dependence edges, error edges, graph handles (number, parameter word, extent), how
many image names it uses, whether it comes from a privileged owner, how many bytes of memory it takes. -/
structure GraphImage where
  nodes : List GNode
  edges : List (Nat × Nat)
  errEdges : List (Nat × Nat)
  handles : List (Nat × Nat × Nat)
  names : Nat
  privileged : Bool
  size : Nat := 64
  deriving DecidableEq, Repr

/-! ## Operands of host, peer and physical acts -/

/-- The two observation rings (R401). -/
inductive ObsRing | sample | event
  deriving DecidableEq, Repr

/-- Atomic operations (R300, R390). -/
inductive AtomicOp | add | fadd | min | max | xchg | cas | and | or
  deriving DecidableEq, Repr

/-- What a peer asks for (R390). -/
inductive PeerOp
  | read (n : Nat)
  | write (bytes : List Byte)
  | atomic (op : AtomicOp) (n : Nat) (b c : Word)
  deriving DecidableEq, Repr

/-- A request from a peer module (R389): module, partition, the local partition asked for, physical address. -/
structure PeerAccess where
  module : Nat
  part : Nat
  own : Nat
  pa : Nat
  op : PeerOp
  deriving DecidableEq, Repr

/-- Where data that cannot be corrected, or a mismatch of a datapath, shows (R369, R370): at a part of a memory request; in a block of
HBM (by number) or a line of a scratchpad or cluster SRAM, to be found when it is next read; at an element, in an entry of its
matching store or of its cellar records, a side-table entry, a token in one of its buffers, the result of a firing; in an adjunct
record that a matrix element reads (its place among the records of the caches). -/
inductive BadData
  | access (q j : Nat)
  | block (b : Nat)
  | spadLine (l : Nat)
  | sramLine (l : Nat)
  | entry (p : Pos) (k : Nat)
  | side (p : Pos) (k : Nat)
  | token (m : Nat)
  | result (p : Pos) (op : Nat)
  | adjunct (p : Pos) (line : Nat)
  deriving DecidableEq, Repr

/-- What an act of the outside damages: the holder of a datum that BadData names; the act gives its number there. -/
inductive BadHolder
  | access (q : Nat)
  | block
  | spadLine
  | sramLine
  | entry (p : Pos)
  | side (p : Pos)
  | token
  | result (p : Pos)
  | adjunct (p : Pos)
  deriving DecidableEq, Repr

/-- A host access through BAR1 (R383): bytes, or an object whose byte format the spec does not give (assumption 1). -/
inductive HostAccess
  | read (va n : Nat)
  | write (va : Nat) (bytes : List Byte)
  | putImage (va : Nat) (im : Image)
  | putGraph (va : Nat) (g : GraphImage)
  deriving DecidableEq, Repr

/-- A ring or queue in a partition's memory: base virtual address and number of records. -/
structure QueueAt where
  base : Nat
  len : Nat
  deriving DecidableEq, Repr

/-- The operands of PSETUP (R382, R385): partition, cluster groups, table root and table key, key identifiers, host base, queues,
save area, package barriers. -/
structure PartSetup where
  part : Nat
  groups : List Nat
  root : Nat
  keys : List Nat
  hbase : Nat
  faultQ : QueueAt
  complQ : QueueAt
  errorQ : QueueAt
  saveBase : Nat
  saveLen : Nat
  pkgBars : List Nat
  tkey : BitVec 256 := 0
  deriving DecidableEq, Repr

/-- What TLBINV drops (R292). -/
inductive TlbScope | page (va : Nat) | whole
  deriving DecidableEq, Repr

/-- A unit whose corrected errors are counted (R375). -/
inductive UnitName
  | tile (p : Pos)
  | ap (p : Pos)
  | sram (die clu : Nat)
  | pc (ctrl : Nat)
  deriving DecidableEq, Repr

/-- Host registers with no behaviour of their own on a write (R386, R401, R408). -/
inductive HostReg
  | gecfg (d : Nat)
  | cecfg (d : Nat)
  | ydl (d l : Nat)
  | rp (ring : ObsRing)
  | evmask
  | pcmd
  | unnamed (offset : Nat)
  deriving DecidableEq, Repr

/-- Everything the part can be told or can do by itself: one constructor for each row of spec/opcode_table.json. The
first 168 are the opcodes of R49; the others are the steps of the part, each whole and indivisible (spec/95). Steps without
arguments and then acts from outside stand last: a compiled Lean program builds no constructor with arguments past the 244th,
and the machine itself makes none of those. -/
inductive Instr
  /-- MOV (R84) -/
  | mov (o : Ops2)
  /-- STEER (R85) -/
  | steer (o : Ops2)
  /-- MERGE (R86) -/
  | merge (o : Ops2)
  /-- JOIN (R87) -/
  | join (o : OpsJoin)
  /-- FALLOC (R88) -/
  | falloc (o : OpsFrame)
  /-- FFREE (R89) -/
  | ffree (o : OpsKeep)
  /-- LOOPN (R90) -/
  | loopn (o : OpsKeep)
  /-- CALL (R91) -/
  | call (o : OpsCall)
  /-- RET (R93) -/
  | ret (o : OpsSink)
  /-- YIELD (R94) -/
  | yield (o : Ops2)
  /-- TRAP (R95) -/
  | trap (sa : Src)
  /-- ASSERT (R95) -/
  | assert (o : Ops2)
  /-- WSET (R115) -/
  | wset (o : Ops2)
  /-- SWITCH (R117) -/
  | switch (o : OpsSink)
  /-- CONDW (R339) -/
  | condw (o : Ops2)
  /-- ADD (R147) -/
  | add (o : Ops2)
  /-- SUB (R147) -/
  | sub (o : Ops2)
  /-- MUL (R147) -/
  | mul (o : Ops2)
  /-- MULHS (R147) -/
  | mulhs (o : Ops2)
  /-- MULHU (R147) -/
  | mulhu (o : Ops2)
  /-- DIVS (R148) -/
  | divs (o : Ops2)
  /-- DIVU (R148) -/
  | divu (o : Ops2)
  /-- REMS (R148) -/
  | rems (o : Ops2)
  /-- REMU (R148) -/
  | remu (o : Ops2)
  /-- AND (R149) -/
  | and (o : Ops2)
  /-- OR (R149) -/
  | or (o : Ops2)
  /-- XOR (R149) -/
  | xor (o : Ops2)
  /-- ANDN (R149) -/
  | andn (o : Ops2)
  /-- SHL (R149) -/
  | shl (o : Ops2)
  /-- SHR (R149) -/
  | shr (o : Ops2)
  /-- SRA (R149) -/
  | sra (o : Ops2)
  /-- ROL (R149) -/
  | rol (o : Ops2)
  /-- MINS (R150) -/
  | mins (o : Ops2)
  /-- MINU (R150) -/
  | minu (o : Ops2)
  /-- MAXS (R150) -/
  | maxs (o : Ops2)
  /-- MAXU (R150) -/
  | maxu (o : Ops2)
  /-- CEQ (R150) -/
  | ceq (o : Ops2)
  /-- CNE (R150) -/
  | cne (o : Ops2)
  /-- CLTS (R150) -/
  | clts (o : Ops2)
  /-- CLTU (R150) -/
  | cltu (o : Ops2)
  /-- CLES (R150) -/
  | cles (o : Ops2)
  /-- CLEU (R150) -/
  | cleu (o : Ops2)
  /-- CLZ (R151) -/
  | clz (o : Ops1)
  /-- POPC (R151) -/
  | popc (o : Ops1)
  /-- BFX (R152) -/
  | bfx (o : Ops2)
  /-- SEXT (R153) -/
  | sext (o : Ops2)
  /-- ZEXT (R153) -/
  | zext (o : Ops2)
  /-- FADD (R156) -/
  | fadd (o : Ops2)
  /-- FSUB (R156) -/
  | fsub (o : Ops2)
  /-- FMUL (R156) -/
  | fmul (o : Ops2)
  /-- FFMA (R156) -/
  | ffma (o : Ops3)
  /-- FMIN (R157) -/
  | fmin (o : Ops2)
  /-- FMAX (R157) -/
  | fmax (o : Ops2)
  /-- FABS (R158) -/
  | fabs (o : Ops1)
  /-- FNEG (R158) -/
  | fneg (o : Ops1)
  /-- FCEQ (R159) -/
  | fceq (o : Ops2)
  /-- FCLT (R159) -/
  | fclt (o : Ops2)
  /-- FCLE (R159) -/
  | fcle (o : Ops2)
  /-- FCUN (R159) -/
  | fcun (o : Ops2)
  /-- FRSQ (R160) -/
  | frsq (o : Ops1)
  /-- FRCP (R160) -/
  | frcp (o : Ops1)
  /-- FEXP2 (R160) -/
  | fexp2 (o : Ops1)
  /-- FLOG2 (R160) -/
  | flog2 (o : Ops1)
  /-- FCLASS (R161) -/
  | fclass (o : Ops1)
  /-- FRND (R162) -/
  | frnd (o : Ops2)
  /-- FCVTI (R163) -/
  | fcvti (o : Ops2)
  /-- ICVTF (R164) -/
  | icvtf (o : Ops2)
  /-- FPACK (R165) -/
  | fpack (o : Ops2)
  /-- FHI (R165) -/
  | fhi (o : Ops1)
  /-- FSCALB (R166) -/
  | fscalb (o : Ops2)
  /-- FCVT (R167) -/
  | fcvt (o : Ops2)
  /-- VADD (R174) -/
  | vadd (o : Ops2)
  /-- VSUB (R174) -/
  | vsub (o : Ops2)
  /-- VMUL (R174) -/
  | vmul (o : Ops2)
  /-- VFMA (R174) -/
  | vfma (o : Ops2) (sc : Src)
  /-- VMIN (R175) -/
  | vmin (o : Ops2)
  /-- VMAX (R175) -/
  | vmax (o : Ops2)
  /-- VABS (R175) -/
  | vabs (o : Ops1)
  /-- VNEG (R175) -/
  | vneg (o : Ops1)
  /-- VRCP (R176) -/
  | vrcp (o : Ops1)
  /-- VRSQ (R176) -/
  | vrsq (o : Ops1)
  /-- VEXP2 (R176) -/
  | vexp2 (o : Ops1)
  /-- VLOG2 (R176) -/
  | vlog2 (o : Ops1)
  /-- VCEQ (R177) -/
  | vceq (o : Ops2)
  /-- VCLT (R177) -/
  | vclt (o : Ops2)
  /-- VCLE (R177) -/
  | vcle (o : Ops2)
  /-- VSEL (R178) -/
  | vsel (o : Ops2) (sc : Src)
  /-- VRSUM (R182) -/
  | vrsum (o : Ops1)
  /-- VRMAX (R182) -/
  | vrmax (o : Ops1)
  /-- VSCAN (R183) -/
  | vscan (o : Ops2)
  /-- VSHUF (R181) -/
  | vshuf (o : Ops2)
  /-- VBCAST (R181) -/
  | vbcast (o : Ops2)
  /-- VIADD (R179) -/
  | viadd (o : Ops2)
  /-- VISUB (R179) -/
  | visub (o : Ops2)
  /-- VIMUL (R179) -/
  | vimul (o : Ops2)
  /-- VAND (R179) -/
  | vand (o : Ops2)
  /-- VOR (R179) -/
  | vor (o : Ops2)
  /-- VXOR (R179) -/
  | vxor (o : Ops2)
  /-- VSHL (R179) -/
  | vshl (o : Ops2)
  /-- VSHR (R179) -/
  | vshr (o : Ops2)
  /-- VSRA (R179) -/
  | vsra (o : Ops2)
  /-- VIMIN (R179) -/
  | vimin (o : Ops2)
  /-- VIMAX (R179) -/
  | vimax (o : Ops2)
  /-- VCVTI (R180) -/
  | vcvti (o : Ops2)
  /-- VCVTF (R180) -/
  | vcvtf (o : Ops2)
  /-- VINS (R181) -/
  | vins (o : Ops2) (sc : Src)
  /-- VEXT (R181) -/
  | vext (o : Ops2)
  /-- VSPLAT (R181) -/
  | vsplat (o : Ops2)
  /-- VCLASS (R177) -/
  | vclass (o : Ops1)
  /-- VRND (R180) -/
  | vrnd (o : Ops2)
  /-- VDOT (R182) -/
  | vdot (o : Ops2)
  /-- LD (R296) -/
  | ld (o : Ops2) (x : Xm)
  /-- ST (R297) -/
  | st (o : Ops2) (x : Xm)
  /-- LDW (R296) -/
  | ldw (o : Ops2) (x : Xm)
  /-- STW (R297) -/
  | stw (o : Ops2) (x : Xm)
  /-- LDG (R299) -/
  | ldg (o : Ops2) (x : Xm)
  /-- STS (R299) -/
  | sts (o : Ops2) (x : Xm)
  /-- AADD (R300) -/
  | aadd (o : Ops2) (x : Xm)
  /-- AFADD (R300) -/
  | afadd (o : Ops2) (x : Xm)
  /-- AMIN (R300) -/
  | amin (o : Ops2) (x : Xm)
  /-- AMAX (R300) -/
  | amax (o : Ops2) (x : Xm)
  /-- AXCHG (R300) -/
  | axchg (o : Ops2) (x : Xm)
  /-- ACAS (R300) -/
  | acas (o : Ops3) (x : Xm)
  /-- AAND (R300) -/
  | aand (o : Ops2) (x : Xm)
  /-- AOR (R300) -/
  | aor (o : Ops2) (x : Xm)
  /-- FENCE (R301) -/
  | fence (o : Ops2) (x : Xm)
  /-- HALLOC (R206) -/
  | halloc (o : Ops2) (x : Xh)
  /-- HFREE (R207) -/
  | hfree (o : Ops2) (x : Xh)
  /-- HMAP (R208) -/
  | hmap (o : Ops2) (x : Xh)
  /-- HFMT (R209) -/
  | hfmt (o : Ops2) (x : Xh)
  /-- HDESC (R210) -/
  | hdesc (o : Ops2) (x : Xh)
  /-- RPUSH (R211) -/
  | rpush (o : Ops2) (x : Xh)
  /-- COPY (R212) -/
  | copy (o : Ops2) (x : Xh)
  /-- STRMI (R213) -/
  | strmi (o : Ops2) (x : Xh)
  /-- STRMO (R215) -/
  | strmo (o : Ops2) (x : Xh)
  /-- RELM (R216) -/
  | relm (o : Ops2) (x : Xh)
  /-- MRG (R255) -/
  | mrg (o : Ops2) (x : Xh)
  /-- LAUNCH (R338) -/
  | launch (o : Ops2) (x : Xh)
  /-- SSTEP (R341) -/
  | sstep (o : Ops2) (x : Xbar)
  /-- BARI (R340) -/
  | bari (o : Ops2) (x : Xbar)
  /-- BAR (R340) -/
  | bar (o : Ops2) (x : Xbar)
  /-- BARA (R340) -/
  | bara (o : Ops2) (x : Xbar)
  /-- BARD (R340) -/
  | bard (o : Ops2) (x : Xbar)
  /-- MLDB (R237) -/
  | mldb (o : Ops2) (x : Xx)
  /-- MMA (R234) -/
  | mma (o : Ops2) (x : Xx)
  /-- MMAS (R235) -/
  | mmas (o : Ops2) (x : Xx)
  /-- MMAP (R236) -/
  | mmap (o : Ops2) (x : Xx)
  /-- MZERO (R239) -/
  | mzero (o : Ops2) (x : Xx)
  /-- MOUT (R238) -/
  | mout (o : Ops2) (x : Xx)
  /-- MADJ (R241) -/
  | madj (o : Ops2) (x : Xh)
  /-- MSTAT (R240) -/
  | mstat (o : Ops2) (x : Xx)
  /-- CLOAD (R252) -/
  | cload (o : Ops2) (x : Xs)
  /-- CPROBE (R252) -/
  | cprobe (o : Ops2) (x : Xs)
  /-- CFLUSH (R252) -/
  | cflush (o : Ops2) (x : Xs)
  /-- CCLR (R252) -/
  | cclr (o : Ops2) (x : Xs)
  /-- PRUN (R267) -/
  | prun (o : Ops2) (x : Xs)
  /-- PRUNT (R267) -/
  | prunt (o : Ops2) (x : Xs)
  /-- PCNT (R267) -/
  | pcnt (o : Ops2) (x : Xs)
  /-- CSRW (R248) -/
  | csrw (o : Ops2) (x : Xs)
  /-- NMX (R250) -/
  | nmx (o : Ops2) (x : Xs)
  /-- GATHB (R249) -/
  | gathb (o : Ops2) (x : Xs)
  /-- SYSRD (R366) -/
  | sysrd (o : Ops2) (x : Xsys)
  /-- SYSWR (R367) -/
  | syswr (o : Ops2) (x : Xsys)
  /-- RDTIME (R368) -/
  | rdtime (o : Ops2)
  /-- RDCOORD (R342) -/
  | rdcoord (o : Ops2)
  /-- EVT (R410) -/
  | evt (o : Ops2) (x : Xh)
  /-- PERFRD (R407) -/
  | perfrd (o : Ops2)
  /-- KILN (R379) -/
  | kiln (o : Ops2) (x : Xh)
  /-- TOKEN_ARRIVAL (R76) -/
  | tokenArrival (m : Nat)
  /-- FLIT_HOP (R24) -/
  | flitHop (m : Nat)
  /-- PIPELINE_COMPLETION (R144) -/
  | pipelineCompletion (p : Pos) (k : Nat)
  /-- TOKEN_INJECT (R144) -/
  | tokenInject (p : Pos) (m : Nat)
  /-- SPILL (R77) -/
  | spill (p : Pos) (k : Nat)
  /-- CELLAR_LOOKUP (R77) -/
  | cellarLookup (p : Pos) (m : Nat)
  /-- FRAME_OPERATION (R64) -/
  | frameOperation (m : Nat)
  /-- NEXT_SEND (R70) -/
  | nextSend (p : Pos) (k : Nat)
  /-- LOOPN_EMISSION (R90) -/
  | loopnEmission (p : Pos) (k : Nat)
  /-- FRAME_GRANT (R88) -/
  | frameGrant (w : Nat)
  /-- FRAME_RELEASE (R89) -/
  | frameRelease (w : Nat)
  /-- PURGE_ACKNOWLEDGED (R89) -/
  | purgeAcknowledged (m : Nat)
  /-- PARK_CHANGE (R73) -/
  | parkChange (m : Nat)
  /-- FPCTL_APPLY (R132) -/
  | fpctlApply (m : Nat)
  /-- SWITCH_DECISION (R118) -/
  | switchDecision (m : Nat)
  /-- UNIT_EMPTY_REPORT (R118) -/
  | unitEmptyReport (r : Nat) (u : Pos)
  /-- SLOT_CHANGE (R118) -/
  | slotChange (r : Nat)
  /-- TRANSACTION_ACQUIRE (R272) -/
  | transactionAcquire (q : Nat)
  /-- MEMORY_REQUEST (R275) -/
  | memoryRequest (q : Nat) (j : Nat)
  /-- INTERNAL_COMPLETION (R272) -/
  | internalCompletion (m : Nat)
  /-- HBM_SERVE (R282) -/
  | hbmServe (q : Nat) (j : Nat)
  /-- REFRESH_DUE (R283) -/
  | refreshDue (c : Nat) (b : Nat)
  /-- REFRESH_ISSUE (R283) -/
  | refreshIssue (c : Nat) (b : Nat)
  /-- REFRESH_END (R283) -/
  | refreshEnd (c : Nat) (b : Nat)
  /-- CATCH_UP (R283) -/
  | catchUp (c : Nat)
  /-- CATCH_UP_END (R283) -/
  | catchUpEnd (c : Nat)
  /-- PENDING_MISS (R288) -/
  | pendingMiss (q : Nat) (j : Nat)
  /-- WALK_COMPLETE (R288) -/
  | walkComplete (k : Nat)
  /-- FAULT_RETRY (R290) -/
  | faultRetry (q : Nat) (j : Nat)
  /-- TRANSACTION_TIMEOUT (R364) -/
  | transactionTimeout (q : Nat) (j : Nat)
  /-- LATE_REPLY (R364) -/
  | lateReply (q : Nat) (j : Nat)
  /-- RING_PUSH (R200) -/
  | ringPush (k : Nat)
  /-- COPY_UNIT (R212) -/
  | copyUnit (p : Pos) (k : Nat)
  /-- STRMI_BLOCK (R213) -/
  | strmiBlock (p : Pos) (k : Nat)
  /-- ENGINE_COMPLETION (R201) -/
  | engineCompletion (p : Pos) (k : Nat)
  /-- MERGE_RECORD (R256) -/
  | mergeRecord (p : Pos)
  /-- MILL_REQUEST (R266) -/
  | millRequest (u : Pos) (c : Nat)
  /-- MILL_COORDINATE (R267) -/
  | millCoordinate (u : Pos) (c : Nat)
  /-- MILL_SLOT (R268) -/
  | millSlot (u : Pos) (c : Nat)
  /-- SEQUENCER_BEGIN (R223) -/
  | sequencerBegin (p : Pos)
  /-- CHUNK_LOAD (R223) -/
  | chunkLoad (p : Pos)
  /-- MATRIX_ROW (R226) -/
  | matrixRow (p : Pos)
  /-- ADJUNCT_FILL (R230) -/
  | adjunctFill (k : Nat)
  /-- ADAPTER_PASS (R228) -/
  | adapterPass (p : Pos)
  /-- COMMIT (R224) -/
  | commit (p : Pos)
  /-- ABANDON (R225) -/
  | abandon (p : Pos)
  /-- LAUNCH_QUEUE_TAKE (R324) -/
  | launchQueueTake (d : Nat)
  /-- COUNTER_DECREMENT (R326) -/
  | counterDecrement (m : Nat)
  /-- DISPATCH (R32) -/
  | dispatch (d : Nat) (k : Nat)
  /-- WAKE_COMPLETE (R110) -/
  | wakeComplete (r : Nat)
  /-- INSTALL_COMPLETE (R32) -/
  | installComplete (r : Nat)
  /-- INSTALL_PREEMPT (R111) -/
  | installPreempt (r : Nat)
  /-- INSTANCE_COMPLETE (R34) -/
  | instanceComplete (r : Nat)
  /-- SHARE_REPORT (R327) -/
  | shareReport (m : Nat)
  /-- NODE_FAIL (R328) -/
  | nodeFail (run : Nat) (n : Nat)
  /-- CONDITION_NODE (R329) -/
  | conditionNode (run : Nat) (n : Nat)
  /-- WHILE_NODE (R330) -/
  | whileNode (run : Nat) (n : Nat)
  /-- RUN_END (R325) -/
  | runEnd (run : Nat)
  /-- RESERVATION (R333) -/
  | reservation (d : Nat)
  /-- BARRIER_OPERATION (R336) -/
  | barrierOperation (m : Nat)
  /-- BARRIER_WAKE (R340) -/
  | barrierWake (m : Nat)
  /-- DEADLINE_EXPIRY (R351) -/
  | deadlineExpiry (r : Nat)
  /-- COOPERATIVE_SAVE (R351) -/
  | cooperativeSave (r : Nat)
  /-- CAPTURE_BEGIN (R353) -/
  | captureBegin (r : Nat)
  /-- SAVE_COMPLETE (R354) -/
  | saveComplete (r : Nat)
  /-- YR_WITHDRAW (R352) -/
  | yrWithdraw (r : Nat)
  /-- RESUME (R357) -/
  | resume (r : Nat)
  /-- REGION_ERROR (R361) -/
  | regionError (m : Nat)
  /-- WATCHDOG (R363) -/
  | watchdog (r : Nat)
  /-- ABORT_COMPLETION (R373) -/
  | abortCompletion (m : Nat)
  /-- SAMPLE_TICK (R403) -/
  | sampleTick (fn : Nat) (u : Pos)
  /-- RECORD_PERFORMED (R402) -/
  | recordPerformed (k : Nat)
  /-- EVENT_COLLECT (R408) -/
  | eventCollect (m : Nat)
  /-- HANDLE_COPY_UPDATE (R185) -/
  | handleCopyUpdate (m : Nat)
  /-- SYSTEM_REGISTER_REQUEST (R366) -/
  | systemRegisterRequest (m : Nat)
  /-- FRAME_PURGE (R89) -/
  | framePurge (m : Nat)
  /-- AGING_PERIOD (R331) -/
  | agingPeriod
  /-- BUCKET_ROTATE (R375) -/
  | bucketRotate
  /-- KILN_SUBMIT (R377) -/
  | kilnSubmit
  /-- KILN_SCAN_END (R379) -/
  | kilnScanEnd
  /-- KILN_ABORT (R378) -/
  | kilnAbort
  /-- FABRIC_STOP_END (R393) -/
  | fabricStopEnd
  /-- BOOT (R399) -/
  | boot
  /-- TRAINING_END (R398) -/
  | trainingEnd
  /-- FULL_SERVICE (R398) -/
  | fullService
  /-- TEMPERATURE_READING (R284) -/
  | temperatureReading (g : Nat) (t : Int)
  /-- PEER_REQUEST (R389) -/
  | peerRequest (a : PeerAccess)
  /-- HOST_BAR1_ACCESS (R383) -/
  | hostBar1Access (fn : Nat) (a : HostAccess)
  /-- PLAUNCH (R384) -/
  | plaunch (fn : Nat) (w : Word)
  /-- UNCORRECTABLE_DATA (R370) -/
  | uncorrectableData (q : BadHolder) (j : Nat)
  /-- CORRECTED_ERROR (R375) -/
  | correctedError (u : UnitName)
  /-- PSETUP (R382) -/
  | psetup (fn : Nat) (a : PartSetup)
  /-- GINSTALL (R318) -/
  | ginstall (fn : Nat) (im : Word) (tab : Word) (n : Nat)
  /-- GREMOVE (R385) -/
  | gremove (fn : Nat) (g : Nat)
  /-- TLBINV (R292) -/
  | tlbinv (fn : Nat) (a : TlbScope)
  /-- FANSWER (R290) -/
  | fanswer (fn : Nat) (fid : Nat) (resume : Bool)
  /-- KILL (R361) -/
  | kill (fn : Nat) (run : Nat)
  /-- ELOG (R371) -/
  | elog (fn : Nat) (d : Nat) (base : Nat) (len : Nat)
  /-- PWR (R393) -/
  | pwr (fn : Nat) (dps : Nat)
  /-- CGATE (R394) -/
  | cgate (fn : Nat) (mask : List Pos)
  /-- ATTEST (R400) -/
  | attest (fn : Nat) (nonce : BitVec 256)
  /-- WINSET (R389) -/
  | winset (fn : Nat) (pt : Nat) (w : Nat) (e : Word)
  /-- EXPSET (R389) -/
  | expset (fn : Nat) (i : Nat) (e : Word)
  /-- CSRAMCFG_WRITE (R108) -/
  | csramcfgWrite (fn : Nat) (u : Pos) (v : Word)
  /-- OBS_RING_CONFIG (R401) -/
  | obsRingConfig (fn : Nat) (ring : ObsRing) (len : Bool) (v : Word)
  /-- DROPS_WRITE (R401) -/
  | dropsWrite (fn : Nat) (ring : ObsRing) (v : Word)
  /-- SMPCFG_WRITE (R403) -/
  | smpcfgWrite (fn : Nat) (v : Word)
  /-- SELECTOR_WRITE (R406) -/
  | selectorWrite (fn : Nat) (die : Bool) (i : Nat) (v : Word)
  /-- REGISTER_WRITE (R386) -/
  | registerWrite (fn : Nat) (a : HostReg) (v : Word)
  /-- THERMAL_CLAMP (R395) -/
  | thermalClamp (d : Nat) (t : Int)
  /-- LINK_RETRAIN_FAIL (R391) -/
  | linkRetrainFail (l : Nat)
  /-- FLIT_RETRY (R391) -/
  | flitRetry (m : Nat) (late : Nat)
  deriving DecidableEq, Repr

end Sys2Proof
end

