-- ==== Sys2Proof/Machine/Rules.lean ====
section
/-! DEFINITION. The instruction word field by field (spec/02 R35 to R47): View, what each instruction's fields are, which
form each opcode has (R49), the fields each instruction may hold (the ESEL and ETA rules of R38, R40, R41, R44, R45,
R46, R47, R83, R117, R204, R222, R232, R247, R255, R294, R337, R345, R365, R379, R410), the classes it is legal on (R49)
and the tag actions those classes take (R40). -/

namespace Sys2Proof

/-- The extension word of a form (R42 to R47). -/
inductive Ext
  | short
  | xv (sc : Src)
  | xm (x : Xm)
  | xx (x : Xx)
  | xh (x : Xh)
  | xbar (x : Xbar)
  | xsys (x : Xsys)
  | xs (x : Xs)
  deriving DecidableEq, Repr

/-- Which form an opcode has (R49). -/
inductive Form | short | xv | xm | xx | xh | xbar | xsys | xs
  deriving DecidableEq, Repr

/-- The fields of an instruction word and of its extension (R35). `sc` is side C selected in D1 (R38). -/
structure View where
  op : Nat
  ta : TagAction
  sa : Src
  sb : Src
  sc : Option Src
  d0 : Dst
  d1 : Dst
  ext : Ext
  deriving DecidableEq, Repr

/-- FFMA and ACAS select side C in D1 (R38). -/
def sideCInD1 (op : Nat) : Bool := op == 0x43 || op == 0x9B

/-- The form of each opcode of R49; none for a reserved opcode (R50). -/
def formOf (op : Nat) : Option Form :=
  if 0x01 ≤ op ∧ op ≤ 0x0F then some .short
  else if 0x20 ≤ op ∧ op ≤ 0x57 then some .short
  else if op = 0x63 ∨ op = 0x6F ∨ op = 0x82 then some .xv
  else if 0x60 ≤ op ∧ op ≤ 0x87 then some .short
  else if 0x90 ≤ op ∧ op ≤ 0x9E then some .xm
  else if 0xA0 ≤ op ∧ op ≤ 0xAB then some .xh
  else if op = 0xAC ∨ (0xB0 ≤ op ∧ op ≤ 0xB3) then some .xbar
  else if op = 0xBE then some .xh
  else if 0xB8 ≤ op ∧ op ≤ 0xBF then some .xx
  else if 0xC0 ≤ op ∧ op ≤ 0xC9 then some .xs
  else if op = 0xE0 ∨ op = 0xE1 then some .xsys
  else if op = 0xE2 ∨ op = 0xE3 ∨ op = 0xE5 then some .short
  else if op = 0xE4 ∨ op = 0xE6 then some .xh
  else none

/-- The fields of an instruction; none for a step of the part, which no word encodes. -/
def Instr.view : Instr → Option View
  | .mov o => some ⟨0x01, o.ta, o.sa, o.sb, none, o.d0, o.d1, .short⟩
  | .steer o => some ⟨0x02, o.ta, o.sa, o.sb, none, o.d0, o.d1, .short⟩
  | .merge o => some ⟨0x03, o.ta, o.sa, o.sb, none, o.d0, o.d1, .short⟩
  | .join o => some ⟨0x04, .keep, o.sa, .t, none, o.d0, o.d1, .short⟩
  | .falloc o => some ⟨0x05, o.ta, o.sa, .c o.sb, none, o.d0, o.d1, .short⟩
  | .ffree o => some ⟨0x06, .keep, o.sa, o.sb, none, o.d0, o.d1, .short⟩
  | .loopn o => some ⟨0x07, .keep, o.sa, o.sb, none, o.d0, o.d1, .short⟩
  | .call o => some ⟨0x08, .keep, o.sa, .c o.sb, none, o.d0, o.d1, .short⟩
  | .ret o => some ⟨0x09, .keep, o.sa, o.sb, none, none, none, .short⟩
  | .yield o => some ⟨0x0A, o.ta, o.sa, o.sb, none, o.d0, o.d1, .short⟩
  | .trap sa => some ⟨0x0B, .keep, sa, .n, none, none, none, .short⟩
  | .assert o => some ⟨0x0C, o.ta, o.sa, o.sb, none, o.d0, o.d1, .short⟩
  | .wset o => some ⟨0x0D, o.ta, o.sa, o.sb, none, o.d0, o.d1, .short⟩
  | .switch o => some ⟨0x0E, .keep, o.sa, o.sb, none, none, none, .short⟩
  | .condw o => some ⟨0x0F, o.ta, o.sa, o.sb, none, o.d0, o.d1, .short⟩
  | .add o => some ⟨0x20, o.ta, o.sa, o.sb, none, o.d0, o.d1, .short⟩
  | .sub o => some ⟨0x21, o.ta, o.sa, o.sb, none, o.d0, o.d1, .short⟩
  | .mul o => some ⟨0x22, o.ta, o.sa, o.sb, none, o.d0, o.d1, .short⟩
  | .mulhs o => some ⟨0x23, o.ta, o.sa, o.sb, none, o.d0, o.d1, .short⟩
  | .mulhu o => some ⟨0x24, o.ta, o.sa, o.sb, none, o.d0, o.d1, .short⟩
  | .divs o => some ⟨0x25, o.ta, o.sa, o.sb, none, o.d0, o.d1, .short⟩
  | .divu o => some ⟨0x26, o.ta, o.sa, o.sb, none, o.d0, o.d1, .short⟩
  | .rems o => some ⟨0x27, o.ta, o.sa, o.sb, none, o.d0, o.d1, .short⟩
  | .remu o => some ⟨0x28, o.ta, o.sa, o.sb, none, o.d0, o.d1, .short⟩
  | .and o => some ⟨0x29, o.ta, o.sa, o.sb, none, o.d0, o.d1, .short⟩
  | .or o => some ⟨0x2A, o.ta, o.sa, o.sb, none, o.d0, o.d1, .short⟩
  | .xor o => some ⟨0x2B, o.ta, o.sa, o.sb, none, o.d0, o.d1, .short⟩
  | .andn o => some ⟨0x2C, o.ta, o.sa, o.sb, none, o.d0, o.d1, .short⟩
  | .shl o => some ⟨0x2D, o.ta, o.sa, o.sb, none, o.d0, o.d1, .short⟩
  | .shr o => some ⟨0x2E, o.ta, o.sa, o.sb, none, o.d0, o.d1, .short⟩
  | .sra o => some ⟨0x2F, o.ta, o.sa, o.sb, none, o.d0, o.d1, .short⟩
  | .rol o => some ⟨0x30, o.ta, o.sa, o.sb, none, o.d0, o.d1, .short⟩
  | .mins o => some ⟨0x31, o.ta, o.sa, o.sb, none, o.d0, o.d1, .short⟩
  | .minu o => some ⟨0x32, o.ta, o.sa, o.sb, none, o.d0, o.d1, .short⟩
  | .maxs o => some ⟨0x33, o.ta, o.sa, o.sb, none, o.d0, o.d1, .short⟩
  | .maxu o => some ⟨0x34, o.ta, o.sa, o.sb, none, o.d0, o.d1, .short⟩
  | .ceq o => some ⟨0x35, o.ta, o.sa, o.sb, none, o.d0, o.d1, .short⟩
  | .cne o => some ⟨0x36, o.ta, o.sa, o.sb, none, o.d0, o.d1, .short⟩
  | .clts o => some ⟨0x37, o.ta, o.sa, o.sb, none, o.d0, o.d1, .short⟩
  | .cltu o => some ⟨0x38, o.ta, o.sa, o.sb, none, o.d0, o.d1, .short⟩
  | .cles o => some ⟨0x39, o.ta, o.sa, o.sb, none, o.d0, o.d1, .short⟩
  | .cleu o => some ⟨0x3A, o.ta, o.sa, o.sb, none, o.d0, o.d1, .short⟩
  | .clz o => some ⟨0x3B, o.ta, o.sa, .n, none, o.d0, o.d1, .short⟩
  | .popc o => some ⟨0x3C, o.ta, o.sa, .n, none, o.d0, o.d1, .short⟩
  | .bfx o => some ⟨0x3D, o.ta, o.sa, o.sb, none, o.d0, o.d1, .short⟩
  | .sext o => some ⟨0x3E, o.ta, o.sa, o.sb, none, o.d0, o.d1, .short⟩
  | .zext o => some ⟨0x3F, o.ta, o.sa, o.sb, none, o.d0, o.d1, .short⟩
  | .fadd o => some ⟨0x40, o.ta, o.sa, o.sb, none, o.d0, o.d1, .short⟩
  | .fsub o => some ⟨0x41, o.ta, o.sa, o.sb, none, o.d0, o.d1, .short⟩
  | .fmul o => some ⟨0x42, o.ta, o.sa, o.sb, none, o.d0, o.d1, .short⟩
  | .ffma o => some ⟨0x43, o.ta, o.sa, o.sb, some o.sc, o.d0, none, .short⟩
  | .fmin o => some ⟨0x44, o.ta, o.sa, o.sb, none, o.d0, o.d1, .short⟩
  | .fmax o => some ⟨0x45, o.ta, o.sa, o.sb, none, o.d0, o.d1, .short⟩
  | .fabs o => some ⟨0x46, o.ta, o.sa, .n, none, o.d0, o.d1, .short⟩
  | .fneg o => some ⟨0x47, o.ta, o.sa, .n, none, o.d0, o.d1, .short⟩
  | .fceq o => some ⟨0x48, o.ta, o.sa, o.sb, none, o.d0, o.d1, .short⟩
  | .fclt o => some ⟨0x49, o.ta, o.sa, o.sb, none, o.d0, o.d1, .short⟩
  | .fcle o => some ⟨0x4A, o.ta, o.sa, o.sb, none, o.d0, o.d1, .short⟩
  | .fcun o => some ⟨0x4B, o.ta, o.sa, o.sb, none, o.d0, o.d1, .short⟩
  | .frsq o => some ⟨0x4C, o.ta, o.sa, .n, none, o.d0, o.d1, .short⟩
  | .frcp o => some ⟨0x4D, o.ta, o.sa, .n, none, o.d0, o.d1, .short⟩
  | .fexp2 o => some ⟨0x4E, o.ta, o.sa, .n, none, o.d0, o.d1, .short⟩
  | .flog2 o => some ⟨0x4F, o.ta, o.sa, .n, none, o.d0, o.d1, .short⟩
  | .fclass o => some ⟨0x50, o.ta, o.sa, .n, none, o.d0, o.d1, .short⟩
  | .frnd o => some ⟨0x51, o.ta, o.sa, o.sb, none, o.d0, o.d1, .short⟩
  | .fcvti o => some ⟨0x52, o.ta, o.sa, o.sb, none, o.d0, o.d1, .short⟩
  | .icvtf o => some ⟨0x53, o.ta, o.sa, o.sb, none, o.d0, o.d1, .short⟩
  | .fpack o => some ⟨0x54, o.ta, o.sa, o.sb, none, o.d0, o.d1, .short⟩
  | .fhi o => some ⟨0x55, o.ta, o.sa, .n, none, o.d0, o.d1, .short⟩
  | .fscalb o => some ⟨0x56, o.ta, o.sa, o.sb, none, o.d0, o.d1, .short⟩
  | .fcvt o => some ⟨0x57, o.ta, o.sa, o.sb, none, o.d0, o.d1, .short⟩
  | .vadd o => some ⟨0x60, o.ta, o.sa, o.sb, none, o.d0, o.d1, .short⟩
  | .vsub o => some ⟨0x61, o.ta, o.sa, o.sb, none, o.d0, o.d1, .short⟩
  | .vmul o => some ⟨0x62, o.ta, o.sa, o.sb, none, o.d0, o.d1, .short⟩
  | .vfma o sc => some ⟨0x63, o.ta, o.sa, o.sb, none, o.d0, o.d1, (.xv sc)⟩
  | .vmin o => some ⟨0x64, o.ta, o.sa, o.sb, none, o.d0, o.d1, .short⟩
  | .vmax o => some ⟨0x65, o.ta, o.sa, o.sb, none, o.d0, o.d1, .short⟩
  | .vabs o => some ⟨0x66, o.ta, o.sa, .n, none, o.d0, o.d1, .short⟩
  | .vneg o => some ⟨0x67, o.ta, o.sa, .n, none, o.d0, o.d1, .short⟩
  | .vrcp o => some ⟨0x68, o.ta, o.sa, .n, none, o.d0, o.d1, .short⟩
  | .vrsq o => some ⟨0x69, o.ta, o.sa, .n, none, o.d0, o.d1, .short⟩
  | .vexp2 o => some ⟨0x6A, o.ta, o.sa, .n, none, o.d0, o.d1, .short⟩
  | .vlog2 o => some ⟨0x6B, o.ta, o.sa, .n, none, o.d0, o.d1, .short⟩
  | .vceq o => some ⟨0x6C, o.ta, o.sa, o.sb, none, o.d0, o.d1, .short⟩
  | .vclt o => some ⟨0x6D, o.ta, o.sa, o.sb, none, o.d0, o.d1, .short⟩
  | .vcle o => some ⟨0x6E, o.ta, o.sa, o.sb, none, o.d0, o.d1, .short⟩
  | .vsel o sc => some ⟨0x6F, o.ta, o.sa, o.sb, none, o.d0, o.d1, (.xv sc)⟩
  | .vrsum o => some ⟨0x70, o.ta, o.sa, .n, none, o.d0, o.d1, .short⟩
  | .vrmax o => some ⟨0x71, o.ta, o.sa, .n, none, o.d0, o.d1, .short⟩
  | .vscan o => some ⟨0x72, o.ta, o.sa, o.sb, none, o.d0, o.d1, .short⟩
  | .vshuf o => some ⟨0x73, o.ta, o.sa, o.sb, none, o.d0, o.d1, .short⟩
  | .vbcast o => some ⟨0x74, o.ta, o.sa, o.sb, none, o.d0, o.d1, .short⟩
  | .viadd o => some ⟨0x75, o.ta, o.sa, o.sb, none, o.d0, o.d1, .short⟩
  | .visub o => some ⟨0x76, o.ta, o.sa, o.sb, none, o.d0, o.d1, .short⟩
  | .vimul o => some ⟨0x77, o.ta, o.sa, o.sb, none, o.d0, o.d1, .short⟩
  | .vand o => some ⟨0x78, o.ta, o.sa, o.sb, none, o.d0, o.d1, .short⟩
  | .vor o => some ⟨0x79, o.ta, o.sa, o.sb, none, o.d0, o.d1, .short⟩
  | .vxor o => some ⟨0x7A, o.ta, o.sa, o.sb, none, o.d0, o.d1, .short⟩
  | .vshl o => some ⟨0x7B, o.ta, o.sa, o.sb, none, o.d0, o.d1, .short⟩
  | .vshr o => some ⟨0x7C, o.ta, o.sa, o.sb, none, o.d0, o.d1, .short⟩
  | .vsra o => some ⟨0x7D, o.ta, o.sa, o.sb, none, o.d0, o.d1, .short⟩
  | .vimin o => some ⟨0x7E, o.ta, o.sa, o.sb, none, o.d0, o.d1, .short⟩
  | .vimax o => some ⟨0x7F, o.ta, o.sa, o.sb, none, o.d0, o.d1, .short⟩
  | .vcvti o => some ⟨0x80, o.ta, o.sa, o.sb, none, o.d0, o.d1, .short⟩
  | .vcvtf o => some ⟨0x81, o.ta, o.sa, o.sb, none, o.d0, o.d1, .short⟩
  | .vins o sc => some ⟨0x82, o.ta, o.sa, o.sb, none, o.d0, o.d1, (.xv sc)⟩
  | .vext o => some ⟨0x83, o.ta, o.sa, o.sb, none, o.d0, o.d1, .short⟩
  | .vsplat o => some ⟨0x84, o.ta, o.sa, o.sb, none, o.d0, o.d1, .short⟩
  | .vclass o => some ⟨0x85, o.ta, o.sa, .n, none, o.d0, o.d1, .short⟩
  | .vrnd o => some ⟨0x86, o.ta, o.sa, o.sb, none, o.d0, o.d1, .short⟩
  | .vdot o => some ⟨0x87, o.ta, o.sa, o.sb, none, o.d0, o.d1, .short⟩
  | .ld o x => some ⟨0x90, o.ta, o.sa, o.sb, none, o.d0, o.d1, (.xm x)⟩
  | .st o x => some ⟨0x91, o.ta, o.sa, o.sb, none, o.d0, o.d1, (.xm x)⟩
  | .ldw o x => some ⟨0x92, o.ta, o.sa, o.sb, none, o.d0, o.d1, (.xm x)⟩
  | .stw o x => some ⟨0x93, o.ta, o.sa, o.sb, none, o.d0, o.d1, (.xm x)⟩
  | .ldg o x => some ⟨0x94, o.ta, o.sa, o.sb, none, o.d0, o.d1, (.xm x)⟩
  | .sts o x => some ⟨0x95, o.ta, o.sa, o.sb, none, o.d0, o.d1, (.xm x)⟩
  | .aadd o x => some ⟨0x96, o.ta, o.sa, o.sb, none, o.d0, o.d1, (.xm x)⟩
  | .afadd o x => some ⟨0x97, o.ta, o.sa, o.sb, none, o.d0, o.d1, (.xm x)⟩
  | .amin o x => some ⟨0x98, o.ta, o.sa, o.sb, none, o.d0, o.d1, (.xm x)⟩
  | .amax o x => some ⟨0x99, o.ta, o.sa, o.sb, none, o.d0, o.d1, (.xm x)⟩
  | .axchg o x => some ⟨0x9A, o.ta, o.sa, o.sb, none, o.d0, o.d1, (.xm x)⟩
  | .acas o x => some ⟨0x9B, o.ta, o.sa, o.sb, some o.sc, o.d0, none, (.xm x)⟩
  | .aand o x => some ⟨0x9C, o.ta, o.sa, o.sb, none, o.d0, o.d1, (.xm x)⟩
  | .aor o x => some ⟨0x9D, o.ta, o.sa, o.sb, none, o.d0, o.d1, (.xm x)⟩
  | .fence o x => some ⟨0x9E, o.ta, o.sa, o.sb, none, o.d0, o.d1, (.xm x)⟩
  | .halloc o x => some ⟨0xA0, o.ta, o.sa, o.sb, none, o.d0, o.d1, (.xh x)⟩
  | .hfree o x => some ⟨0xA1, o.ta, o.sa, o.sb, none, o.d0, o.d1, (.xh x)⟩
  | .hmap o x => some ⟨0xA2, o.ta, o.sa, o.sb, none, o.d0, o.d1, (.xh x)⟩
  | .hfmt o x => some ⟨0xA3, o.ta, o.sa, o.sb, none, o.d0, o.d1, (.xh x)⟩
  | .hdesc o x => some ⟨0xA4, o.ta, o.sa, o.sb, none, o.d0, o.d1, (.xh x)⟩
  | .rpush o x => some ⟨0xA5, o.ta, o.sa, o.sb, none, o.d0, o.d1, (.xh x)⟩
  | .copy o x => some ⟨0xA6, o.ta, o.sa, o.sb, none, o.d0, o.d1, (.xh x)⟩
  | .strmi o x => some ⟨0xA7, o.ta, o.sa, o.sb, none, o.d0, o.d1, (.xh x)⟩
  | .strmo o x => some ⟨0xA8, o.ta, o.sa, o.sb, none, o.d0, o.d1, (.xh x)⟩
  | .relm o x => some ⟨0xA9, o.ta, o.sa, o.sb, none, o.d0, o.d1, (.xh x)⟩
  | .mrg o x => some ⟨0xAA, o.ta, o.sa, o.sb, none, o.d0, o.d1, (.xh x)⟩
  | .launch o x => some ⟨0xAB, o.ta, o.sa, o.sb, none, o.d0, o.d1, (.xh x)⟩
  | .sstep o x => some ⟨0xAC, o.ta, o.sa, o.sb, none, o.d0, o.d1, (.xbar x)⟩
  | .bari o x => some ⟨0xB0, o.ta, o.sa, o.sb, none, o.d0, o.d1, (.xbar x)⟩
  | .bar o x => some ⟨0xB1, o.ta, o.sa, o.sb, none, o.d0, o.d1, (.xbar x)⟩
  | .bara o x => some ⟨0xB2, o.ta, o.sa, o.sb, none, o.d0, o.d1, (.xbar x)⟩
  | .bard o x => some ⟨0xB3, o.ta, o.sa, o.sb, none, o.d0, o.d1, (.xbar x)⟩
  | .mldb o x => some ⟨0xB8, o.ta, o.sa, o.sb, none, o.d0, o.d1, (.xx x)⟩
  | .mma o x => some ⟨0xB9, o.ta, o.sa, o.sb, none, o.d0, o.d1, (.xx x)⟩
  | .mmas o x => some ⟨0xBA, o.ta, o.sa, o.sb, none, o.d0, o.d1, (.xx x)⟩
  | .mmap o x => some ⟨0xBB, o.ta, o.sa, o.sb, none, o.d0, o.d1, (.xx x)⟩
  | .mzero o x => some ⟨0xBC, o.ta, o.sa, o.sb, none, o.d0, o.d1, (.xx x)⟩
  | .mout o x => some ⟨0xBD, o.ta, o.sa, o.sb, none, o.d0, o.d1, (.xx x)⟩
  | .madj o x => some ⟨0xBE, o.ta, o.sa, o.sb, none, o.d0, o.d1, (.xh x)⟩
  | .mstat o x => some ⟨0xBF, o.ta, o.sa, o.sb, none, o.d0, o.d1, (.xx x)⟩
  | .cload o x => some ⟨0xC0, o.ta, o.sa, o.sb, none, o.d0, o.d1, (.xs x)⟩
  | .cprobe o x => some ⟨0xC1, o.ta, o.sa, o.sb, none, o.d0, o.d1, (.xs x)⟩
  | .cflush o x => some ⟨0xC2, o.ta, o.sa, o.sb, none, o.d0, o.d1, (.xs x)⟩
  | .cclr o x => some ⟨0xC3, o.ta, o.sa, o.sb, none, o.d0, o.d1, (.xs x)⟩
  | .prun o x => some ⟨0xC4, o.ta, o.sa, o.sb, none, o.d0, o.d1, (.xs x)⟩
  | .prunt o x => some ⟨0xC5, o.ta, o.sa, o.sb, none, o.d0, o.d1, (.xs x)⟩
  | .pcnt o x => some ⟨0xC6, o.ta, o.sa, o.sb, none, o.d0, o.d1, (.xs x)⟩
  | .csrw o x => some ⟨0xC7, o.ta, o.sa, o.sb, none, o.d0, o.d1, (.xs x)⟩
  | .nmx o x => some ⟨0xC8, o.ta, o.sa, o.sb, none, o.d0, o.d1, (.xs x)⟩
  | .gathb o x => some ⟨0xC9, o.ta, o.sa, o.sb, none, o.d0, o.d1, (.xs x)⟩
  | .sysrd o x => some ⟨0xE0, o.ta, o.sa, o.sb, none, o.d0, o.d1, (.xsys x)⟩
  | .syswr o x => some ⟨0xE1, o.ta, o.sa, o.sb, none, o.d0, o.d1, (.xsys x)⟩
  | .rdtime o => some ⟨0xE2, o.ta, o.sa, o.sb, none, o.d0, o.d1, .short⟩
  | .rdcoord o => some ⟨0xE3, o.ta, o.sa, o.sb, none, o.d0, o.d1, .short⟩
  | .evt o x => some ⟨0xE4, o.ta, o.sa, o.sb, none, o.d0, o.d1, (.xh x)⟩
  | .perfrd o => some ⟨0xE5, o.ta, o.sa, o.sb, none, o.d0, o.d1, .short⟩
  | .kiln o x => some ⟨0xE6, o.ta, o.sa, o.sb, none, o.d0, o.d1, (.xh x)⟩
  | _ => none

/-- The instruction a View's fields name. -/
def View.toInstr (v : View) : Option Instr :=
  match v.op with
  | 0x01 => some (.mov ⟨v.ta, v.sa, v.sb, v.d0, v.d1⟩)
  | 0x02 => some (.steer ⟨v.ta, v.sa, v.sb, v.d0, v.d1⟩)
  | 0x03 => some (.merge ⟨v.ta, v.sa, v.sb, v.d0, v.d1⟩)
  | 0x04 => some (.join ⟨v.sa, v.d0, v.d1⟩)
  | 0x05 => (match v.sb with | .c k => some (.falloc ⟨v.ta, v.sa, k, v.d0, v.d1⟩) | _ => none)
  | 0x06 => some (.ffree ⟨v.sa, v.sb, v.d0, v.d1⟩)
  | 0x07 => some (.loopn ⟨v.sa, v.sb, v.d0, v.d1⟩)
  | 0x08 => (match v.sb with | .c k => some (.call ⟨v.sa, k, v.d0, v.d1⟩) | _ => none)
  | 0x09 => some (.ret ⟨v.sa, v.sb⟩)
  | 0x0A => some (.yield ⟨v.ta, v.sa, v.sb, v.d0, v.d1⟩)
  | 0x0B => some (.trap v.sa)
  | 0x0C => some (.assert ⟨v.ta, v.sa, v.sb, v.d0, v.d1⟩)
  | 0x0D => some (.wset ⟨v.ta, v.sa, v.sb, v.d0, v.d1⟩)
  | 0x0E => some (.switch ⟨v.sa, v.sb⟩)
  | 0x0F => some (.condw ⟨v.ta, v.sa, v.sb, v.d0, v.d1⟩)
  | 0x20 => some (.add ⟨v.ta, v.sa, v.sb, v.d0, v.d1⟩)
  | 0x21 => some (.sub ⟨v.ta, v.sa, v.sb, v.d0, v.d1⟩)
  | 0x22 => some (.mul ⟨v.ta, v.sa, v.sb, v.d0, v.d1⟩)
  | 0x23 => some (.mulhs ⟨v.ta, v.sa, v.sb, v.d0, v.d1⟩)
  | 0x24 => some (.mulhu ⟨v.ta, v.sa, v.sb, v.d0, v.d1⟩)
  | 0x25 => some (.divs ⟨v.ta, v.sa, v.sb, v.d0, v.d1⟩)
  | 0x26 => some (.divu ⟨v.ta, v.sa, v.sb, v.d0, v.d1⟩)
  | 0x27 => some (.rems ⟨v.ta, v.sa, v.sb, v.d0, v.d1⟩)
  | 0x28 => some (.remu ⟨v.ta, v.sa, v.sb, v.d0, v.d1⟩)
  | 0x29 => some (.and ⟨v.ta, v.sa, v.sb, v.d0, v.d1⟩)
  | 0x2A => some (.or ⟨v.ta, v.sa, v.sb, v.d0, v.d1⟩)
  | 0x2B => some (.xor ⟨v.ta, v.sa, v.sb, v.d0, v.d1⟩)
  | 0x2C => some (.andn ⟨v.ta, v.sa, v.sb, v.d0, v.d1⟩)
  | 0x2D => some (.shl ⟨v.ta, v.sa, v.sb, v.d0, v.d1⟩)
  | 0x2E => some (.shr ⟨v.ta, v.sa, v.sb, v.d0, v.d1⟩)
  | 0x2F => some (.sra ⟨v.ta, v.sa, v.sb, v.d0, v.d1⟩)
  | 0x30 => some (.rol ⟨v.ta, v.sa, v.sb, v.d0, v.d1⟩)
  | 0x31 => some (.mins ⟨v.ta, v.sa, v.sb, v.d0, v.d1⟩)
  | 0x32 => some (.minu ⟨v.ta, v.sa, v.sb, v.d0, v.d1⟩)
  | 0x33 => some (.maxs ⟨v.ta, v.sa, v.sb, v.d0, v.d1⟩)
  | 0x34 => some (.maxu ⟨v.ta, v.sa, v.sb, v.d0, v.d1⟩)
  | 0x35 => some (.ceq ⟨v.ta, v.sa, v.sb, v.d0, v.d1⟩)
  | 0x36 => some (.cne ⟨v.ta, v.sa, v.sb, v.d0, v.d1⟩)
  | 0x37 => some (.clts ⟨v.ta, v.sa, v.sb, v.d0, v.d1⟩)
  | 0x38 => some (.cltu ⟨v.ta, v.sa, v.sb, v.d0, v.d1⟩)
  | 0x39 => some (.cles ⟨v.ta, v.sa, v.sb, v.d0, v.d1⟩)
  | 0x3A => some (.cleu ⟨v.ta, v.sa, v.sb, v.d0, v.d1⟩)
  | 0x3B => some (.clz ⟨v.ta, v.sa, v.d0, v.d1⟩)
  | 0x3C => some (.popc ⟨v.ta, v.sa, v.d0, v.d1⟩)
  | 0x3D => some (.bfx ⟨v.ta, v.sa, v.sb, v.d0, v.d1⟩)
  | 0x3E => some (.sext ⟨v.ta, v.sa, v.sb, v.d0, v.d1⟩)
  | 0x3F => some (.zext ⟨v.ta, v.sa, v.sb, v.d0, v.d1⟩)
  | 0x40 => some (.fadd ⟨v.ta, v.sa, v.sb, v.d0, v.d1⟩)
  | 0x41 => some (.fsub ⟨v.ta, v.sa, v.sb, v.d0, v.d1⟩)
  | 0x42 => some (.fmul ⟨v.ta, v.sa, v.sb, v.d0, v.d1⟩)
  | 0x43 => v.sc.map fun c => .ffma ⟨v.ta, v.sa, v.sb, c, v.d0⟩
  | 0x44 => some (.fmin ⟨v.ta, v.sa, v.sb, v.d0, v.d1⟩)
  | 0x45 => some (.fmax ⟨v.ta, v.sa, v.sb, v.d0, v.d1⟩)
  | 0x46 => some (.fabs ⟨v.ta, v.sa, v.d0, v.d1⟩)
  | 0x47 => some (.fneg ⟨v.ta, v.sa, v.d0, v.d1⟩)
  | 0x48 => some (.fceq ⟨v.ta, v.sa, v.sb, v.d0, v.d1⟩)
  | 0x49 => some (.fclt ⟨v.ta, v.sa, v.sb, v.d0, v.d1⟩)
  | 0x4A => some (.fcle ⟨v.ta, v.sa, v.sb, v.d0, v.d1⟩)
  | 0x4B => some (.fcun ⟨v.ta, v.sa, v.sb, v.d0, v.d1⟩)
  | 0x4C => some (.frsq ⟨v.ta, v.sa, v.d0, v.d1⟩)
  | 0x4D => some (.frcp ⟨v.ta, v.sa, v.d0, v.d1⟩)
  | 0x4E => some (.fexp2 ⟨v.ta, v.sa, v.d0, v.d1⟩)
  | 0x4F => some (.flog2 ⟨v.ta, v.sa, v.d0, v.d1⟩)
  | 0x50 => some (.fclass ⟨v.ta, v.sa, v.d0, v.d1⟩)
  | 0x51 => some (.frnd ⟨v.ta, v.sa, v.sb, v.d0, v.d1⟩)
  | 0x52 => some (.fcvti ⟨v.ta, v.sa, v.sb, v.d0, v.d1⟩)
  | 0x53 => some (.icvtf ⟨v.ta, v.sa, v.sb, v.d0, v.d1⟩)
  | 0x54 => some (.fpack ⟨v.ta, v.sa, v.sb, v.d0, v.d1⟩)
  | 0x55 => some (.fhi ⟨v.ta, v.sa, v.d0, v.d1⟩)
  | 0x56 => some (.fscalb ⟨v.ta, v.sa, v.sb, v.d0, v.d1⟩)
  | 0x57 => some (.fcvt ⟨v.ta, v.sa, v.sb, v.d0, v.d1⟩)
  | 0x60 => some (.vadd ⟨v.ta, v.sa, v.sb, v.d0, v.d1⟩)
  | 0x61 => some (.vsub ⟨v.ta, v.sa, v.sb, v.d0, v.d1⟩)
  | 0x62 => some (.vmul ⟨v.ta, v.sa, v.sb, v.d0, v.d1⟩)
  | 0x63 => (match v.ext with | .xv c => some (.vfma ⟨v.ta, v.sa, v.sb, v.d0, v.d1⟩ c) | _ => none)
  | 0x64 => some (.vmin ⟨v.ta, v.sa, v.sb, v.d0, v.d1⟩)
  | 0x65 => some (.vmax ⟨v.ta, v.sa, v.sb, v.d0, v.d1⟩)
  | 0x66 => some (.vabs ⟨v.ta, v.sa, v.d0, v.d1⟩)
  | 0x67 => some (.vneg ⟨v.ta, v.sa, v.d0, v.d1⟩)
  | 0x68 => some (.vrcp ⟨v.ta, v.sa, v.d0, v.d1⟩)
  | 0x69 => some (.vrsq ⟨v.ta, v.sa, v.d0, v.d1⟩)
  | 0x6A => some (.vexp2 ⟨v.ta, v.sa, v.d0, v.d1⟩)
  | 0x6B => some (.vlog2 ⟨v.ta, v.sa, v.d0, v.d1⟩)
  | 0x6C => some (.vceq ⟨v.ta, v.sa, v.sb, v.d0, v.d1⟩)
  | 0x6D => some (.vclt ⟨v.ta, v.sa, v.sb, v.d0, v.d1⟩)
  | 0x6E => some (.vcle ⟨v.ta, v.sa, v.sb, v.d0, v.d1⟩)
  | 0x6F => (match v.ext with | .xv c => some (.vsel ⟨v.ta, v.sa, v.sb, v.d0, v.d1⟩ c) | _ => none)
  | 0x70 => some (.vrsum ⟨v.ta, v.sa, v.d0, v.d1⟩)
  | 0x71 => some (.vrmax ⟨v.ta, v.sa, v.d0, v.d1⟩)
  | 0x72 => some (.vscan ⟨v.ta, v.sa, v.sb, v.d0, v.d1⟩)
  | 0x73 => some (.vshuf ⟨v.ta, v.sa, v.sb, v.d0, v.d1⟩)
  | 0x74 => some (.vbcast ⟨v.ta, v.sa, v.sb, v.d0, v.d1⟩)
  | 0x75 => some (.viadd ⟨v.ta, v.sa, v.sb, v.d0, v.d1⟩)
  | 0x76 => some (.visub ⟨v.ta, v.sa, v.sb, v.d0, v.d1⟩)
  | 0x77 => some (.vimul ⟨v.ta, v.sa, v.sb, v.d0, v.d1⟩)
  | 0x78 => some (.vand ⟨v.ta, v.sa, v.sb, v.d0, v.d1⟩)
  | 0x79 => some (.vor ⟨v.ta, v.sa, v.sb, v.d0, v.d1⟩)
  | 0x7A => some (.vxor ⟨v.ta, v.sa, v.sb, v.d0, v.d1⟩)
  | 0x7B => some (.vshl ⟨v.ta, v.sa, v.sb, v.d0, v.d1⟩)
  | 0x7C => some (.vshr ⟨v.ta, v.sa, v.sb, v.d0, v.d1⟩)
  | 0x7D => some (.vsra ⟨v.ta, v.sa, v.sb, v.d0, v.d1⟩)
  | 0x7E => some (.vimin ⟨v.ta, v.sa, v.sb, v.d0, v.d1⟩)
  | 0x7F => some (.vimax ⟨v.ta, v.sa, v.sb, v.d0, v.d1⟩)
  | 0x80 => some (.vcvti ⟨v.ta, v.sa, v.sb, v.d0, v.d1⟩)
  | 0x81 => some (.vcvtf ⟨v.ta, v.sa, v.sb, v.d0, v.d1⟩)
  | 0x82 => (match v.ext with | .xv c => some (.vins ⟨v.ta, v.sa, v.sb, v.d0, v.d1⟩ c) | _ => none)
  | 0x83 => some (.vext ⟨v.ta, v.sa, v.sb, v.d0, v.d1⟩)
  | 0x84 => some (.vsplat ⟨v.ta, v.sa, v.sb, v.d0, v.d1⟩)
  | 0x85 => some (.vclass ⟨v.ta, v.sa, v.d0, v.d1⟩)
  | 0x86 => some (.vrnd ⟨v.ta, v.sa, v.sb, v.d0, v.d1⟩)
  | 0x87 => some (.vdot ⟨v.ta, v.sa, v.sb, v.d0, v.d1⟩)
  | 0x90 => (match v.ext with | .xm x => some (.ld ⟨v.ta, v.sa, v.sb, v.d0, v.d1⟩ x) | _ => none)
  | 0x91 => (match v.ext with | .xm x => some (.st ⟨v.ta, v.sa, v.sb, v.d0, v.d1⟩ x) | _ => none)
  | 0x92 => (match v.ext with | .xm x => some (.ldw ⟨v.ta, v.sa, v.sb, v.d0, v.d1⟩ x) | _ => none)
  | 0x93 => (match v.ext with | .xm x => some (.stw ⟨v.ta, v.sa, v.sb, v.d0, v.d1⟩ x) | _ => none)
  | 0x94 => (match v.ext with | .xm x => some (.ldg ⟨v.ta, v.sa, v.sb, v.d0, v.d1⟩ x) | _ => none)
  | 0x95 => (match v.ext with | .xm x => some (.sts ⟨v.ta, v.sa, v.sb, v.d0, v.d1⟩ x) | _ => none)
  | 0x96 => (match v.ext with | .xm x => some (.aadd ⟨v.ta, v.sa, v.sb, v.d0, v.d1⟩ x) | _ => none)
  | 0x97 => (match v.ext with | .xm x => some (.afadd ⟨v.ta, v.sa, v.sb, v.d0, v.d1⟩ x) | _ => none)
  | 0x98 => (match v.ext with | .xm x => some (.amin ⟨v.ta, v.sa, v.sb, v.d0, v.d1⟩ x) | _ => none)
  | 0x99 => (match v.ext with | .xm x => some (.amax ⟨v.ta, v.sa, v.sb, v.d0, v.d1⟩ x) | _ => none)
  | 0x9A => (match v.ext with | .xm x => some (.axchg ⟨v.ta, v.sa, v.sb, v.d0, v.d1⟩ x) | _ => none)
  | 0x9B => (match v.sc, v.ext with | some c, .xm x => some (.acas ⟨v.ta, v.sa, v.sb, c, v.d0⟩ x) | _, _ => none)
  | 0x9C => (match v.ext with | .xm x => some (.aand ⟨v.ta, v.sa, v.sb, v.d0, v.d1⟩ x) | _ => none)
  | 0x9D => (match v.ext with | .xm x => some (.aor ⟨v.ta, v.sa, v.sb, v.d0, v.d1⟩ x) | _ => none)
  | 0x9E => (match v.ext with | .xm x => some (.fence ⟨v.ta, v.sa, v.sb, v.d0, v.d1⟩ x) | _ => none)
  | 0xA0 => (match v.ext with | .xh x => some (.halloc ⟨v.ta, v.sa, v.sb, v.d0, v.d1⟩ x) | _ => none)
  | 0xA1 => (match v.ext with | .xh x => some (.hfree ⟨v.ta, v.sa, v.sb, v.d0, v.d1⟩ x) | _ => none)
  | 0xA2 => (match v.ext with | .xh x => some (.hmap ⟨v.ta, v.sa, v.sb, v.d0, v.d1⟩ x) | _ => none)
  | 0xA3 => (match v.ext with | .xh x => some (.hfmt ⟨v.ta, v.sa, v.sb, v.d0, v.d1⟩ x) | _ => none)
  | 0xA4 => (match v.ext with | .xh x => some (.hdesc ⟨v.ta, v.sa, v.sb, v.d0, v.d1⟩ x) | _ => none)
  | 0xA5 => (match v.ext with | .xh x => some (.rpush ⟨v.ta, v.sa, v.sb, v.d0, v.d1⟩ x) | _ => none)
  | 0xA6 => (match v.ext with | .xh x => some (.copy ⟨v.ta, v.sa, v.sb, v.d0, v.d1⟩ x) | _ => none)
  | 0xA7 => (match v.ext with | .xh x => some (.strmi ⟨v.ta, v.sa, v.sb, v.d0, v.d1⟩ x) | _ => none)
  | 0xA8 => (match v.ext with | .xh x => some (.strmo ⟨v.ta, v.sa, v.sb, v.d0, v.d1⟩ x) | _ => none)
  | 0xA9 => (match v.ext with | .xh x => some (.relm ⟨v.ta, v.sa, v.sb, v.d0, v.d1⟩ x) | _ => none)
  | 0xAA => (match v.ext with | .xh x => some (.mrg ⟨v.ta, v.sa, v.sb, v.d0, v.d1⟩ x) | _ => none)
  | 0xAB => (match v.ext with | .xh x => some (.launch ⟨v.ta, v.sa, v.sb, v.d0, v.d1⟩ x) | _ => none)
  | 0xAC => (match v.ext with | .xbar x => some (.sstep ⟨v.ta, v.sa, v.sb, v.d0, v.d1⟩ x) | _ => none)
  | 0xB0 => (match v.ext with | .xbar x => some (.bari ⟨v.ta, v.sa, v.sb, v.d0, v.d1⟩ x) | _ => none)
  | 0xB1 => (match v.ext with | .xbar x => some (.bar ⟨v.ta, v.sa, v.sb, v.d0, v.d1⟩ x) | _ => none)
  | 0xB2 => (match v.ext with | .xbar x => some (.bara ⟨v.ta, v.sa, v.sb, v.d0, v.d1⟩ x) | _ => none)
  | 0xB3 => (match v.ext with | .xbar x => some (.bard ⟨v.ta, v.sa, v.sb, v.d0, v.d1⟩ x) | _ => none)
  | 0xB8 => (match v.ext with | .xx x => some (.mldb ⟨v.ta, v.sa, v.sb, v.d0, v.d1⟩ x) | _ => none)
  | 0xB9 => (match v.ext with | .xx x => some (.mma ⟨v.ta, v.sa, v.sb, v.d0, v.d1⟩ x) | _ => none)
  | 0xBA => (match v.ext with | .xx x => some (.mmas ⟨v.ta, v.sa, v.sb, v.d0, v.d1⟩ x) | _ => none)
  | 0xBB => (match v.ext with | .xx x => some (.mmap ⟨v.ta, v.sa, v.sb, v.d0, v.d1⟩ x) | _ => none)
  | 0xBC => (match v.ext with | .xx x => some (.mzero ⟨v.ta, v.sa, v.sb, v.d0, v.d1⟩ x) | _ => none)
  | 0xBD => (match v.ext with | .xx x => some (.mout ⟨v.ta, v.sa, v.sb, v.d0, v.d1⟩ x) | _ => none)
  | 0xBE => (match v.ext with | .xh x => some (.madj ⟨v.ta, v.sa, v.sb, v.d0, v.d1⟩ x) | _ => none)
  | 0xBF => (match v.ext with | .xx x => some (.mstat ⟨v.ta, v.sa, v.sb, v.d0, v.d1⟩ x) | _ => none)
  | 0xC0 => (match v.ext with | .xs x => some (.cload ⟨v.ta, v.sa, v.sb, v.d0, v.d1⟩ x) | _ => none)
  | 0xC1 => (match v.ext with | .xs x => some (.cprobe ⟨v.ta, v.sa, v.sb, v.d0, v.d1⟩ x) | _ => none)
  | 0xC2 => (match v.ext with | .xs x => some (.cflush ⟨v.ta, v.sa, v.sb, v.d0, v.d1⟩ x) | _ => none)
  | 0xC3 => (match v.ext with | .xs x => some (.cclr ⟨v.ta, v.sa, v.sb, v.d0, v.d1⟩ x) | _ => none)
  | 0xC4 => (match v.ext with | .xs x => some (.prun ⟨v.ta, v.sa, v.sb, v.d0, v.d1⟩ x) | _ => none)
  | 0xC5 => (match v.ext with | .xs x => some (.prunt ⟨v.ta, v.sa, v.sb, v.d0, v.d1⟩ x) | _ => none)
  | 0xC6 => (match v.ext with | .xs x => some (.pcnt ⟨v.ta, v.sa, v.sb, v.d0, v.d1⟩ x) | _ => none)
  | 0xC7 => (match v.ext with | .xs x => some (.csrw ⟨v.ta, v.sa, v.sb, v.d0, v.d1⟩ x) | _ => none)
  | 0xC8 => (match v.ext with | .xs x => some (.nmx ⟨v.ta, v.sa, v.sb, v.d0, v.d1⟩ x) | _ => none)
  | 0xC9 => (match v.ext with | .xs x => some (.gathb ⟨v.ta, v.sa, v.sb, v.d0, v.d1⟩ x) | _ => none)
  | 0xE0 => (match v.ext with | .xsys x => some (.sysrd ⟨v.ta, v.sa, v.sb, v.d0, v.d1⟩ x) | _ => none)
  | 0xE1 => (match v.ext with | .xsys x => some (.syswr ⟨v.ta, v.sa, v.sb, v.d0, v.d1⟩ x) | _ => none)
  | 0xE2 => some (.rdtime ⟨v.ta, v.sa, v.sb, v.d0, v.d1⟩)
  | 0xE3 => some (.rdcoord ⟨v.ta, v.sa, v.sb, v.d0, v.d1⟩)
  | 0xE4 => (match v.ext with | .xh x => some (.evt ⟨v.ta, v.sa, v.sb, v.d0, v.d1⟩ x) | _ => none)
  | 0xE5 => some (.perfrd ⟨v.ta, v.sa, v.sb, v.d0, v.d1⟩)
  | 0xE6 => (match v.ext with | .xh x => some (.kiln ⟨v.ta, v.sa, v.sb, v.d0, v.d1⟩ x) | _ => none)
  | _ => none

/-- The classes an opcode is legal on (R49). -/
def classesOf (op : Nat) : List ElemClass :=
  if op = 0x01 ∨ op = 0x0D then
    [.s, .v, .a, .q]
  else if (0x02 ≤ op ∧ op ≤ 0x03) ∨ op = 0x0B ∨ (0x90 ≤ op ∧ op ≤ 0x91) ∨ op = 0x9E then
    [.s, .v, .a]
  else if (0x04 ≤ op ∧ op ≤ 0x07) ∨ op = 0x0A ∨ op = 0x0C ∨ (0x20 ≤ op ∧ op ≤ 0x3F) ∨ (0x96 ≤ op ∧ op ≤ 0x9D)
      ∨ op = 0xE5 then
    [.s, .a]
  else if (0x08 ≤ op ∧ op ≤ 0x09) ∨ (0x40 ≤ op ∧ op ≤ 0x57) then
    [.s]
  else if (0x0E ≤ op ∧ op ≤ 0x0F) ∨ (0xA2 ≤ op ∧ op ≤ 0xA3) ∨ (0xA5 ≤ op ∧ op ≤ 0xAC) ∨ op = 0xE6 then
    [.q]
  else if (0x60 ≤ op ∧ op ≤ 0x87) then
    [.v]
  else if (0x92 ≤ op ∧ op ≤ 0x93) then
    [.v, .a, .q]
  else if (0x94 ≤ op ∧ op ≤ 0x95) then
    [.v, .a]
  else if (0xA0 ≤ op ∧ op ≤ 0xA1) ∨ op = 0xA4 then
    [.q, .a]
  else if (0xB0 ≤ op ∧ op ≤ 0xB3) ∨ (0xE0 ≤ op ∧ op ≤ 0xE4) then
    [.s, .a, .q]
  else if (0xB8 ≤ op ∧ op ≤ 0xBF) then
    [.m]
  else if (0xC0 ≤ op ∧ op ≤ 0xC9) then
    [.a]
  else []

/-- Formats a matrix instruction takes for B alone (R222, R232). -/
def matFmt (f : Fmt) : Bool :=
  match f with
  | .e4m3 | .e5m2 | .dl8 | .i8 | .ui8 | .e2m1 | .i4 | .bf16 | .fp16 | .i16 => true
  | .fp32 | .i32 | .raw => false

/-- The format pairs of R222. -/
def matPair (a b : Fmt) : Bool :=
  let fp8 := fun f : Fmt => f == .e4m3 || f == .e5m2 || f == .dl8
  let int8 := fun f : Fmt => f == .i8 || f == .ui8
  let h := fun f : Fmt => f == .bf16 || f == .fp16
  (fp8 a && fp8 b) || (int8 a && int8 b) || (a == .e2m1 && b == .e2m1) || (a == .i4 && b == .i4) || (h a && h b) ||
    (a == .i16 && b == .i16)

/-- Whether a format takes 4 bits (R48). -/
def fmt4 (f : Fmt) : Bool := f == .e2m1 || f == .i4

/-- The XX fields each matrix opcode uses, the format rules and the EM rule (R222, R232). -/
def xxOk (op : Nat) (d0 : Dst) (x : Xx) : Bool :=
  let fam := (matPair x.fa x.fb) && !(x.nm && fmt4 x.fa) && (d0.isNone || x.em)
  match op with
  | 0xB8 => x.qa == 0 && x.fa == .fp32 && matFmt x.fb && x.acc == 0 && !x.zs && !x.ad && !x.em && !x.sat
  | 0xB9 => fam
  | 0xBA => fam && !x.ad && !x.nm
  | 0xBB => fam && !x.ad && !x.nm
  | 0xBC => x.qa == 0 && x.qb == 0 && x.fa == .fp32 && x.fb == .fp32 && !x.zs && !x.nm && !x.em && !x.sat
  | 0xBD => x.qa == 0 && x.qb == 0 && x.fa == .fp32 && x.fb == .fp32 && !x.zs && !x.ad && !x.nm && !x.em && !x.sat
  | _ => x.qa == 0 && x.qb == 0 && x.fa == .fp32 && x.fb == .fp32 && x.acc == 0 && !x.zs && !x.ad && !x.nm && !x.em &&
      !x.sat

/-- The XM rules of R44, R277 and R294. Without ACK a store's destinations must be 31. -/
def xmOk (op : Nat) (d0 d1 : Dst) (x : Xm) : Bool :=
  let narrow := x.sz != .b64
  let lane := x.sz == .b1 || x.sz == .b2 || x.sz == .b4
  let strong := !x.str || x.sc != .none
  let load := !x.ack && strong
  let store := strong && (!x.ack || x.sc != .none) && (x.ack || (d0.isNone && d1.isNone))
  match op with
  | 0x90 => narrow && load
  | 0x91 => narrow && store
  | 0x92 => x.sz == .b64 && load
  | 0x93 => x.sz == .b64 && store
  | 0x94 => lane && load
  | 0x95 => lane && store
  | 0x97 => x.sz == .b4 && !x.ack && !x.str
  | 0x9E => x.sc != .none && x.h == 0 && x.sz == .b1 && !x.str && !x.ack && x.off == 0
  | _ => (x.sz == .b4 || x.sz == .b8) && !x.ack && !x.str

/-- HFMT: which roles need a second handle (R209). -/
def hfmtOk (x : Xh) : Bool :=
  let role := (x.f.extractLsb' 0 3).toNat
  (x.f.extractLsb' 3 13 == 0) && role ≤ 5 && (if role ≤ 3 then x.h2 != 0 else x.h2 == 0)

/-- The XH rules of R204, R241, R255, R337, R379 and R410: fields an opcode does not use are 0. -/
def xhOk (op : Nat) (x : Xh) : Bool :=
  match op with
  | 0xA0 => x.h2 == 0 && x.f.extractLsb' 1 15 == 0
  | 0xA1 => x.h2 == 0 && x.f == 0
  | 0xA2 => x.h2 == 0 && x.f == 0
  | 0xA3 => hfmtOk x
  | 0xA4 => x.h2 == 0 && x.f.extractLsb' 2 14 == 0
  | 0xA5 => x.h2 == 0 && x.f.extractLsb' 4 12 == 0
  | 0xA6 => x.f.extractLsb' 0 15 == 0
  | 0xA7 => x.f.extractLsb' 0 6 == 0
  | 0xA8 => x.h2 == 0 && x.f.extractLsb' 0 11 == 0
  | 0xA9 => x.h1 == 0 && x.h2 == 0 && x.f.extractLsb' 0 13 == 0
  | 0xAA => x.h1 == 0 && x.h2 == 0 && x.f.extractLsb' 3 13 == 0 && x.f.extractLsb' 0 2 != 3
  | 0xAB => x.h2 == 0 && x.f == 0
  | 0xBE => x.h2 == 0 && x.f.extractLsb' 1 15 == 0
  | 0xE4 => x.h1 == 0 && x.h2 == 0
  | _ => x.h1 == 0 && x.h2 == 0 && x.f.extractLsb' 4 12 == 0

/-- BNO against the limit of its level; SSTEP is at package level (R46). -/
def xbarOk (op : Nat) (x : Xbar) : Bool :=
  (match x.lvl with
    | .cluster => true
    | .die => x.bno.toNat < 32
    | .package => x.bno.toNat < 16) && (op != 0xAC || x.lvl == .package)

/-- The assigned system registers (R345): for SYSRD those of the map, for SYSWR those with a write access. -/
def xsysOk (op : Nat) (x : Xsys) : Bool :=
  let n := x.sreg.toNat
  if op == 0xE0 then n ≤ 8 || (0x120 ≤ n && n ≤ 0x123) else n == 1 || n == 4 || n == 5 || n == 0x120

/-- The XS rules of R247: fields and mode bits an opcode does not use are 0. -/
def xsOk (op : Nat) (x : Xs) : Bool :=
  match op with
  | 0xC0 => x.h == 0 && x.uc == 0 && x.mode == 0
  | 0xC1 => x.h == 0 && x.uc == 0 && x.mode.extractLsb' 1 15 == 0
  | 0xC2 => x.h == 0 && x.uc == 0 && x.mode == 0
  | 0xC3 => x.h == 0 && x.uc == 0 && x.mode == 0
  | 0xC4 => x.mode.extractLsb' 1 14 == 0
  | 0xC5 => x.mode.extractLsb' 1 15 == 0
  | 0xC6 => x.mode.extractLsb' 1 15 == 0
  | 0xC7 => x.mode.extractLsb' 2 2 == 0 && x.mode.extractLsb' 8 8 == 0 &&
      (x.mode.extractLsb' 1 1 == 1 || (x.uc == 0 && x.mode.extractLsb' 4 4 == 0))
  | 0xC8 => x.mode.extractLsb' 5 11 == 0
  | _ => x.mode.extractLsb' 4 12 == 0

/-- The opcodes that use side A only: side B must select N (R38, R146, R154, R173, R379). -/
def oneSided (op : Nat) : Bool :=
  op == 0x0B || op == 0x3B || op == 0x3C || op == 0x46 || op == 0x47 || (0x4C ≤ op && op ≤ 0x50) || op == 0x55 ||
    (0x66 ≤ op && op ≤ 0x6B) || op == 0x70 || op == 0x71 || op == 0x85 || op == 0xE6

/-- What the word and its extension may hold for their opcode: everything whose breach is ESEL (R54). -/
def View.eselOk (v : View) : Bool :=
  (!oneSided v.op || v.sb == .n) &&
  (match v.op with
    | 0x03 => (v.sa == .t || v.sa == .n) && (v.sb == .t || v.sb == .n)
    | 0x04 => v.sb == .t
    | 0x05 => (match v.sb with | .c _ => true | _ => false)
    | 0x08 => (match v.sb with | .c _ => true | _ => false)
    | 0x09 => v.d0.isNone && v.d1.isNone
    | 0x0B => v.d0.isNone && v.d1.isNone
    | 0x0E => v.d0.isNone && v.d1.isNone
    | 0xAA => v.sa == .t && v.sb == .t
    | _ => true) &&
  (match v.ext with
    | .short => true
    | .xv _ => true
    | .xm x => xmOk v.op v.d0 v.d1 x
    | .xx x => xxOk v.op v.d0 x
    | .xh x => xhOk v.op x
    | .xbar x => xbarOk v.op x
    | .xsys x => xsysOk v.op x
    | .xs x => xsOk v.op x)

/-- The opcodes whose TA must be KEEP: those that set their own outgoing tags, TRAP, SWITCH, MRG, BAR, SSTEP and the
M class (R41, R83, R117, R255, R337). -/
def keepOnly (op : Nat) : Bool :=
  op == 0x04 || op == 0x06 || op == 0x07 || op == 0x08 || op == 0x09 || op == 0x0B || op == 0x0E || op == 0xAA ||
    op == 0xAC || op == 0xB1 || (0xB8 ≤ op && op ≤ 0xBF)

/-- The tag actions an opcode may have, whatever its class: everything of R41 whose breach is ETA but the class rule. -/
def View.etaOk (v : View) : Bool :=
  (!keepOnly v.op || v.ta == .keep) &&
  ((v.ta != .enter && v.ta != .tagb) || v.op == 0x01) &&
  (v.ta == .keep || v.ta == .free || v.d0.isSome || v.d1.isSome)

/-- The tag actions each class takes (R40): Q takes KEEP and FREE, with ENTER and TAGB on its MOV (R83); M takes KEEP. -/
def classTaOk (c : ElemClass) (ta : TagAction) : Bool :=
  match c, ta with
  | _, .keep => true
  | .m, _ => false
  | .q, .next => false
  | .q, .exit => false
  | .q, .iter0 => false
  | _, _ => true

/-- The sides an instruction uses, in the order A, B, C (R38). -/
def View.sides (v : View) : List Src :=
  [v.sa] ++ (if oneSided v.op then [] else [v.sb]) ++ v.sc.toList ++ (match v.ext with | .xv c => [c] | _ => [])

/-- Some used side selects T (R30, R38). -/
def View.fires (v : View) : Bool := v.sides.any (· == .t)

end Sys2Proof
end

