-- ==== Sys2Proof/Decode.lean ====
section
/-! DEFINITION. From bits to instructions and back: decoding is total on any words and on any bytes and refuses by the
name of the install code (spec/02 R35 to R50, R54); the encoder writes the same tables (R35, R43 to R48). -/

namespace Sys2Proof

/-! ## Fields -/

/-- A source select (R37); 0x03 to 0x0F are reserved. -/
def decodeSrc (b : BitVec 5) : Except InstallCode Src :=
  match b.toNat with
  | 0 => .ok .t
  | 1 => .ok .n
  | 2 => .ok .g
  | n => if h : 16 ≤ n ∧ n < 32 then .ok (.c ⟨n - 16, by omega⟩) else .error .esel

/-- The bits of a source select (R37). -/
def encodeSrc : Src → BitVec 5
  | .t => 0
  | .n => 1
  | .g => 2
  | .c k => BitVec.ofNat 5 (16 + k.val)

/-- A destination select (R39). -/
def decodeDst (b : BitVec 5) : Dst :=
  if h : b.toNat < 31 then some ⟨b.toNat, h⟩ else none

/-- The bits of a destination select (R39). -/
def encodeDst : Dst → BitVec 5
  | some k => BitVec.ofNat 5 k.val
  | none => 31

/-- A tag action (R40); 7 to 15 are reserved. -/
def decodeTa (b : BitVec 4) : Except InstallCode TagAction :=
  match b.toNat with
  | 0 => .ok .keep
  | 1 => .ok .next
  | 2 => .ok .enter
  | 3 => .ok .exit
  | 4 => .ok .free
  | 5 => .ok .tagb
  | 6 => .ok .iter0
  | _ => .error .eta

/-- The bits of a tag action (R40). -/
def encodeTa : TagAction → BitVec 4
  | .keep => 0
  | .next => 1
  | .enter => 2
  | .exit => 3
  | .free => 4
  | .tagb => 5
  | .iter0 => 6

/-- A scope (R44); 6 and 7 are reserved. -/
def decodeScope (b : BitVec 3) : Except InstallCode Scope :=
  match b.toNat with
  | 0 => .ok .none
  | 1 => .ok .tile
  | 2 => .ok .cluster
  | 3 => .ok .die
  | 4 => .ok .package
  | 5 => .ok .system
  | _ => .error .esel

/-- The bits of a scope (R44). -/
def encodeScope : Scope → BitVec 3
  | .none => 0
  | .tile => 1
  | .cluster => 2
  | .die => 3
  | .package => 4
  | .system => 5

/-- An access size (R44); 4, 5 and 7 are reserved. -/
def decodeSize (b : BitVec 3) : Except InstallCode Size :=
  match b.toNat with
  | 0 => .ok .b1
  | 1 => .ok .b2
  | 2 => .ok .b4
  | 3 => .ok .b8
  | 6 => .ok .b64
  | _ => .error .esel

/-- The bits of an access size (R44). -/
def encodeSize : Size → BitVec 3
  | .b1 => 0
  | .b2 => 1
  | .b4 => 2
  | .b8 => 3
  | .b64 => 6

/-- A format code (R48); 13 to 15 are reserved. -/
def decodeFmt? (b : BitVec 4) : Option Fmt :=
  match b.toNat with
  | 0 => some .fp32
  | 1 => some .bf16
  | 2 => some .fp16
  | 3 => some .e4m3
  | 4 => some .e5m2
  | 5 => some .dl8
  | 6 => some .i8
  | 7 => some .ui8
  | 8 => some .e2m1
  | 9 => some .i4
  | 10 => some .i32
  | 11 => some .i16
  | 12 => some .raw
  | _ => none

/-- The bits of a format code (R48). -/
def encodeFmt : Fmt → BitVec 4
  | .fp32 => 0
  | .bf16 => 1
  | .fp16 => 2
  | .e4m3 => 3
  | .e5m2 => 4
  | .dl8 => 5
  | .i8 => 6
  | .ui8 => 7
  | .e2m1 => 8
  | .i4 => 9
  | .i32 => 10
  | .i16 => 11
  | .raw => 12

/-- A format code in a word: a reserved one is ESEL (R48). -/
def decodeFmt (b : BitVec 4) : Except InstallCode Fmt :=
  match decodeFmt? b with
  | some f => .ok f
  | none => .error .esel

/-- A barrier level (R46); 3 to 7 are reserved. -/
def decodeLevel (b : BitVec 3) : Except InstallCode BarLevel :=
  match b.toNat with
  | 0 => .ok .cluster
  | 1 => .ok .die
  | 2 => .ok .package
  | _ => .error .esel

/-- The bits of a barrier level (R46). -/
def encodeLevel : BarLevel → BitVec 3
  | .cluster => 0
  | .die => 1
  | .package => 2

/-- Go on when a condition holds; else refuse with a code. -/
def orElseCode (c : Bool) (e : InstallCode) : Except InstallCode Unit :=
  if c then .ok () else .error e

/-! ## Extension words -/

/-- XV (R43): SC [31:27], the rest 0. -/
def decodeXv (x : Word32) : Except InstallCode Ext := do
  let sc ← decodeSrc (x.extractLsb' 27 5)
  orElseCode (x.extractLsb' 0 27 == 0) .esel
  pure (.xv sc)

/-- XM (R44). -/
def decodeXm (x : Word32) : Except InstallCode Ext := do
  let sc ← decodeScope (x.extractLsb' 21 3)
  let sz ← decodeSize (x.extractLsb' 18 3)
  pure (.xm ⟨x.extractLsb' 24 8, sc, sz, x.getLsbD 17, x.getLsbD 16, x.extractLsb' 0 16⟩)

/-- XX (R45). -/
def decodeXx (x : Word32) : Except InstallCode Ext := do
  let fa ← decodeFmt (x.extractLsb' 20 4)
  let fb ← decodeFmt (x.extractLsb' 16 4)
  orElseCode (x.extractLsb' 0 4 == 0) .esel
  pure (.xx ⟨x.extractLsb' 28 4, x.extractLsb' 24 4, fa, fb, x.extractLsb' 9 7, x.getLsbD 8, x.getLsbD 7, x.getLsbD 6,
    x.getLsbD 5, x.getLsbD 4⟩)

/-- XH, barrier layout (R46). -/
def decodeXbar (x : Word32) : Except InstallCode Ext := do
  let l ← decodeLevel (x.extractLsb' 29 3)
  orElseCode (x.extractLsb' 0 23 == 0) .esel
  pure (.xbar ⟨l, x.extractLsb' 23 6⟩)

/-- XH, system layout (R46). -/
def decodeXsys (x : Word32) : Except InstallCode Ext := do
  orElseCode (x.extractLsb' 0 20 == 0) .esel
  pure (.xsys ⟨x.extractLsb' 20 12⟩)

/-- The extension word of a form (R42 to R47). -/
def decodeExt (f : Form) (x : Word32) : Except InstallCode Ext :=
  match f with
  | .short => .ok .short
  | .xv => decodeXv x
  | .xm => decodeXm x
  | .xx => decodeXx x
  | .xh => .ok (.xh ⟨x.extractLsb' 24 8, x.extractLsb' 16 8, x.extractLsb' 0 16⟩)
  | .xbar => decodeXbar x
  | .xsys => decodeXsys x
  | .xs => .ok (.xs ⟨x.extractLsb' 24 8, x.extractLsb' 16 8, x.extractLsb' 0 16⟩)

/-- The bits of a flag. -/
def flag (b : Bool) : BitVec 1 := BitVec.ofBool b

/-- The bits of an extension word (R43 to R47). -/
def encodeExt : Ext → Word32
  | .short => 0
  | .xv sc => encodeSrc sc ++ (0 : BitVec 27)
  | .xm x => x.h ++ encodeScope x.sc ++ encodeSize x.sz ++ flag x.str ++ flag x.ack ++ x.off
  | .xx x => x.qa ++ x.qb ++ encodeFmt x.fa ++ encodeFmt x.fb ++ x.acc ++ flag x.zs ++ flag x.ad ++ flag x.nm ++
      flag x.em ++ flag x.sat ++ (0 : BitVec 4)
  | .xh x => x.h1 ++ x.h2 ++ x.f
  | .xbar x => encodeLevel x.lvl ++ x.bno ++ (0 : BitVec 23)
  | .xsys x => x.sreg ++ (0 : BitVec 20)
  | .xs x => x.h ++ x.uc ++ x.mode

/-! ## Words -/

/-- The fields of a word and its extension, in the order of checks of R51: EOPC, ESEL, ETA. -/
def decodeView (w x : Word32) : Except InstallCode View :=
  let op := (w.extractLsb' 24 8).toNat
  match formOf op with
  | none => .error .eopc
  | some f => do
    let sa ← decodeSrc (w.extractLsb' 15 5)
    let sb ← decodeSrc (w.extractLsb' 10 5)
    let sc ← if sideCInD1 op then (decodeSrc (w.extractLsb' 0 5)).map some else pure none
    let d1 := if sideCInD1 op then none else decodeDst (w.extractLsb' 0 5)
    let ext ← decodeExt f x
    let v : View := ⟨op, .keep, sa, sb, sc, decodeDst (w.extractLsb' 5 5), d1, ext⟩
    orElseCode v.eselOk .esel
    let ta ← decodeTa (w.extractLsb' 20 4)
    let v' : View := { v with ta := ta }
    orElseCode v'.etaOk .eta
    pure v'

/-- The word of an instruction's fields (R35). -/
def View.word (v : View) : Word32 :=
  let d1 := match v.sc with
    | some c => encodeSrc c
    | none => encodeDst v.d1
  BitVec.ofNat 8 v.op ++ encodeTa v.ta ++ encodeSrc v.sa ++ encodeSrc v.sb ++ encodeDst v.d0 ++ d1

/-- The instruction of a word and the word after it; a short form leaves the second unread (R42). -/
def decodeWords (w x : Word32) : Except InstallCode Instr := do
  let v ← decodeView w x
  match v.toInstr with
  | some i => .ok i
  | none => .error .eopc

/-- The words of an instruction: one for a short form, two for a long one; none for a step of the part. -/
def encode (i : Instr) : Option (List Word32) :=
  i.view.map fun v => match v.ext with
    | .short => [v.word]
    | e => [v.word, encodeExt e]

/-- How many words an instruction takes (R42). -/
def View.len (v : View) : Nat := if v.ext = .short then 1 else 2

/-! ## Bytes -/

/-- A 32-bit word from its four bytes, lowest address first (R7). -/
def wordOfBytes (b0 b1 b2 b3 : Byte) : Word32 := b3 ++ b2 ++ b1 ++ b0

/-- The four bytes of a word, lowest address first (R7). -/
def bytesOfWord (w : Word32) : List Byte :=
  [w.extractLsb' 0 8, w.extractLsb' 8 8, w.extractLsb' 16 8, w.extractLsb' 24 8]

/-- Decoding a list of bytes: the instruction and the bytes after it. A list that ends within the instruction is
refused with ELONG, as an instruction that ends its table is (R42). -/
def decodeBytes : List Byte → Except InstallCode (Instr × List Byte)
  | b0 :: b1 :: b2 :: b3 :: rest =>
    let w := wordOfBytes b0 b1 b2 b3
    match formOf (w.extractLsb' 24 8).toNat with
    | none => .error .eopc
    | some .short => (decodeWords w 0).map (·, rest)
    | some _ => match rest with
      | c0 :: c1 :: c2 :: c3 :: rest' => (decodeWords w (wordOfBytes c0 c1 c2 c3)).map (·, rest')
      | _ => .error .elong
  | _ => .error .elong

/-- What the decoder reads from an instruction whose bits are `w`, numbered as spec/opcode_table.json numbers them; the
table gives every row one word or none, and the bits above are 0. -/
def decodeTableWord (nbits w : Nat) : Option Instr :=
  let bits : BitVec 64 := BitVec.ofNat 64 (w % 2 ^ nbits)
  let bytes := bytesOfWord (bits.extractLsb' 0 32) ++ bytesOfWord (bits.extractLsb' 32 32)
  match decodeBytes bytes with
  | .ok (i, _) => some i
  | .error _ => none

end Sys2Proof
end

