-- ==== Sys2Proof/Machine/State.lean ====
section
/-! DEFINITION. The state of one ZD960 module as plain data, the machine right after reset, and the reasons a step can
stop (INVENTORY.md, "## State", names the rule of every field). Tables with many places (elements, units, tiles,
controllers) are lists of the places that differ from their reset value; the accessors of Machine/Bits.lean and
Machine/Ops.lean give the reset value for a place that is not listed. -/

namespace Sys2Proof.Machine

open Sys2Proof

/-! ## Memory -/

/-- Bytes by address in one canonical form: addresses strictly rising, no entry equal to what an unlisted address
reads as. -/
abbrev Memory := List Host.Cell

/-- What an address that nothing has written reads as: the spec gives no contents at power-on (assumption 20). -/
def Memory.unlisted : Byte := 0

/-- The canonical form of a memory. -/
def Memory.wf : Memory → Bool
  | [] => true
  | [(_, v)] => v != Memory.unlisted
  | (a, v) :: (b, w) :: rest => v != Memory.unlisted && (a < b && Memory.wf ((b, w) :: rest))

/-! ## Tokens and messages -/

/-- The separate networks of R25. -/
inductive Net | data | request | reply | control
  deriving DecidableEq, Repr

/-- The parking of a frame as the frame table carries it to elements (R73). -/
structure ParkView where
  yld : Bool
  pfc : Bool
  bwc : Bool
  deriving DecidableEq, Repr

/-- A frame operation asked of a frame table (R64, R69, R70, R88, R89, R90, R93). Frames are named by frame identifier. `p`
and `op` name the element and the pending operation that waits for the answer; a `loop` asks for the tag of a LOOPN
record's emission i, or of its exit. -/
inductive FrameReq
  | release (f t : Nat)
  | next (f t : Nat) (p : Pos) (op : Nat)
  | parent (f : Nat) (p : Pos) (op : Nat)
  | loop (f t i : Nat) (exit : Bool) (p : Pos) (id : Nat)
  | alloc (r decl logk : Nat) (tag : Tag) (cont : Option Word) (p : Pos) (op : Nat)
  | free (f t : Nat) (ret : Option Word) (p : Pos) (op : Nat)
  deriving DecidableEq, Repr

/-- What a barrier unit is asked (R340). `wait` names the pending operation of a BAR or SSTEP. -/
inductive BarOp | init (count : Nat) | arrive | drop | await
  deriving DecidableEq, Repr

/-- A handle-table entry (R187). -/
structure HandleEntry where
  w0 : Word
  w1 : Word
  w2 : Word
  w3 : Word
  deriving DecidableEq, Repr

/-- A request to a mill context (R266): walk a row or column, count, bind, or expand for an MMAP. -/
inductive MillKind
  | row (nov : Bool)
  | col (nov : Bool)
  | count (col : Bool)
  | bind (tile ring cb : Nat)
  | expand (k0 kc : Nat) (tb bs : Bool)
  deriving DecidableEq, Repr

/-- What a mill request carries: its kind, handle, index, and the firing it serves. -/
structure MillReq where
  kind : MillKind
  ctx : Nat
  h : Nat
  index : Nat
  p : Pos
  entry : Nat
  tag : Tag
  out : Tag
  op : Nat
  deriving DecidableEq, Repr

/-- A region error on its way to the control point (R361, R362). -/
structure ErrorReport where
  code : Nat
  src : Pos
  entry : Nat
  tag : Tag
  value : Word
  deriving DecidableEq, Repr

/-- An abort completion or mismatch report (R370): whether it is an abort, the request if one was aborted, the ring it met. -/
structure AbortReport where
  abort : Bool
  req : Option Nat
  src : Pos
  entry : Nat
  tag : Tag
  window : Option (Pos × Nat)
  deriving DecidableEq, Repr

/-- An event record (R409). -/
structure EventRec where
  time : Nat
  kind : Nat
  part : Nat
  src : Pos
  run : Nat
  arg0 : Word
  arg1 : Word
  op : Option Nat := none
  deriving DecidableEq, Repr

/-- What a message is for. -/
inductive Body
  | token
  | request (req : Nat)
  | done (req : Nat)
  | frame (q : FrameReq)
  | park (f : Nat) (v : ParkView)
  | fpctl (r : Nat) (v : Word)
  | switch (r cfg : Nat) (value : Word) (a : Word) (p : Pos) (entry : Nat) (tag : Tag)
  | sysreg (r reg : Nat) (write : Option Word) (p : Pos) (op : Nat)
  | barrier (r : Nat) (lvl : BarLevel) (bno : Nat) (q : BarOp) (p : Pos) (op : Nat)
  | wake (r : Nat) (p : Pos) (op : Nat) (step : Option Nat)
  | mill (q : MillReq)
  | purge (f : Nat)
  | purgeAck (f : Nat) (p : Pos)
  | handle (r num : Nat) (e : HandleEntry)
  | error (r : Nat) (e : ErrorReport)
  | abort (r : Nat) (e : AbortReport)
  | decrement (run node : Nat)
  | shareEnd (run node die : Nat) (failed : Bool)
  | event (e : EventRec)
  deriving DecidableEq, Repr

/-- A token waiting at its element for the cellar (R77): a lookup in progress, or one that found nothing. -/
inductive Look | fresh | looking (done : Nat) | absent
  deriving DecidableEq, Repr

/-- A token or message with the header of R20, its payload and residues, the tile of the 64 × 40 module grid it has
reached and the fc from which it can move on or be accepted (R26, R28). `chan` is the stream channel it is counted on, or the request
whose reply it is; `more` the payloads and residues of the flits that follow the first (R22); `link` how many fc late it is on the
link between dies that it crosses (R391). -/
structure Msg where
  id : Nat
  src : Pos
  dst : Pos
  net : Net
  hdr : BitVec 72
  pay : Wide
  res : BitVec 32
  body : Body
  col : Nat
  row : Nat
  due : Nat
  look : Look
  chan : Option (Nat × Nat)
  more : List (Wide × BitVec 32) := []
  link : Option Nat := none
  deriving DecidableEq, Repr

/-! ## Elements -/

/-- A firing: the instruction entry, its tag, the decoded payloads of its T sides and the side of the token that made it
ready; a MERGE has that token's payload in `a` (R30, R37, R86). -/
structure Firing where
  id : Nat
  pos : Pos
  entry : Nat
  tag : Tag
  a : Wide
  b : Wide
  c : Wide
  side : Nat
  since : Nat
  deriving DecidableEq, Repr

/-- An operand slot (R74); `cnt` counts a JOIN's arrivals, whose sum is `val` (R87). -/
structure Slot where
  instr : Nat
  side : Nat
  tag : Tag
  val : Wide
  wide : Bool
  cnt : Nat
  since : Nat
  deriving DecidableEq, Repr

/-- Where an entry of a matching store is (R77); `who` names the token, result or record that caused a spill. -/
inductive EntryState | resident | spilling (done who : Nat) | filling (done : Nat) | cellar
  deriving DecidableEq, Repr

/-- An entry of a matching store and its key (R74, R203, R218, R298): on V, M and Q the key's side is 0 and `it` is the
iteration tag; on S and A `it` is its bits [5:3]. `way` is its way of its set, `owner` the partition whose owner tag its
cellar record has (R78). -/
structure StoreEntry where
  id : Nat
  fid : Nat
  instr : Nat
  side : Nat
  it : Nat
  wide : Bool
  st : EntryState
  used : Nat
  way : Nat
  owner : Nat
  deriving DecidableEq, Repr

/-- A lookup in the cellar for a held result or a LOOPN record: its key, and how far it is (R77, R79). -/
structure KeyLook where
  id : Nat
  key : StoreEntry
  look : Look
  deriving DecidableEq, Repr

/-- A value to send on destination select `d` (R39): `raw` is not encoded, `one` takes no chained entry (R91), `via` is a
route word that takes the place of the table's entry (R93). -/
structure Out where
  d : Nat
  val : Wide
  wide : Bool
  raw : Bool
  one : Bool
  via : Option Word
  deriving DecidableEq, Repr

/-- The outgoing tag of a firing (R70): known, asked of the frame table, or waiting for the tag of a NEXT. -/
inductive OutTag | known (t : Tag) | asked | waits
  deriving DecidableEq, Repr

/-- Why a pending operation is not only waiting for its latency: `yielding` a result that its YIELD has parked and that has no place in
the store yet, `yielded` one that has (R79, R94). -/
inductive OpWait
  | none
  | held
  | yielding
  | yielded
  | barrier
  | fence (reqs : List (Nat × Nat)) (sc : Scope)
  | reply
  | engine (k : Nat)
  deriving DecidableEq, Repr

/-- A firing that has begun and not yet sent everything (R143, R144): when it completes, what it sends and with which
tag, its flags, whether it releases its iteration tag (R70); `defer` is the firing of an instruction whose request is
made when its outgoing tag is known; `bad` when a residue of its result does not match (R369). -/
structure PipeOp where
  id : Nat
  op : Nat
  entry : Nat
  tag : Tag
  out : OutTag
  due : Option Nat
  outs : List Out
  flags : BitVec 5
  rel : Bool
  wait : OpWait
  defer : Option Firing
  since : Nat
  bad : Bool := false
  deriving DecidableEq, Repr

/-- A set-token accepted in this fc: its source's place in the order of R103, its channel, the entry, the payload. -/
structure SetTok where
  src : Nat
  vc : Nat
  entry : Nat
  val : Wide
  deriving DecidableEq, Repr

/-- A LOOPN record (R79, R90): `given` is the iteration tag that its next emission has. -/
structure LoopRec where
  id : Nat
  entry : Nat
  tag : Tag
  n : Nat
  i : Nat
  base : Word
  d0 : Option Nat
  d1 : Option Nat
  given : Option Nat
  due : Nat
  since : Nat
  deriving DecidableEq, Repr

/-- The state of one element. -/
structure Elem where
  ready : List Firing
  slots : List Slot
  entries : List StoreEntry
  pipe : List PipeOp
  out : List Msg
  loops : List LoopRec
  pendSet : List SetTok
  divBusy : Nat
  lastFire : Option Nat
  dirty : List Nat
  sideDirty : List Nat
  parked : List (Nat × ParkView)
  looks : List KeyLook
  deriving DecidableEq, Repr

/-! ## Units and configurations -/

/-- The four tables of one element in a slot (R97), with the initial side table and what the image says of entries. -/
structure ElemTables where
  elem : Nat
  words : List Word32
  bodies : List Nat
  entries : List Nat
  routes : List Word
  side : List (Nat × Wide)
  side0 : List (Nat × Wide)
  filled : List Nat
  live : List Nat
  vcs : List Word32
  deriving DecidableEq, Repr

/-- States of a configuration slot (R98). -/
inductive SlotState | empty | loading | resident | pinned
  deriving DecidableEq, Repr

/-- A configuration slot (R97, R98): its state, whose configuration (partition, image address, number) it holds. -/
structure CfgSlot where
  st : SlotState
  key : Option (Nat × Nat × Nat)
  tables : List ElemTables
  written : Bool
  used : Nat
  deriving DecidableEq, Repr

/-- A tile or access processor (R16, R97, R109). -/
structure UnitState where
  slots : List CfgSlot
  active : Nat
  region : Option Nat
  powered : List Nat
  deriving DecidableEq, Repr

/-! ## Frames -/

/-- A frame record (R65). -/
structure FrameRec where
  val : Bool
  decl : Nat
  live : Nat
  logk : Nat
  cv : Bool
  yld : Bool
  bwc : Nat
  pfc : Nat
  rgn : Nat
  part : Nat
  parent : Tag
  pend : Nat
  memout : Nat
  freem : Word
  succm : Word
  cont : Word
  deriving DecidableEq, Repr

/-- The Reset column of R65. -/
def FrameRec.reset : FrameRec :=
  { val := false, decl := 0, live := 0, logk := 0, cv := false, yld := false, bwc := 0, pfc := 0, rgn := 0, part := 0,
    parent := 0, pend := 0, memout := 0, freem := BitVec.allOnes 64, succm := 0, cont := 0 }

/-- An FALLOC, CALL, FFREE or RET that waits in a frame table (R88, R89). -/
structure FrameWait where
  id : Nat
  q : FrameReq
  since : Nat
  deriving DecidableEq, Repr

/-- A freed frame whose elements have not all acknowledged the purge (R89). -/
structure Purge where
  f : Nat
  r : Nat
  decl : Nat
  left : List Pos
  deriving DecidableEq, Repr

/-! ## Engines -/

/-- Kinds of engine operation (R201). -/
inductive EngKind | copy | strmi | strmo | rpush
  deriving DecidableEq, Repr

/-- An engine operation of a Q element (R201, R211 to R215): `a` is the destination offset or first block, `b` the source
offset, `n` the length in bytes or blocks, `next` the next unit to request, `sent` the units written or sent, `got` the
units at the engine that are not yet written or sent, `open'` the units whose write is not yet performed, or which stand in the
replay window; `win` is 0 once a region error of the operation has stopped it (R10). -/
structure EngOp where
  id : Nat
  kind : EngKind
  entry : Nat
  op : Nat
  tag : Tag
  out : Tag
  d0 : Option Nat
  d1 : Option Nat
  rel : Bool
  h1 : Nat
  h2 : Nat
  stream : Nat
  a : Nat
  b : Nat
  n : Nat
  next : Nat
  sent : Nat
  desc : Bool
  win : Nat
  ss : Option Nat
  got : List (Nat × Wide)
  open' : List Nat
  lastSend : Nat
  ask : Option Nat := none
  deriving DecidableEq, Repr

/-- A stream of a Q element (R213 to R216, R374): blocks sent or written, release mark, window handle, source handle, whether
a rollback has left it to be sent again, its cursor at the replay point. -/
structure Stream where
  no : Nat
  input : Bool
  open' : Bool
  h1 : Nat
  h2 : Nat
  start : Nat
  n : Nat
  cursor : Nat
  mark : Nat
  replay : Bool
  replayCursor : Nat
  deriving DecidableEq, Repr

/-- The merge unit of a Q element (R254 to R257): `viol` is the side and index of an order violation whose run is being discarded,
`since` the fc from which the unit has waited, `ca` and `cb` the channels of the records in its queues (R245). -/
structure Merge where
  qa : List (Wide × Tag)
  qb : List (Wide × Tag)
  na : Nat
  nb : Nat
  doneA : Bool
  doneB : Bool
  bad : Bool
  cnt : Nat
  lka : BitVec 32
  lkb : BitVec 32
  ta : Tag
  tb : Tag
  viol : Option (Bool × Nat)
  lastRun : Nat
  since : Nat
  ca : List (Option (Nat × Nat)) := []
  cb : List (Option (Nat × Nat)) := []
  deriving DecidableEq, Repr

/-- A LAUNCH in the launch output of a Q element (R338): the packet's partition and address, the firing, the route words of
D1, the operation that waits for the acceptance word, whether the replay point has moved since it was issued (R372). -/
structure LaunchReq where
  part : Nat
  va : Nat
  entry : Nat
  tag : Tag
  out : Tag
  t1 : List Word
  rel : Bool
  priv : Bool
  r : Nat
  p : Pos
  op : Nat
  past : Bool
  deriving DecidableEq, Repr

/-- A KILN scan in progress (R379). -/
structure Scan where
  op : Nat
  set : Nat
  ends : Nat
  scanned : Bool
  deriving DecidableEq, Repr

/-- The state of one Q element beside its Elem. -/
structure QState where
  engs : List EngOp
  streams : List Stream
  merge : Merge
  launches : List LaunchReq
  bound : List Nat
  scan : Option Scan
  deriving DecidableEq, Repr

/-- A ring slot of a tile (R198, R199). -/
structure Ring where
  tile : Pos
  q : Nat
  handle : Nat
  size : Nat
  count : Nat
  head : BitVec 16
  rdp : BitVec 16
  tail : BitVec 16
  hpos : Nat
  rpos : Nat
  tpos : Nat
  side : List (Nat × BitVec 40)
  deriving DecidableEq, Repr

/-- Who pushes to a ring and what it does when the push is visible (R200, R211, R248 to R250, R268). -/
inductive PushFor
  | op (p : Pos) (op : Nat) (last : Bool)
  | walk (p : Pos) (op : Nat)
  | window (p : Pos) (eng unit : Nat)
  | mill (u : Pos) (c : Nat)
  deriving DecidableEq, Repr

/-- A push on its way to a ring. -/
structure Push where
  id : Nat
  tile : Pos
  q : Nat
  data : List Wide
  side : BitVec 40
  who : PushFor
  src : Pos
  due : Nat
  deriving DecidableEq, Repr

/-! ## The matrix element -/

/-- A matrix instruction in the sequencer queue (R219): what it was fired with, the pipeline entry and the mill request it has, and whether it
is an MLDB's re-execution (R409). -/
structure MatOp where
  op : Nat
  entry : Nat
  tag : Tag
  a : Word
  b : Word
  d0 : Option Nat
  d1 : Option Nat
  x : Xx
  h1 : Nat
  inv : Bool
  pipeId : Nat
  asked : Bool
  redo : Bool
  deriving DecidableEq, Repr

/-- Where the running matrix instruction stands (R223). -/
inductive MatPhase | load | rows | replay | adapters | drain | out
  deriving DecidableEq, Repr

/-- A deferred row (R230): its index, its slot position, what it has of its table entry, A slice and B slice, the fills it
waits for (0 entry, 1 A, 2 B), whether its slices have been looked for, and the fc from which on it can be replayed. -/
structure DeferRow where
  index : Nat
  pos : Nat
  ent : Option (List Byte)
  a : Option (List Byte)
  b : Option (List Byte)
  asks : List (Nat × Nat)
  looked : Bool
  seen : Nat
  deriving DecidableEq, Repr

/-- A row with an adapter, as the adapter pass needs it (R228): its index, table entry and B slice. -/
structure AdRow where
  index : Nat
  ent : List Byte
  b : List Byte
  deriving DecidableEq, Repr

/-- The attempt in progress: phase, chunk, row, slots loaded of the chunk, deferred rows, rows with an adapter, rows deferred
in the chunk and in all, lines found and missed, when the next step may be made, the flags of the attempt, its FPCTL and
the chunk's mask of empty granules. -/
structure MatRun where
  phase : MatPhase
  chunk : Nat
  row : Nat
  loaded : Nat
  deferred : List DeferRow
  adapters : List AdRow
  replays : Nat
  chunkDefers : Nat
  hits : Nat
  misses : Nat
  due : Nat
  flags : BitVec 5
  fpctl : Word
  emptyMask : Nat
  failed : Bool
  deriving DecidableEq, Repr

/-- A matrix element (R217). Rows of the accumulator files that are not listed are zero; scales are held a slot at a time, and
one that is not listed is 127 throughout. `abandon` asks the sequencer to abandon and keeps it from beginning anything. -/
structure MatState where
  stage : List (Nat × Wide)
  scales : List (Nat × Wide)
  rscales : List (Nat × Wide)
  rv : Bool
  rnm : Bool
  acc : List (Nat × List (BitVec 32))
  work : List (Nat × List (BitVec 32))
  ad : List (Nat × List (BitVec 32))
  adWork : List (Nat × List (BitVec 32))
  ctx : Option (Nat × Nat × Nat)
  queue : List MatOp
  run : Option MatRun
  abandon : Bool
  commits : BitVec 32
  abandons : BitVec 32
  replays : BitVec 32
  hits : BitVec 32
  misses : BitVec 32
  deriving DecidableEq, Repr

/-- What an adjunct-cache line holds (R229). -/
inductive AdjKey
  | entry (adapter : Nat)
  | a (adapter layer chunk : Nat)
  | b (adapter layer block : Nat)
  deriving DecidableEq, Repr

/-- A line of a cluster's adjunct cache (R229): partition and table address, key, bytes, 2 KiB blocks, last use. -/
structure AdjLine where
  die : Nat
  clu : Nat
  part : Nat
  table : Nat
  key : AdjKey
  bytes : List Byte
  blocks : Nat
  used : Nat
  deriving DecidableEq, Repr

/-- An adjunct fill in flight (R230). -/
structure AdjFill where
  id : Nat
  die : Nat
  clu : Nat
  part : Nat
  table : Nat
  key : AdjKey
  r : Nat
  src : Pos
  tag : Tag
  bytes : List Byte
  left : List Nat
  keep : Bool
  deriving DecidableEq, Repr

/-! ## Access processors and the mill -/

/-- An entry of the CAM (R251). -/
structure CamEntry where
  coord : BitVec 32
  pay : BitVec 32
  hit : Bool
  deriving DecidableEq, Repr

/-- An access processor beside its Elem: CAM (R251) and 4-bit gather buffer (R249). -/
structure ApState where
  cam : List CamEntry
  dup : Bool
  ovf : Bool
  gather : Option Wide
  deriving DecidableEq, Repr

/-- A mill context (R266): binding, cursor, requests in order, progress of the head request. -/
structure MillCtx where
  bound : Option (Nat × Pos × Nat × Nat)
  cursor : Option (Nat × Nat × Nat × Nat)
  reqs : List MillReq
  busy : Bool
  coords : List (Nat × Nat)
  done : Nat
  chunk : Nat
  slot : Nat
  values : List (Nat × Nat × Word)
  due : Nat
  failed : Bool
  deriving DecidableEq, Repr

/-! ## Memory requests -/

/-- What a request does at its memory node. -/
inductive ROp
  | load (wide : Bool)
  | store
  | gather
  | scatter
  | atomic (op : AtomicOp)
  | engRead
  | engWrite
  deriving DecidableEq, Repr

/-- Whom a request serves (R271, R312): an instruction, a condition word, an engine, an adjunct fill, a walk of an access
processor, a mill context, a page walk (R288), an access of a function through BAR1 (R383), a peer (R389), a record that the part writes,
an observation record by its name (R290, R325, R362, R371, R402), and what a graph engine reads, by the read, its range and the offset in
it (R319, R324, R329). -/
inductive Client
  | instr
  | condw (p : Pos) (op : Nat)
  | eng (p : Pos) (eng unit : Nat)
  | fill (k part : Nat)
  | walk (p : Pos) (op : Nat)
  | mill (u : Pos) (c : Nat)
  | walker (miss : Nat)
  | host (fn off : Nat)
  | peer (k : Nat)
  | record (obs : Option Nat)
  | fetch (k i off : Nat)
  deriving DecidableEq, Repr

/-- Where a part of a request is (R272, R276, R282, R288, R290, R307, R364): in the issuing tile's outgoing buffer, on its way in a
message, at its cluster port waiting for slots, at the translation units (with its physical address, before the die's request
hub), waiting for a walk, faulted, held without a record (with the level and the time of its fault when its frame's PFC counts it), queued
at its controller, being served, on its way to a bank, on its way to a window, performed with its reply on the way to the
port, performed and back, aborted. -/
inductive PartStage
  | tile
  | sent
  | port
  | hub
  | miss
  | fault (fid : Nat)
  | held (counted : Option (Nat × Word))
  | queued
  | serving
  | bank
  | outside
  | returning
  | performed
  | aborted
  deriving DecidableEq, Repr

/-- One 64-byte block of a request, or all of it before it is divided: byte offsets in the handle by lane, the virtual and
physical address of the first, where it is, when its next step may be made, its place in the order of arrival, how often
it was passed over, its transaction slot, the fc its timer started, the fc the timer had counted when a fault stopped it (R364),
the key its block is read and written under (R293), and that the host has resumed its fault and its frame's PFC still counts
it (R359). -/
structure Part where
  lanes : List (Nat × Nat)
  va : Nat
  pa : Option Nat
  st : PartStage
  due : Nat
  arrived : Nat
  passed : Nat
  slot : Option Nat
  timer : Option Nat
  spent : Nat := 0
  key : Option Nat := none
  owes : Bool := false
  deriving DecidableEq, Repr

/-- An outstanding memory request (R271, R272). `t0`, `t1` are the route words of D0 and D1; `n` the access size; `b`, `c`
the data; `idx` what a completion token carries; `fwd` the bytes forwarded to a load by address (R305); `val` the bytes
read; `out'` and `back` the fc from the place that takes the request in to its home and from the home to the place the reply leaves;
`doneAt` when the last reply is back; `acked` when the completion token has been sent; `dead` is set when its replies are to be
discarded; `level` and `ent` the level and the entry of the handle, the issuer's until the place that validates it has taken its
own; `home` that place; `left` the tokens sent and not yet delivered; `seen` the name of the first load that took bytes of this store
while it stood in its tile's buffer (R306); `pins` the pages, with level and leaf, that translated a store when it was issued, and
`faulted` that it has met a page fault (R308). -/
structure MemReq where
  id : Nat
  p : Pos
  r : Nat
  part : Nat
  entry : Nat
  op : ROp
  client : Client
  h : Nat
  n : Nat
  parts : List Part
  b : Wide
  c : Wide
  idx : Word
  scope : Scope
  str : Bool
  ack : Bool
  acked : Bool
  tag : Tag
  out : Tag
  t0 : List Word
  t1 : List Word
  rel : Bool
  fwd : List (Nat × Byte)
  val : Wide
  flags : BitVec 5
  out' : Nat
  back : Nat
  doneAt : Option Nat
  dead : Bool
  level : Nat := 0
  ent : HandleEntry := ⟨0, 0, 0, 0⟩
  home : Pos := ⟨0, 0, 0, 0⟩
  left : Nat := 0
  seen : Option Nat := none
  pins : List (Nat × Nat × Word) := []
  faulted : Bool := false
  deriving DecidableEq, Repr

/-- What a graph engine reads for (R319, R324, R329, R32, R385): the packet at the head of a die's launch queue, the words that map its
run's handles, the condition word of a node, the parameter words of a share's instance, a graph to be installed, a command. -/
inductive FetchKey
  | packet (die : Nat)
  | handles (die : Nat)
  | cond (run n : Nat)
  | params (share : Nat)
  | graph (fn : Nat)
  | command (fn : Nat)
  deriving DecidableEq, Repr

/-- A read of a graph engine in progress or done: how many of its requests are still to come back, and the bytes of each range; none for a
range that cannot be read. -/
structure Fetch where
  id : Nat
  key : FetchKey
  left : Nat
  data : List (Option (List Byte))
  deriving DecidableEq, Repr

/-- A sparse walk in progress on an access processor (R248 to R250): the instruction, the row, the position. -/
structure Walk where
  p : Pos
  op : Nat
  code : Nat
  entry : Nat
  tag : Tag
  out : Tag
  d0 : Option Nat
  d1 : Option Nat
  rel : Bool
  h : Nat
  row : Nat
  chunk : Nat
  phase : Nat
  k : Nat
  p0 : Nat
  p1 : Nat
  last : Nat
  idx : Nat
  rawv : Bool
  pack : Bool
  chk : Bool
  tile : Pos
  q : Nat
  buf : Wide
  fill : Nat
  bytes : List Byte
  pushes : Nat
  emit : Nat
  deriving DecidableEq, Repr

/-- A pending translation miss of a die (R288): partition, page, requests that wait, whether a walker has it, whether an
invalidation has met its walk (R292); of a walk the level and the table it has come to, and the last entry it reads. -/
structure Miss where
  id : Nat
  die : Nat
  part : Nat
  va : Nat
  waiters : List (Nat × Nat)
  walking : Bool
  again : Bool
  level : Nat
  table : Nat
  got : Option Word
  deriving DecidableEq, Repr

/-- A TLB entry (R288): page number at its level, and the leaf. -/
structure TlbEntry where
  part : Nat
  level : Nat
  page : Nat
  leaf : Word
  used : Nat
  deriving DecidableEq, Repr

/-- A fault record that the host has not answered (R290, R291). -/
structure FaultRec where
  fid : Nat
  part : Nat
  req : Nat
  j : Nat
  va : Nat
  level : Nat
  words : List Word
  answer : Option Bool
  deriving DecidableEq, Repr

/-- A bank of a pseudo-channel (R282, R283); times in 1/18 ns for refresh, fc for reads; `hot` when its last due was counted with the
short stagger (R284). -/
structure Bank where
  row : Option Nat
  owed : Nat
  lastRead : Option Nat
  nextDue : Option Nat
  refEnd : Option Nat
  hot : Bool := false
  deriving DecidableEq, Repr

/-- A pseudo-channel controller (R280, R282, R283). -/
structure Ctrl where
  id : Nat
  banks : List (Nat × Bank)
  catchDue : Bool
  catchEnd : Option Nat
  deriving DecidableEq, Repr

/-! ## Regions -/

/-- Where a region is in its life (R32, R34, R351, R357, R361): times of a wake or a load are in 1/18 ns, those before the root frame, of a
capture and of the writing back of an image in fc (R8). -/
inductive Phase
  | waking (till : Nat)
  | loading (cfg till : Nat)
  | rooting (till : Nat)
  | running
  | halting
  | capturing (till : Nat)
  | restoring (till : Nat)
  | stopping
  | ended
  deriving DecidableEq, Repr

/-- A SWITCH decision at the control point (R117, R118): when it was broadcast, the units that have not reported empty,
when the latest report reaches the control point. -/
structure SwitchState where
  cfg : Nat
  value : Word
  since : Nat
  left : List Pos
  last : Nat
  deriving DecidableEq, Repr

/-- A SWITCH held in the output of its Q element while another drains (R117): target, value, decision, where it fired, since when. -/
structure HeldSwitch where
  p : Pos
  entry : Nat
  tag : Tag
  cfg : Nat
  value : Word
  decision : Word
  since : Nat
  deriving DecidableEq, Repr

/-- A write of FPCTL not yet applied by every element (R132). -/
structure FpWrite where
  v : Word
  left : List Pos
  p : Pos
  op : Nat
  deriving DecidableEq, Repr

/-- The frames a region has reserved for one declaration of one cluster (R67). -/
structure FrameQuota where
  die : Nat
  clu : Nat
  decl : Nat
  max : Nat
  used : Nat
  deriving DecidableEq, Repr

/-- A region (R11, R13 to R16) with its registers (R345 to R349), tables, reservations and its number in each of its clusters
(R65). `fpNew` and `rfNew` are the flags
set in this fc (R131, R347), `chkBy` the fc and the source of CHKADDR (R193), `kept` the scratchpad lines that the
instance's context image already holds (R355), `params` the words of the parameter block that the image names, as read at dispatch (R32). -/
structure Region where
  id : Nat
  part : Nat
  run : Nat
  graph : Nat
  node : Nat
  index : Nat
  share : Nat
  shDie : Nat
  home : Nat
  level : Nat
  priv : Bool
  kiln : Bool
  image : Image
  imageVa : Nat
  param : Nat
  rects : List (Nat × Rect)
  units : List Pos
  mills : List (Pos × Nat)
  phase : Phase
  rootFrame : Option Nat
  rootFreed : Bool
  homeClu : Pos
  reserved : List Nat
  quotas : List FrameQuota
  grant : List (Pos × Nat)
  acfg : Nat
  slotMap : List (Pos × Nat × Nat)
  handles : List (Nat × HandleEntry)
  stale : List (Pos × Nat × HandleEntry)
  hwait : List (Nat × List Pos × Pos × Nat)
  barMap : List (BarLevel × Nat × Nat × Nat × Nat)
  patMap : List (Nat × Pos × Nat)
  rgns : List (Pos × Nat)
  ssn : BitVec 16
  res : BitVec 8
  rbk : BitVec 8
  rflags : Word
  chkaddr : Word
  chkBy : Nat × Nat
  ordpos : Word
  fpctl : Word
  fpStale : List (Pos × Word)
  fpOld : List (Pos × Word)
  fpWrites : List FpWrite
  fpflags : Word
  fpNew : Word
  rfNew : Word
  yr : Bool
  rem : Nat
  yrFor : Option Nat
  rcyc : Word
  nr : Bool
  rollbacks : Nat
  windowHits : List (Pos × Nat)
  error : Option ErrorReport
  more : Nat
  errTime : Nat
  wdog : Nat
  active : Bool
  switch : Option SwitchState
  switchWait : List HeldSwitch
  dispatched : Nat
  reason : Option Nat
  kept : List (Nat × List Byte)
  params : List (Nat × Word) := []
  deriving DecidableEq, Repr

/-! ## The graph engine -/

/-- A node record (R320), without the addresses of its lists, which are given here as lists. -/
structure NodeRec where
  kind : GKind
  prio : Nat
  home : Nat
  npred : Nat
  errn : Option Nat
  cost : Nat
  dist : Nat
  range : Nat
  vec : List Nat
  image : Nat
  succ : List Nat
  deriving DecidableEq, Repr

/-- An entry of the graph table (R318): the nodes, and the eight words of each one's 64-byte record as they stand in HBM (R320). -/
structure Graph where
  id : Nat
  part : Nat
  nodes : List NodeRec
  records : List (List Word)
  handles : List (Nat × Nat × Nat)
  bodies : List Nat
  deriving DecidableEq, Repr

/-- Where a node of a run stands (R325 to R330). -/
inductive NodeState | waiting | ready | running | complete | skipped | failed | abandoned
  deriving DecidableEq, Repr

/-- A node of a run: counter (R326), state, whether it is to be skipped (R329), range and vector, dies still to report,
the iteration of a while node, the code and install error word of its first failure. -/
structure NodeRun where
  n : Nat
  counter : Nat
  st : NodeState
  skip : Bool
  range : Nat
  vec : List Nat
  left : List Nat
  iter : Nat
  failed : Bool
  code : Nat
  errWord : Word
  deriving DecidableEq, Repr

/-- Who launched a run (R323, R338). -/
inductive Origin
  | host (fn : Nat)
  | elem (p : Pos) (r : Nat) (tag out : Tag) (t1 : List Word) (rel : Bool)
  | kiln (p : Pos)
  deriving DecidableEq, Repr

/-- A run that has not ended (R323 to R325); `handles` are its graph handles as mapped from its parameter block (R320):
number, virtual address, extent. -/
structure Run where
  run : Nat
  part : Nat
  graph : Nat
  entry : Nat
  die : Nat
  param : Nat
  prio : Option Nat
  cq : Bool
  user : Word
  origin : Origin
  nodes : List NodeRun
  handles : List (Nat × Nat × Nat)
  fnode : Option Nat
  code : Nat
  errWord : Word
  killed : Bool
  deriving DecidableEq, Repr

/-- A launch in a die's launch queue (R324): the packet's address in its partition, who launched it. -/
structure LaunchEntry where
  die : Nat
  part : Nat
  va : Nat
  origin : Origin
  priv : Bool
  req : Option LaunchReq
  deriving DecidableEq, Repr

/-- A share in a die's ready pool (R326, R327, R331): next index, end, entry time in 1/18 ns, level, periods waited,
instances not yet ended, whether dispatch is stopped, when it first failed to fit, indices returned by a yield. -/
structure Share where
  id : Nat
  die : Nat
  run : Nat
  node : Nat
  next : Nat
  stop : Nat
  entered : Nat
  level : Nat
  aged : Nat
  live : Nat
  failed : Bool
  noFit : Option Nat
  again : List Nat
  saved : List Nat
  deriving DecidableEq, Repr

/-- A reservation of a die (R333): the share it is for, the tiles, units and mill contexts of its position. -/
structure Reserve where
  die : Nat
  share : Nat
  rects : List (Nat × Rect)
  units : List Pos
  mills : List (Pos × Nat)
  deriving DecidableEq, Repr

/-- A frame that waits at a barrier: its region, element and operation (R336, R340). -/
structure Waiter where
  r : Nat
  p : Pos
  op : Nat
  deriving DecidableEq, Repr

/-- A completed phase whose wakes wait for superstep operations (R315): its waiters, the regions whose SSTEP arrived, its number. -/
structure Closing where
  waiters : List Waiter
  members : List Nat
  phase : Nat
  deriving DecidableEq, Repr

/-- A barrier (R334, R335): the waiters of the current phase and the regions whose SSTEP has arrived in it, the completed
phases still to be released, and wakes held, with the number of their phase, for a region that is being saved (R336). -/
structure Barrier where
  lvl : BarLevel
  die : Nat
  clu : Nat
  bno : Nat
  phase : BitVec 16
  drop : Nat
  arr : Nat
  count : Nat
  waiters : List Waiter
  members : List Nat
  closing : List Closing
  held : List (Nat × Waiter)
  deriving DecidableEq, Repr

/-! ## Saved instances -/

/-- A context image (R355): the region and everything it holds, as objects. -/
structure Saved where
  id : Nat
  region : Region
  elems : List (Pos × Elem)
  slots : List (Pos × Nat × CfgSlot)
  sides : List (Pos × Nat × Nat × List (Nat × Wide))
  qs : List (Pos × QState)
  mats : List (Pos × MatState)
  aps : List (Pos × ApState)
  mills : List (Pos × Nat × MillCtx)
  rings : List Ring
  pushes : List Push
  net : List Msg
  reqs : List MemReq
  walks : List Walk
  barriers : List Barrier
  fwaits : List FrameWait
  purges : List Purge
  frames : List Nat
  spad : List (Nat × List Byte)
  sram : List (Nat × List Byte)
  deriving DecidableEq, Repr

/-! ## Partitions, functions, observation -/

/-- How something leaves the module (R383, R388): through a UALink port, through the PCIe endpoint, or as the answer to a peer. -/
inductive OutWay
  | port (n : Nat)
  | pcie
  | answer
  deriving DecidableEq, Repr

/-- What has left the module: a request of its own, or the answer to a peer's, with the bytes that it read; none for a refusal
(R387 to R390). -/
structure Outgoing where
  id : Nat
  way : OutWay
  access : PeerAccess
  read : Option (List Byte)
  deriving DecidableEq, Repr

/-- A partition (R381, R382): its setup, windows, and the window entries that WINSET has replaced, each with the bound of the names of the
requests that were issued under it (R389). -/
structure Partition where
  setup : PartSetup
  windows : List (Nat × Word)
  past : List (Nat × Nat × Word)
  reduced : Bool
  deriving DecidableEq, Repr

/-- The final state of a completed instance's region: its RFLAGS, in which FLEAK reaches the host (R34, R347). -/
structure Ended where
  run : Nat
  node : Nat
  index : Nat
  rflags : Word
  deriving DecidableEq, Repr

/-- An observation ring (R401). -/
structure ObsState where
  base : Nat
  len : Nat
  wp : BitVec 32
  rp : BitVec 32
  drops : Nat
  deriving DecidableEq, Repr

/-- A command of a function in progress: a TLBINV with the bound of the names of the requests it waits for and its partition (R292), a
PSETUP with the time it ends at, in 1/18 ns (R382), a GINSTALL (R319), a descriptor that is being read (R385). -/
inductive CmdWork
  | inv (bound part : Nat)
  | setup (a : PartSetup) (till : Nat)
  | graph (im tab : Word) (n : Nat)
  | descriptor
  deriving DecidableEq, Repr

/-- A PCIe function (R384, R401, R403, R406, R408). -/
structure Fn where
  id : Nat
  fifo : List (Nat × Nat)
  plstat : Word
  plDrop : Nat
  pcstat : Word
  pcwork : Option CmdWork
  attest : Option (List (BitVec 256) × BitVec 256 × Wide)
  bar1 : List Byte
  sample : ObsState
  event : ObsState
  smpcfg : Word
  smpStart : Nat
  evmask : Word
  csel : List (Nat × Byte)
  dsel : List (Nat × Byte)
  deriving DecidableEq, Repr

/-- How far the writing of an observation record is (R402): not begun, on its way to memory, performed, or not performed for the window or
the block it goes to. -/
inductive ObsStage | waiting | writing | written | lost
  deriving DecidableEq, Repr

/-- An observation record on its way to its ring (R402). -/
structure ObsRec where
  id : Nat
  fn : Nat
  ring : ObsRing
  words : List Word
  due : Nat
  st : ObsStage := .waiting
  deriving DecidableEq, Repr

/-- A counter of a partition (R406): die, cluster (20 for a die counter), partition, number. -/
structure CounterKey where
  part : Nat
  die : Nat
  clu : Option Nat
  n : Nat
  deriving DecidableEq, Repr

/-- A record written to a queue or ring of a partition or a die. -/
inductive Record
  | completion (part : Nat) (w0 w1 w2 w3 : Word)
  | error (part : Nat) (w0 w1 w2 w3 : Word)
  | fault (part : Nat) (w0 w1 w2 w3 : Word)
  | hardware (die : Nat) (w0 w1 w2 w3 : Word)
  | observed (fn : Nat) (ring : ObsRing) (w0 w1 w2 w3 : Word)
  deriving DecidableEq, Repr

/-- An interrupt raised to the host. -/
inductive Irq | fault (part : Nat) | completion (part : Nat) | failure (part : Nat) | hardware (die : Nat) | clamp
  deriving DecidableEq, Repr

/-- A die's error log ring (R371). -/
structure LogRing where
  die : Nat
  base : Nat
  len : Nat
  written : Nat
  drops : Nat
  lost : Nat
  deriving DecidableEq, Repr

/-- The kiln (R377 to R380): EN, ABL, scan in progress, tile under test, counts. -/
structure Kiln where
  en : Bool
  abl : Nat
  busy : Bool
  tile : Option Pos
  pass : BitVec 16
  fail : BitVec 16
  abort : BitVec 16
  deriving DecidableEq, Repr

/-- Power and service (R392 to R398); `refFrom` is when the HBM last began to be refreshed, in 1/18 ns (R283, R398). -/
structure Power where
  dps : Nat
  full : Bool
  thc : Bool
  training : Bool
  booted : Bool
  halted : Bool
  stopEnds : Option (Nat × Nat)
  junction : List (Nat × Int)
  gated : List Pos
  hot : List Nat
  refFrom : Nat
  deriving DecidableEq, Repr

/-- `lastOp` is the fc in which a frame table or a barrier unit last completed an operation; owner tags are held as ranges of
lines (first, number, partition), the latest first, and a line in none has tag 0. `hbmKeys` names the key each encrypted block of HBM
was last written under (R293), `bankFc` the fc in which a scratchpad bank last served an access (R189), `bad` the blocks and lines that
hold an error no code corrects (R370). Everything but memory, frame records, time, the tile map and the model's own fields. -/
structure Chip where
  elems : List (Pos × Elem)
  units : List (Pos × UnitState)
  qs : List (Pos × QState)
  mats : List (Pos × MatState)
  aps : List (Pos × ApState)
  mills : List (Pos × List (Nat × MillCtx))
  patterns : List (Pos × List (Nat × Nat × List Word32))
  rings : List Ring
  pushes : List Push
  walks : List Walk
  net : List Msg
  fwaits : List FrameWait
  purges : List Purge
  lastOp : List (Pos × Nat)
  reqs : List MemReq
  lostSlots : List (Pos × Nat × Nat × Nat)
  fetches : List Fetch
  cluTlb : List (Pos × List TlbEntry)
  dieTlb : List (Nat × List TlbEntry)
  misses : List Miss
  faults : List FaultRec
  nextFid : BitVec 32
  ctrls : List Ctrl
  adjunct : List AdjLine
  fills : List AdjFill
  spadOwner : List (Nat × Nat × Nat)
  spadDirty : List Nat
  sramOwner : List (Nat × Nat × Nat)
  regions : List Region
  saved : List Saved
  ended : List Ended
  graphs : List Graph
  runs : List Run
  nextRun : BitVec 32
  launchQ : List LaunchEntry
  shares : List Share
  reserves : List Reserve
  barriers : List Barrier
  pkgOwner : List (Nat × Nat)
  images : List (Nat × Nat × Image)
  graphImages : List (Nat × Nat × GraphImage)
  partitions : List Partition
  exports : List (Nat × Word)
  fns : List Fn
  obs : List ObsRec
  counters : List (CounterKey × Word)
  smpNext : List (Pos × Nat × Nat)
  records : List Record
  irqs : List Irq
  logs : List LogRing
  kiln : Kiln
  faulty : List Pos
  buckets : List (UnitName × List Nat)
  bucketNext : List (Nat × Nat)
  cecfg : List (Nat × Word)
  cecfgNow : List (Nat × Word) := []
  gecfg : List (Nat × Word)
  ydl : List (Nat × Nat × Nat)
  csram : List (Pos × Word)
  peerIn : List (Nat × PeerAccess)
  peerOut : List Outgoing
  hbmKeys : List (Nat × Nat)
  bankFc : List (Nat × Nat)
  bad : List BadData
  power : Power
  deriving DecidableEq, Repr

/-- The state of the module. `fc` counts fabric cycles and `t18` eighteenths of a nanosecond since reset (R8, R343). `cur` is the
firing a step has taken up, `inputs` the outside acts still to come, `free` how many free values have been drawn and
`nextId` the next name of a message or request: these four are the model's own (assumptions 2, 3, 4). `frames` holds
the records of frames by frame identifier (R65), `savedFrames` those kept in context images (R355), `gone` the tiles
whose bit in the logical tile map is 0 (R376), `measure` the 8 measurement registers (R399). -/
structure State where
  chip : Chip
  hbm : Memory
  spad : Memory
  sram : Memory
  frames : List (Nat × FrameRec)
  savedFrames : List (Nat × Nat × FrameRec)
  gone : List Pos
  measure : List (BitVec 256)
  fc : Nat
  t18 : Nat
  cur : Option Firing
  inputs : List (Nat × Instr)
  free : Nat
  nextId : Nat
  deriving DecidableEq, Repr

/-- The chip right after reset: no place differs from its reset value (R65, R217, R251, R329, R335, R380, R396). -/
def Chip.reset : Chip :=
  { elems := [], units := [], qs := [], mats := [], aps := [], mills := [], patterns := [], rings := [], pushes := [],
    walks := [], net := [], fwaits := [], purges := [], lastOp := [], reqs := [], lostSlots := [], fetches := [], cluTlb := [],
    dieTlb := [], misses := [], faults := [], nextFid := 0, ctrls := [], adjunct := [], fills := [], spadOwner := [],
    spadDirty := [], sramOwner := [], regions := [], saved := [], ended := [], graphs := [], runs := [], nextRun := 0, launchQ := [],
    shares := [], reserves := [], barriers := [], pkgOwner := [], images := [], graphImages := [], partitions := [],
    exports := [], fns := [], obs := [], counters := [], smpNext := [], records := [], irqs := [], logs := [],
    kiln := { en := true, abl := 6, busy := false, tile := none, pass := 0, fail := 0, abort := 0 },
    faulty := [], buckets := [], bucketNext := [], cecfg := [], gecfg := [], ydl := [], csram := [], peerIn := [], peerOut := [], hbmKeys := [],
    bankFc := [], bad := [],
    power := { dps := 4, full := false, thc := false, training := false, booted := false, halted := false,
               stopEnds := none, junction := [], gated := [], hot := [], refFrom := 0 } }

/-- The module right after reset: DPS4 (R396), nothing resident, every register at its reset value; values the spec does
not give are those of assumptions 10 to 15 and 20. -/
def State.reset : State :=
  { chip := Chip.reset, hbm := [], spad := [], sram := [], frames := [], savedFrames := [], gone := [],
    measure := List.replicate 8 0, fc := 0, t18 := 0, cur := none, inputs := [], free := 0, nextId := 0 }

/-- Why the machine stops with a fault. Both are the model's own; no step of a run that starts at reset raises one, since
a step performs an opcode only for a firing it has taken up and a step of the part only where it may be made. -/
inductive Fault
  /-- Raised by an opcode's meaning in a state whose `cur` holds no firing: safe, the hardware fires nothing there. -/
  | noFiring
  /-- Raised by a step of the part, named by its mnemonic, in a state where the spec does not let it be made: safe. -/
  | notEnabled (mnemonic : String)
  /-- Raised by step where the words of a taken-up firing are no instruction: safe; R55 says no element holds such. -/
  | undecodable
  deriving DecidableEq, Repr

/-- Why an instruction is refused. -/
inductive Refusal
  /-- An instruction that has no meaning in the model yet, by its mnemonic: safe. -/
  | notModelled (mnemonic : String)
  deriving DecidableEq, Repr

end Sys2Proof.Machine
end

