-- ==== Sys2Proof/Machine/Bits.lean ====
section
/-! DEFINITION. Helpers over plain data: finite maps as lists, lanes and bytes of payloads (spec/00 R7), tags and frame
identifiers (spec/01 R21), residues and CRC (R23, R24), the token header (R20), places on the mesh and the way of a
token across it (R3, R26 to R28). -/

namespace Sys2Proof.Machine

open Sys2Proof

/-! ## Finite maps as lists of pairs -/

/-- The value at a key. -/
def lookupKey {α β : Type} [DecidableEq α] (k : α) : List (α × β) → Option β
  | [] => none
  | (a, b) :: rest => if a = k then some b else lookupKey k rest

/-- The value at a key, or a default. -/
def getKey {α β : Type} [DecidableEq α] (d : β) (k : α) (l : List (α × β)) : β := (lookupKey k l).getD d

/-- The map without a key. -/
def delKey {α β : Type} [DecidableEq α] (k : α) (l : List (α × β)) : List (α × β) := l.filter fun x => x.1 ≠ k

/-- The map with a key set, in its old place if it had one. -/
def setKey {α β : Type} [DecidableEq α] (k : α) (b : β) : List (α × β) → List (α × β)
  | [] => [(k, b)]
  | (a, c) :: rest => if a = k then (k, b) :: rest else (a, c) :: setKey k b rest

/-- Change the value at a key, from a default when it has none. -/
def modKey {α β : Type} [DecidableEq α] (d : β) (k : α) (f : β → β) (l : List (α × β)) : List (α × β) :=
  setKey k (f (getKey d k l)) l

/-- Replace the members that satisfy a test. -/
def replaceIf {α : Type} (c : α → Bool) (f : α → α) (l : List α) : List α := l.map fun x => if c x then f x else x

/-- The member with the least measure, the first of equal ones. -/
def leastBy {α : Type} (f : α → Nat) : List α → Option α
  | [] => none
  | x :: rest => match leastBy f rest with
    | none => some x
    | some y => if f x ≤ f y then some x else some y

/-- A list without repeats, keeping first occurrences' last copies. -/
def distinct {α : Type} [DecidableEq α] : List α → List α
  | [] => []
  | x :: rest => if rest.contains x then distinct rest else x :: distinct rest

/-- Add a member at the end unless it is there. -/
def insertNew {α : Type} [DecidableEq α] (x : α) (l : List α) : List α := if l.contains x then l else l ++ [x]

/-! ## Bit strings -/

/-- The low 64 bits of a payload: what a narrow token carries (R22). -/
def lowWord (w : Wide) : Word := w.extractLsb' 0 64

/-- A narrow payload: bits above 63 are 0 (R22). -/
def ofWord (w : Word) : Wide := w.zeroExtend 512

/-- Lane i of a wide payload (R7). -/
def lane (w : Wide) (i : Nat) : BitVec 32 := w.extractLsb' (32 * i) 32

/-- A wide payload from its lanes, lane 0 first; missing lanes are 0. -/
def ofLanes : List (BitVec 32) → Wide
  | [] => 0
  | x :: rest => (x.zeroExtend 512) ||| (ofLanes rest <<< 32)

/-- The sixteen lanes of a wide payload. -/
def lanes (w : Wide) : List (BitVec 32) := (List.range 16).map (lane w)

/-- Byte i of a payload (R202). -/
def byteAt (w : Wide) (i : Nat) : Byte := w.extractLsb' (8 * i) 8

/-- The first n bytes of a payload, lowest first. -/
def bytesOf (w : Wide) (n : Nat) : List Byte := (List.range n).map (byteAt w)

/-- A payload from bytes, lowest first. -/
def ofBytes : List Byte → Wide
  | [] => 0
  | x :: rest => (x.zeroExtend 512) ||| (ofBytes rest <<< 8)

/-- A bit string with one bit set to a value. -/
def putBit {n : Nat} (w : BitVec n) (i : Nat) (b : Bool) : BitVec n :=
  if b then w ||| (1#n <<< i) else w &&& ~~~(1#n <<< i)

/-- The low n bits of an integer in two's complement (R9). -/
def truncBits (v : Int) (n : Nat) : BitVec n := BitVec.ofInt n v

/-- A natural number as a word. -/
def nat64 (n : Nat) : Word := BitVec.ofNat 64 n

/-- A field of a word, as a number: bits hi down to lo. -/
def field (w : Word) (hi lo : Nat) : Nat := (w.extractLsb' lo (hi + 1 - lo)).toNat

/-- A number placed at a bit. -/
def place (v lo : Nat) : Word := BitVec.ofNat 64 v <<< lo

/-- A flag placed at a bit. -/
def placeBit (b : Bool) (lo : Nat) : Word := if b then 1#64 <<< lo else 0

/-! ## Tags (R21) -/

/-- The frame identifier of a tag: TAG[22:6]. -/
def frameOf (t : Tag) : Nat := (t.extractLsb' 6 17).toNat

/-- The iteration tag of a tag: TAG[5:0]. -/
def iterOf (t : Tag) : Nat := (t.extractLsb' 0 6).toNat

/-- The tag of a frame and an iteration tag. -/
def mkTag (f i : Nat) : Tag := BitVec.ofNat 23 (f * 64 + i % 64)

/-- The tag that names no frame (R65, R70). -/
def noTag : Tag := BitVec.allOnes 23

/-- The frame identifier of an index in a cluster's frame table. -/
def mkFrame (die clu idx : Nat) : Nat := (die * 32 + clu) * 1024 + idx

/-- The cluster whose frame table holds a frame. -/
def frameDie (f : Nat) : Nat := f / 32768

/-- The cluster whose frame table holds a frame. -/
def frameClu (f : Nat) : Nat := f / 1024 % 32

/-! ## Positions -/

/-- Ascending (die, cluster, unit, element): the order of sources that the spec names everywhere. -/
def posKey (p : Pos) : Nat := ((p.die * 32 + p.clu) * 128 + p.unit) * 32 + p.elem

/-- The unit of an element. -/
def unitOf (p : Pos) : Pos := { p with elem := 0 }

/-- A cluster, named by its die and number. -/
def cluster (die clu : Nat) : Pos := ⟨die, clu, 0, 0⟩

/-- The cluster of a position. -/
def cluOf (p : Pos) : Pos := ⟨p.die, p.clu, 0, 0⟩

/-- The class of an element (R18); none for a reserved element or a cluster unit. -/
def classOf (p : Pos) : Option ElemClass :=
  if p.unit < 32 then
    if p.elem < 16 then some .s
    else if p.elem = 16 then some .v
    else if p.elem = 17 then some .m
    else if p.elem = 18 then some .q
    else none
  else if p.unit < 36 ∧ p.elem = 0 then some .a
  else none

/-- Entries of an instruction table (R36). -/
def tableSize : ElemClass → Nat
  | .s => 64
  | .v => 64
  | .m => 32
  | .q => 32
  | .a => 256

/-- The units of a cluster that are not tiles or access processors (R101), and places that have no unit number: 64 the
cluster memory port with the SRAM node and TLB, 65 the die's hub, barrier unit, graph engine and TLB, 66 the package
units on die 0 (R27). -/
def frameTable (p : Pos) : Pos := ⟨p.die, p.clu, 36, 0⟩
def barrierUnit (p : Pos) : Pos := ⟨p.die, p.clu, 37, 0⟩
def millUnit (p : Pos) : Pos := ⟨p.die, p.clu, 38, 0⟩
def controlPoint (p : Pos) : Pos := ⟨p.die, p.clu, 39, 0⟩
def memoryPort (p : Pos) : Pos := ⟨p.die, p.clu, 64, 0⟩
def dieUnit (d : Nat) : Pos := ⟨d, 0, 65, 0⟩
def packageUnit : Pos := ⟨0, 0, 66, 0⟩

/-! ## The mesh (R3, R26 to R28) -/

/-- The cluster tile to whose switch a unit is attached (R27). -/
def attachTile (unit : Nat) : Nat :=
  if unit < 32 then unit
  else if unit < 36 then 8 * (unit - 32) + 7
  else if unit < 64 then 0
  else if unit = 64 then 4
  else 0

/-- The module column and row of the switch of a position (R3, R28). -/
def switchOf (p : Pos) : Nat × Nat :=
  let t := attachTile p.unit
  (32 * (p.die % 2) + 8 * (p.clu % 4) + t % 8, 20 * (p.die / 2) + 4 * (p.clu / 4) + t / 8)

/-- One step from a towards b. -/
def toward (a b : Nat) : Nat := if a < b then a + 1 else a - 1

/-- The next switch on the way (R26): toward the next die first, the horizontal link before the vertical one, then along
the row, then along the column. -/
def nextSwitch (c r dc dr : Nat) : Nat × Nat :=
  if c / 32 ≠ dc / 32 then (toward c dc, r)
  else if r / 20 ≠ dr / 20 then (c, toward r dr)
  else if c ≠ dc then (toward c dc, r)
  else (c, toward r dr)

/-- The cost in fc of a step between neighbouring switches (R26): 12 across a die edge and nothing more, else 1, and 1
more across a cluster boundary. -/
def hopCost (c r c' r' : Nat) : Nat :=
  if c / 32 ≠ c' / 32 ∨ r / 20 ≠ r' / 20 then 12
  else if c / 8 ≠ c' / 8 ∨ r / 4 ≠ r' / 4 then 2
  else 1

/-- The unloaded latency between two switches (R26). -/
def wayCost : Nat → Nat → Nat → Nat → Nat → Nat
  | 0, _, _, _, _ => 0
  | fuel + 1, c, r, dc, dr =>
    if c = dc ∧ r = dr then 0
    else
      let n := nextSwitch c r dc dr
      hopCost c r n.1 n.2 + wayCost fuel n.1 n.2 dc dr

/-- The unloaded latency between two positions (R26, R27); no way is longer than 102 steps. -/
def latency (a b : Pos) : Nat :=
  let x := switchOf a
  let y := switchOf b
  wayCost 104 x.1 x.2 y.1 y.2

/-- The number of hops between two tiles of one die or more, die crossings not counted (R26, R282). -/
def hops (a b : Pos) : Nat :=
  let x := switchOf a
  let y := switchOf b
  (if x.1 ≤ y.1 then y.1 - x.1 else x.1 - y.1) + (if x.2 ≤ y.2 then y.2 - x.2 else x.2 - y.2)

/-- Die boundaries on the way between two dies (R3, R26). -/
def diesCrossed (a b : Nat) : Nat := (if a % 2 = b % 2 then 0 else 1) + (if a / 2 = b / 2 then 0 else 1)

/-- The dies that send over a link on that way, the horizontal link first (R26). -/
def linkDies (a b : Nat) : List Nat :=
  let across := if a % 2 = b % 2 then a else a / 2 * 2 + b % 2
  (if a % 2 = b % 2 then [] else [a]) ++ (if a / 2 = b / 2 then [] else [across])

/-! ## Residues and route check (R23, R24) -/

/-- The residue of one 64-bit lane. -/
def residue (w : Word) : BitVec 4 := BitVec.ofNat 4 (w.toNat % 15)

/-- The residue field of a payload, lanes 0 to 7. -/
def residues (w : Wide) : BitVec 32 :=
  (List.range 8).foldr (fun i acc => (residue (w.extractLsb' (64 * i) 64)).zeroExtend 32 ||| (acc <<< 4)) 0

/-- One bit of the CRC-8 with generator x^8 + x^2 + x + 1. -/
def crcStep (crc : BitVec 8) (b : Bool) : BitVec 8 :=
  let top := crc.getLsbD 7
  let sh := crc <<< 1
  if top != b then sh ^^^ 0x07 else sh

/-- The CRC-8 of 64 bits, from bit 63 down to bit 0. -/
def crc8 (w : Word) : BitVec 8 :=
  (List.range 64).foldl (fun crc i => crcStep crc (w.getLsbD (63 - i))) 0

/-- Header bits [63:0] with their RID (R20, R24). -/
def withRid (h : Word) : BitVec 72 := crc8 h ++ h

/-- Whether a header's RID is that of its bits (R24). -/
def ridOk (h : BitVec 72) : Bool := crc8 (h.extractLsb' 0 64) == h.extractLsb' 64 8

/-! ## Route entries and headers (R20, R99) -/

/-- Fields of a route entry or of header bits [63:0]. -/
def routeUsed (w : Word) : Bool := w.getLsbD 63
def routeRel (w : Word) : Bool := w.getLsbD 62
def routeChain (w : Word) : Bool := w.getLsbD 61
def routeWide (w : Word) : Bool := w.getLsbD 60
def routeVc (w : Word) : Nat := field w 59 55
def routeSide (w : Word) : Nat := field w 54 53
def routeInstr (w : Word) : Nat := field w 52 45
def routePos (w : Word) : Pos := ⟨field w 28 27, field w 33 29, field w 39 34, field w 44 40⟩

/-- A header's KIND (R20). -/
def kindOf (h : BitVec 72) : Nat := (h.extractLsb' 61 3).toNat

/-- Header bits [63:0] of a token on a route entry, with a tag and a KIND (R20, R99): the route's bits [59:27], its WIDE,
FLN and the tag. -/
def headerOf (route : Word) (kind : Nat) (fln : Nat) (tag : Tag) : Word :=
  place kind 61 ||| (route &&& (0x1FFFFFFFF8000000#64)) ||| place (fln % 4) 25 ||| (tag.zeroExtend 64)

/-- The tag of a header. -/
def headerTag (h : BitVec 72) : Tag := h.extractLsb' 0 23

/-- The route entry of a place: what a token sent there without a route table carries. The spec gives UNIT no number for a cluster port, a
die's unit or the package's; it holds 0, 1 and 2 for them, the places' own numbers modulo 64 (assumption 105). -/
def routeTo (p : Pos) (instr side vc : Nat) (wide : Bool) : Word :=
  placeBit true 63 ||| placeBit wide 60 ||| place (vc % 32) 55 ||| place (side % 4) 53 ||| place (instr % 256) 45 |||
    place (p.elem % 32) 40 ||| place (p.unit % 64) 34 ||| place (p.clu % 32) 29 ||| place (p.die % 4) 27

/-! ## Places of memory (R189, R192, R281) -/

/-- Bytes of a scratchpad, of a cluster's SRAM. -/
def spadBytes : Nat := 393216
def sramBytes : Nat := 16777216

/-- The number of a cluster among all clusters. -/
def cluNo (p : Pos) : Nat := p.die * 20 + p.clu

/-- A physical address is local HBM (R281). -/
def localHbm (pa : Nat) : Bool := pa < 2 ^ 40

/-- The controller, 64 × global stack + pseudo-channel, of a local address (R280, R281). -/
def ctrlOf (pa : Nat) : Nat :=
  let f := fun hi lo => pa / 2 ^ lo % 2 ^ (hi + 1 - lo)
  let stack := ((f 9 8) ^^^ (f 23 22)) ^^^ (f 31 30)
  let pc := ((f 17 12) ^^^ (f 27 22)) ^^^ (f 37 32)
  64 * (4 * f 39 38 + stack) + pc

/-- The bank and the row of a local address (R281). -/
def bankNo (pa : Nat) : Nat := ((pa / 2 ^ 18 % 16) ^^^ (pa / 2 ^ 22 % 16)) ^^^ (pa / 2 ^ 30 % 16)
def rowNo (pa : Nat) : Nat := pa / 2 ^ 22 % 65536

/-- The die of a controller. -/
def ctrlDie (c : Nat) : Nat := c / 256

/-- Group lanes by 64-byte block of some address. -/
def groupBlocks (addr : Nat → Nat) (l : List (Nat × Nat)) : List (List (Nat × Nat)) :=
  (distinct (l.map fun x => addr x.2 / 64)).reverse.map fun b => l.filter fun x => addr x.2 / 64 = b

/-- The blocks of n bytes from a physical address up, as parts of a request with byte lanes (R272). -/
def bytesParts (a n : Nat) (key : Option Nat) : List (List (Nat × Nat) × Nat × Option Nat) :=
  (groupBlocks (a + ·) ((List.range n).map fun i => (i, i))).map fun l => (l, a + (l.headD (0, 0)).2, key)

end Sys2Proof.Machine
end

