-- ==== Sys2Proof/Machine/Flags.lean ====
section
/-! DEFINITION. The flags of FPFLAGS and the modes of FPCTL (spec/05 R128, R129), and when each flag is raised by a
rounding (R127, R130). -/

namespace Sys2Proof.Machine

open Sys2Proof

/-- NV DZ OF UF NX in bits 4 to 0 (R129). -/
abbrev Flags := BitVec 5

def flagNX : Flags := 1
def flagUF : Flags := 2
def flagOF : Flags := 4
def flagDZ : Flags := 8
def flagNV : Flags := 16

/-- A flag if a condition holds. -/
def flagIf (c : Bool) (f : Flags) : Flags := if c then f else 0

/-- Rounding modes (R128, R129). -/
inductive Mode | rne | rtz | rup | rdn
  deriving DecidableEq, Repr

/-- The mode coded by two bits (R105, R129). -/
def modeOf (n : Nat) : Mode :=
  match n % 4 with
  | 0 => .rne
  | 1 => .rtz
  | 2 => .rup
  | _ => .rdn

/-- The fields of FPCTL (R129). -/
structure FpCtl where
  ftz : Bool
  daz : Bool
  rm : Mode
  deriving DecidableEq, Repr

/-- FPCTL read from its register (R129). -/
def fpCtl (w : Word) : FpCtl := ⟨w.getLsbD 3, w.getLsbD 2, modeOf (w.extractLsb' 0 2).toNat⟩

/-- The flags of a float rounding (R127, R130): overflow raises OF and NX; a tiny inexact result UF and NX; an inexact
one NX. -/
def roundFlags (overflow tiny inexact : Bool) : Flags :=
  flagIf overflow (flagOF ||| flagNX) ||| flagIf (tiny && inexact) flagUF ||| flagIf inexact flagNX

/-- A result flushed by FTZ raises UF and NX (R130). -/
def flushFlags : Flags := flagUF ||| flagNX

/-- The flags of a conversion to an integer (R127, R135): NV alone for a clamp, NX for a discarded fraction. -/
def intFlags (clamped inexact : Bool) : Flags := if clamped then flagNV else flagIf inexact flagNX

end Sys2Proof.Machine
end

