-- ==== Sys2Proof/Machine/Formats.lean ====
section
/-! DEFINITION. The number formats bit by bit and every conversion between them (spec/05 R119 to R128, R135): values are
exact rationals, infinities or NaNs; one rounding function serves every binary format; DL8 has its own table. -/

namespace Sys2Proof.Machine

open Sys2Proof

/-- A value: a NaN with its FP32 encoding, an infinity, or the exact rational ±num/den with den > 0; zero has a sign. -/
inductive Num
  | nan (bits : BitVec 32)
  | inf (neg : Bool)
  | fin (neg : Bool) (num den : Nat)
  deriving DecidableEq, Repr

/-- The canonical NaN of FP32 (R119). -/
def qnan : BitVec 32 := 0x7FC00000

/-- num/den × 2^e, as a pair. -/
def scale2 (num den : Nat) (e : Int) : Nat × Nat :=
  if 0 ≤ e then (num * 2 ^ e.toNat, den) else (num, den * 2 ^ (-e).toNat)

/-- Whether num/den < 2^e. -/
def below2 (num den : Nat) (e : Int) : Bool :=
  if 0 ≤ e then num < den * 2 ^ e.toNat else num * 2 ^ (-e).toNat < den

/-- floor(log2(num/den)) for a positive rational. -/
def floorLog2 (num den : Nat) : Int :=
  let k : Int := (Nat.log2 num : Int) - (Nat.log2 den : Int)
  if below2 num den k then k - 1 else k

/-- num/den rounded to an integer of the given sign (R128), and whether a fraction was discarded. -/
def roundInt (m : Mode) (neg : Bool) (num den : Nat) : Nat × Bool :=
  let q := num / den
  let r := num % den
  let up := match m with
    | .rne => 2 * r > den || (2 * r == den && q % 2 == 1)
    | .rtz => false
    | .rup => !neg && r != 0
    | .rdn => neg && r != 0
  (if up then q + 1 else q, r != 0)

/-- A binary format (R119): significant bits, least normal exponent, largest finite value as significand and exponent of
its last bit. -/
structure BinFmt where
  prec : Nat
  emin : Int
  maxSig : Nat
  maxExp : Int
  deriving DecidableEq, Repr

def fmtFp32 : BinFmt := ⟨24, -126, 0xFFFFFF, 104⟩
def fmtBf16 : BinFmt := ⟨8, -126, 0xFF, 120⟩
def fmtFp16 : BinFmt := ⟨11, -14, 0x7FF, 5⟩
def fmtE5m2 : BinFmt := ⟨3, -14, 7, 13⟩
def fmtE4m3 : BinFmt := ⟨4, -6, 14, 5⟩
def fmtE2m1 : BinFmt := ⟨2, 0, 3, 1⟩

/-- The result of a rounding: significand and the exponent of its last bit, and what happened (R127, R130). -/
structure Rounded where
  sig : Nat
  exp : Int
  overflow : Bool
  tiny : Bool
  inexact : Bool
  deriving DecidableEq, Repr

/-- num/den rounded with a last bit of 2^q. -/
def roundAt (m : Mode) (neg : Bool) (num den : Nat) (q : Int) : Nat × Bool :=
  let x := scale2 num den (-q)
  roundInt m neg x.1 x.2

/-- Whether sig × 2^e exceeds a format's largest finite value. -/
def BinFmt.exceeds (f : BinFmt) (sig : Nat) (e : Int) : Bool :=
  let d := e - f.maxExp
  if 0 ≤ d then sig * 2 ^ d.toNat > f.maxSig else sig > f.maxSig * 2 ^ (-d).toNat

/-- A positive rational rounded to a binary format: overflow is decided with the exponent unbounded (R127). -/
def roundBin (f : BinFmt) (m : Mode) (neg : Bool) (num den : Nat) : Rounded :=
  let e := floorLog2 num den
  let free := e - (f.prec - 1 : Int)
  let low := f.emin - (f.prec - 1 : Int)
  let u := roundAt m neg num den free
  if f.exceeds u.1 free then ⟨u.1, free, true, false, true⟩
  else
    let q := if free < low then low else free
    let r := roundAt m neg num den q
    ⟨r.1, q, false, below2 r.1 1 (f.emin - q), r.2⟩

/-- Whether an overflow in a mode gives the largest finite value and not an infinity (R127, the IEEE rule). -/
def overflowsToMax (m : Mode) (neg : Bool) : Bool :=
  match m with
  | .rne => false
  | .rtz => true
  | .rup => neg
  | .rdn => !neg

/-! ## FP32 encodings -/

/-- The encoding of ±sig × 2^q in a format of `eb` exponent and `mb` mantissa bits, of a value in range. -/
def packBits (eb mb : Nat) (bias : Int) (neg : Bool) (sig : Nat) (q : Int) : Nat :=
  let s := if neg then 2 ^ (eb + mb) else 0
  if sig = 0 then s
  else
    let l : Int := (Nat.log2 sig : Int)
    let e := l + q
    let bexp := e + bias
    if bexp ≤ 0 then
      -- subnormal: the last bit is 2^(1 - bias - mb)
      let sh := q - (1 - bias - (mb : Int))
      s + (if 0 ≤ sh then sig * 2 ^ sh.toNat else sig / 2 ^ (-sh).toNat)
    else
      let sh := (mb : Int) - l
      let m := if 0 ≤ sh then sig * 2 ^ sh.toNat else sig / 2 ^ (-sh).toNat
      s + bexp.toNat * 2 ^ mb + (m - 2 ^ mb)

/-- The value of a format's bits with exponent field e and mantissa m (R119). -/
def unpackFin (mb : Nat) (bias : Int) (neg : Bool) (e m : Nat) : Num :=
  let x := if e = 0 then scale2 m 1 (1 - bias - (mb : Int)) else scale2 (m + 2 ^ mb) 1 ((e : Int) - bias - (mb : Int))
  .fin neg x.1 x.2

/-- The value an FP32 encoding holds (R119). -/
def fp32Value (b : BitVec 32) : Num :=
  let e := (b.extractLsb' 23 8).toNat
  let m := (b.extractLsb' 0 23).toNat
  if e = 255 then (if m = 0 then .inf (b.getLsbD 31) else .nan b) else unpackFin 23 127 (b.getLsbD 31) e m

def fp32Inf (neg : Bool) : BitVec 32 := if neg then 0xFF800000 else 0x7F800000
def fp32Max (neg : Bool) : BitVec 32 := if neg then 0xFF7FFFFF else 0x7F7FFFFF
def fp32Zero (neg : Bool) : BitVec 32 := if neg then 0x80000000 else 0

/-- A NaN whose quiet bit is set (R133). -/
def quiet (b : BitVec 32) : BitVec 32 := b ||| 0x00400000

/-- A signalling NaN (R119). -/
def isSnan : Num → Bool
  | .nan b => !b.getLsbD 22
  | _ => false

def isNan : Num → Bool
  | .nan _ => true
  | _ => false

/-- Whether an FP32 encoding is subnormal (R119). -/
def isSubnormal (b : BitVec 32) : Bool := (b.extractLsb' 23 8 == 0) && (b.extractLsb' 0 23 != 0)

/-- A subnormal becomes a zero of its sign (R125, R130). -/
def flushSub (b : BitVec 32) : BitVec 32 := if isSubnormal b then b &&& 0x80000000 else b

/-- A finite value rounded to FP32 in a mode, by the IEEE overflow rule (R127), with its flags. -/
def roundFp32 (m : Mode) (neg : Bool) (num den : Nat) : BitVec 32 × Flags :=
  if num = 0 then (fp32Zero neg, 0)
  else
    let r := roundBin fmtFp32 m neg num den
    let b := if r.overflow then (if overflowsToMax m neg then fp32Max neg else fp32Inf neg)
      else BitVec.ofNat 32 (packBits 8 23 127 neg r.sig r.exp)
    (b, roundFlags r.overflow r.tiny r.inexact)

/-! ## DL8 (R122 to R124) -/

/-- A power of ten as a rational. -/
def pow10 (d : Int) : Nat × Nat := if 0 ≤ d then (10 ^ d.toNat, 1) else (1, 10 ^ (-d).toNat)

/-- Width of the exponent code and its decade for a marker m and code c (R122). -/
def dl8Width (m : Nat) : Nat := match m with
  | 6 => 1 | 5 => 2 | 4 => 2 | 3 => 2 | 2 => 2 | 1 => 1 | _ => 0

def dl8Decade (m c : Nat) : Int :=
  match m, c with
  | 6, 1 => 0 | 6, _ => -1
  | 5, 3 => 2 | 5, 2 => 1 | 5, 1 => -2 | 5, _ => -3
  | 4, 3 => 4 | 4, 2 => 3 | 4, 1 => -4 | 4, _ => -5
  | 3, 3 => 6 | 3, 2 => 5 | 3, 1 => -6 | 3, _ => -7
  | 2, 3 => 8 | 2, 2 => 7 | 2, 1 => -8 | 2, _ => -9
  | 1, 1 => 9 | 1, _ => -10
  | _, _ => 10

/-- The fraction F of a body (R122). -/
def dl8Frac (body : Nat) : Nat :=
  let m := Nat.log2 body
  body % 2 ^ (m - dl8Width m)

/-- The magnitude of a non-zero body, num/den (R122). -/
def dl8Mag (body : Nat) : Nat × Nat :=
  let m := Nat.log2 body
  let w := dl8Width m
  let f := m - w
  let c := body / 2 ^ f % 2 ^ w
  let F := body % 2 ^ f
  let d := pow10 (dl8Decade m c)
  ((2 ^ f + 9 * F) * d.1, 2 ^ f * d.2)

/-- A DL8 code decoded to FP32 with RNE (R123). -/
def dl8ToFp32 (code : BitVec 8) : BitVec 32 :=
  let body := (code.extractLsb' 0 7).toNat
  let neg := code.getLsbD 7
  if body = 0 then (if neg then qnan else 0)
  else
    let x := dl8Mag body
    (roundFp32 .rne neg x.1 x.2).1

/-- The exact value of a DL8 code (R122). -/
def dl8Value (code : BitVec 8) : Num :=
  let body := (code.extractLsb' 0 7).toNat
  let neg := code.getLsbD 7
  if body = 0 then (if neg then .nan qnan else .fin false 0 1)
  else
    let x := dl8Mag body
    .fin neg x.1 x.2

/-- Comparison of rationals. -/
def ratLt (a b : Nat × Nat) : Bool := a.1 * b.2 < b.1 * a.2
def ratEq (a b : Nat × Nat) : Bool := a.1 * b.2 == b.1 * a.2

/-- Magnitudes of the DL8 candidates; body 0 is zero. -/
def dl8Cand (body : Nat) : Nat × Nat := if body = 0 then (0, 1) else dl8Mag body

/-- The candidate of largest magnitude not above v. -/
def dl8Below (v : Nat × Nat) : Nat :=
  (List.range 128).foldl (fun best b =>
    if !ratLt v (dl8Cand b) && !ratLt (dl8Cand b) (dl8Cand best) then b else best) 0

/-- The candidate of smallest magnitude not below v; v is at most 10^10, body 0x01. -/
def dl8Above (v : Nat × Nat) : Nat :=
  (List.range 128).foldl (fun best b =>
    if !ratLt (dl8Cand b) v && !ratLt (dl8Cand best) (dl8Cand b) then b else best) 1

/-- A value encoded to DL8 (R124). -/
def encodeDl8 (m : Mode) (sat : Bool) (v : Num) : BitVec 8 × Flags :=
  match v with
  | .nan _ => (0x80, flagNV)
  | .inf _ => (0x80, flagNV)
  | .fin neg num den =>
    let x := (num, den)
    let sign : Nat := if neg then 128 else 0
    if num = 0 then (0, 0)
    else if ratLt (10 ^ 10, 1) x then
      ((if sat then BitVec.ofNat 8 (sign + 1) else 0x80), flagOF ||| flagNX)
    else
      let lo := dl8Below x
      let hi := dl8Above x
      let l := dl8Cand lo
      let h := dl8Cand hi
      -- twice the value against the sum of the neighbours
      let s := (l.1 * h.2 + h.1 * l.2, l.2 * h.2)
      let d := (2 * num, den)
      let body := if lo = hi then lo
        else match m with
        | .rne =>
          if ratLt d s then lo
          else if ratLt s d then hi
          else if lo = 0 then lo
          else if dl8Frac lo % 2 = 1 then hi else lo
        | .rtz => lo
        | .rup => if neg then lo else hi
        | .rdn => if neg then hi else lo
      let exact := ratEq (dl8Cand body) x
      let uf := ratLt x (1, 10 ^ 10)
      ((if body = 0 then 0 else BitVec.ofNat 8 (sign + body)),
        flagIf (!exact) flagNX ||| flagIf uf flagUF)

/-! ## Every format -/

/-- Bits of a format's value (R48). -/
def fmtBits : Fmt → Nat
  | .fp32 => 32 | .bf16 => 16 | .fp16 => 16 | .e4m3 => 8 | .e5m2 => 8 | .dl8 => 8 | .i8 => 8 | .ui8 => 8 | .e2m1 => 4
  | .i4 => 4 | .i32 => 32 | .i16 => 16 | .raw => 64

/-- Integer formats (R120). -/
def isIntFmt : Fmt → Bool
  | .i8 => true | .ui8 => true | .i4 => true | .i32 => true | .i16 => true | _ => false

/-- The range of an integer format (R120). -/
def intRange : Fmt → Int × Int
  | .i4 => (-8, 7) | .i8 => (-128, 127) | .ui8 => (0, 255) | .i16 => (-32768, 32767)
  | _ => (-2147483648, 2147483647)

/-- A value clamped to a range; whether it was clamped. -/
def clampInt (r : Int × Int) (v : Int) : Int × Bool :=
  if v < r.1 then (r.1, true) else if r.2 < v then (r.2, true) else (v, false)

/-- A value rounded to an integer and clamped, with its flags (R127, R135); a NaN gives 0. -/
def toIntClamped (m : Mode) (r : Int × Int) (v : Num) : Int × Flags :=
  match v with
  | .nan _ => (0, flagNV)
  | .inf neg => (if neg then r.1 else r.2, flagNV)
  | .fin neg num den =>
    let x := roundInt m neg num den
    let c := clampInt r (if neg then -(x.1 : Int) else (x.1 : Int))
    (c.1, intFlags c.2 x.2)

/-- The parameters of a small float format: exponent bits, mantissa bits, bias, rounding. -/
def floatShape : Fmt → Option (Nat × Nat × Int × BinFmt)
  | .fp32 => some (8, 23, 127, fmtFp32)
  | .bf16 => some (8, 7, 127, fmtBf16)
  | .fp16 => some (5, 10, 15, fmtFp16)
  | .e5m2 => some (5, 2, 15, fmtE5m2)
  | .e4m3 => some (4, 3, 7, fmtE4m3)
  | .e2m1 => some (2, 1, 1, fmtE2m1)
  | _ => none

/-- The exact value of the low bits of a word in a format (R119, R120, R122); a NaN carries its FP32 form (R125). -/
def fmtValue (f : Fmt) (w : Word) : Num :=
  let ofInt := fun (v : Int) => Num.fin (v < 0) v.natAbs 1
  match f with
  | .fp32 => fp32Value (w.extractLsb' 0 32)
  | .bf16 => fp32Value ((w.extractLsb' 0 16) ++ (0 : BitVec 16))
  | .fp16 =>
    let e := (w.extractLsb' 10 5).toNat
    let m := w.extractLsb' 0 10
    if e = 31 then
      (if m = 0 then .inf (w.getLsbD 15)
       else .nan (BitVec.ofBool (w.getLsbD 15) ++ (0xFF : BitVec 8) ++ m ++ (0 : BitVec 13)))
    else unpackFin 10 15 (w.getLsbD 15) e m.toNat
  | .e5m2 =>
    let e := (w.extractLsb' 2 5).toNat
    let m := (w.extractLsb' 0 2).toNat
    if e = 31 then (if m = 0 then .inf (w.getLsbD 7) else .nan qnan) else unpackFin 2 15 (w.getLsbD 7) e m
  | .e4m3 =>
    let e := (w.extractLsb' 3 4).toNat
    let m := (w.extractLsb' 0 3).toNat
    if e = 15 ∧ m = 7 then .nan qnan else unpackFin 3 7 (w.getLsbD 7) e m
  | .e2m1 => unpackFin 1 1 (w.getLsbD 3) (w.extractLsb' 1 2).toNat (w.extractLsb' 0 1).toNat
  | .dl8 => dl8Value (w.extractLsb' 0 8)
  | .i8 => ofInt (w.extractLsb' 0 8).toInt
  | .ui8 => ofInt ((w.extractLsb' 0 8).toNat : Int)
  | .i4 => ofInt (w.extractLsb' 0 4).toInt
  | .i16 => ofInt (w.extractLsb' 0 16).toInt
  | .i32 => ofInt (w.extractLsb' 0 32).toInt
  | .raw => ofInt (w.toInt)

/-- The integer an integer format's low bits hold, extended to 64 bits (R106, R120). -/
def intOfFmt (f : Fmt) (w : Word) : Word :=
  match f with
  | .i8 => (w.extractLsb' 0 8).signExtend 64
  | .ui8 => (w.extractLsb' 0 8).zeroExtend 64
  | .i4 => (w.extractLsb' 0 4).signExtend 64
  | .i16 => (w.extractLsb' 0 16).signExtend 64
  | .i32 => (w.extractLsb' 0 32).signExtend 64
  | _ => w

/-- A float format's low bits as FP32, without a scale (R125): exact but for DL8; NaNs of BF16 and FP16 are quieted. -/
def floatOfFmt (f : Fmt) (w : Word) : BitVec 32 :=
  match f with
  | .fp32 => w.extractLsb' 0 32
  | .dl8 => dl8ToFp32 (w.extractLsb' 0 8)
  | _ => match fmtValue f w with
    | .nan b => quiet b
    | .inf neg => fp32Inf neg
    | .fin neg num den => (roundFp32 .rne neg num den).1

/-- A value times a scale, rounded to FP32 with RNE: decoding with SEN (R125). A NaN scale, a NaN value and a product of
zero and infinity are NaNs. -/
def timesScale (x : Num) (sc : BitVec 32) : BitVec 32 :=
  match x, fp32Value sc with
  | _, .nan _ => qnan
  | .nan b, _ => quiet b
  | .inf a, .inf b => fp32Inf (a != b)
  | .inf a, .fin b n _ => if n = 0 then qnan else fp32Inf (a != b)
  | .fin a n _, .inf b => if n = 0 then qnan else fp32Inf (a != b)
  | .fin a n d, .fin b n' d' => (roundFp32 .rne (a != b) (n * n') (d * d')).1

/-- What stands for an invalid product on the way to an encoding: a signalling NaN, so that NV is raised (R133). -/
def invalidNum : Num := .nan 0x7F800001

/-- The exact product of an FP32 value and a scale: encoding with SEN (R126). A NaN in the scale alone gives a quiet NaN (assumption
96). -/
def exactTimes (x sc : BitVec 32) : Num :=
  match fp32Value x, fp32Value sc with
  | .nan b, _ => .nan b
  | _, .nan _ => .nan qnan
  | .inf a, .inf b => .inf (a != b)
  | .inf a, .fin b n _ => if n = 0 then invalidNum else .inf (a != b)
  | .fin a n _, .inf b => if n = 0 then invalidNum else .inf (a != b)
  | .fin a n d, .fin b n' d' => .fin (a != b) (n * n') (d * d')

/-- The canonical NaN of a float format (R119). -/
def canonNan : Fmt → Nat
  | .fp32 => 0x7FC00000 | .bf16 => 0x7FC0 | .fp16 => 0x7E00 | .e5m2 => 0x7E | .e4m3 => 0x7F | _ => 0

/-- The code of a format's infinity, where it has one. -/
def infCode (f : Fmt) (neg : Bool) : Nat :=
  match f with
  | .fp32 => if neg then 0xFF800000 else 0x7F800000
  | .bf16 => if neg then 0xFF80 else 0x7F80
  | .fp16 => if neg then 0xFC00 else 0x7C00
  | .e5m2 => if neg then 0xFC else 0x7C
  | _ => 0

/-- The code of a format's largest finite value. -/
def maxCode (f : Fmt) (neg : Bool) : Nat :=
  match f with
  | .fp32 => if neg then 0xFF7FFFFF else 0x7F7FFFFF
  | .bf16 => if neg then 0xFF7F else 0x7F7F
  | .fp16 => if neg then 0xFBFF else 0x7BFF
  | .e5m2 => if neg then 0xFB else 0x7B
  | .e4m3 => if neg then 0xFE else 0x7E
  | _ => if neg then 0xF else 0x7

/-- What an overflowing finite value encodes to (R127). -/
def overflowCode (f : Fmt) (m : Mode) (sat neg : Bool) : Nat :=
  if f = .e2m1 ∨ sat then maxCode f neg
  else if overflowsToMax m neg then maxCode f neg
  else if f = .e4m3 then 0x7F
  else infCode f neg

/-- A value encoded to a float format other than DL8 (R126, R127). An infinity delivered as the largest finite value raises no flag
(assumption 95). -/
def encodeFloat (f : Fmt) (m : Mode) (sat : Bool) (v : Num) : Word × Flags :=
  match floatShape f with
  | none => (0, 0)
  | some (eb, mb, bias, bf) =>
    match v with
    | .nan b => (nat64 (canonNan f), flagIf (f = .e2m1 ∨ !b.getLsbD 22) flagNV)
    | .inf neg =>
      if f = .e2m1 ∨ sat then (nat64 (maxCode f neg), 0)
      else if f = .e4m3 then (0x7F, flagNV)
      else (nat64 (infCode f neg), 0)
    | .fin neg num den =>
      if num = 0 then (nat64 (if neg then 2 ^ (eb + mb) else 0), 0)
      else
        let r := roundBin bf m neg num den
        ((if r.overflow then nat64 (overflowCode f m sat neg) else nat64 (packBits eb mb bias neg r.sig r.exp)),
          roundFlags r.overflow r.tiny r.inexact)

/-- A value encoded to a format (R124, R126, R127); integers in two's complement in the format's width. -/
def encodeNum (f : Fmt) (m : Mode) (sat : Bool) (v : Num) : Word × Flags :=
  if f = .dl8 then
    let x := encodeDl8 m sat v
    (x.1.zeroExtend 64, x.2)
  else if isIntFmt f then
    let x := toIntClamped m (intRange f) v
    ((truncBits x.1 (fmtBits f)).zeroExtend 64, x.2)
  else encodeFloat f m sat v

end Sys2Proof.Machine
end

