-- ==== Sys2Proof/Config.lean ====
section
/-! DEFINITION. What the spec leaves to the part or to chance, as constants with no body, so that nothing can be proved
of their values: free choices and delays (assumption 5), free values (assumption 4), digests and signatures
(assumption 17), the kiln's signatures (assumption 16), bytes behind a window (assumption 22), memory keys (assumption 100), places
of node records (assumption 80), operands of commands (assumption 107). Each is applied to a plain counter of the state or to the
operands it depends on. -/

namespace Sys2Proof.Config

/-- Which of several enabled steps is made next, by the n-th free choice. -/
opaque pick : Nat → Nat

/-- Delay in fc above an unloaded latency, or a latency the spec does not state, by the n-th free choice. -/
opaque delay : Nat → Nat

/-- The n-th free value. -/
opaque word : Nat → Wide

/-- Lag in ns of a die's copy of the time base; used modulo 5 (R343). -/
opaque skew : Nat → Nat

/-- SM3 of a measurement register extended by a digest (R399). -/
opaque sm3 : BitVec 256 → BitVec 256 → BitVec 256

/-- Digest of the n-th firmware stage (R399). -/
opaque stageDigest : Nat → BitVec 256

/-- Whether the n-th firmware stage's signature verifies (R399). -/
opaque stageOk : Nat → Bool

/-- SM2 signature of the device over measurements and nonce (R400). -/
opaque attestSig : List (BitVec 256) → BitVec 256 → Wide

/-- The signature a kiln scan captures: of a tile, a pattern set, at the n-th scan (R379). -/
opaque kilnCaptured : Nat → Nat → Nat → BitVec 32

/-- The signature the kiln image expects of a pattern set (R379). -/
opaque kilnExpected : Nat → BitVec 32

/-- A byte of host memory or of a peer module, at the n-th read (R387). -/
opaque outsideByte : Nat → Nat → Byte

/-- The key pair of a key identifier, the data key uppermost and then the tweak key, as the management controller loads it (R293). -/
opaque keyPair : Nat → BitVec 256

/-- Whether a peer refuses the n-th request through a window (R387). -/
opaque peerRefuses : Nat → Bool

/-- When a controller's first refresh comes due, in ns after its HBM begins to be refreshed; used modulo 3,900 (R283). -/
opaque refreshPhase : Nat → Nat

/-- The 256 KiB of HBM in which the node records of a graph-table entry stand; used modulo 2^22 (R318). -/
opaque graphPlace : Nat → Nat

/-- The i-th operand, and list of operands, of a command in its descriptor, by the command's code and the words, where the spec gives no
layout (R385). -/
opaque operand : Nat → List Word → Nat → Nat
opaque operands : Nat → List Word → Nat → List Nat

end Sys2Proof.Config
end

