-- ==== Sys2Proof/Machine/Ops.lean ====
section
/-! DEFINITION. What a step can do to the state, named once: the closed list of updates Eff, of which every meaning is
made; the one way memory is read and written; the frame records (spec/03 R65, R69); messages (spec/01 R20 to R29);
parking (R73); records, events and interrupts; and the taking of a region error and of a rollback, the part's
exceptions (spec/14 R361, spec/15 R373, R374). -/

namespace Sys2Proof.Machine

open Sys2Proof

/-! ## Memory -/

/-- The byte at an address. -/
def Memory.read : Memory → Nat → Byte
  | [], _ => Memory.unlisted
  | (b, w) :: rest, a => if a = b then w else if a < b then Memory.unlisted else Memory.read rest a

/-- Memory with one byte written, in canonical form. -/
def Memory.write : Memory → Nat → Byte → Memory
  | [], a, v => if v = Memory.unlisted then [] else [(a, v)]
  | (b, w) :: rest, a, v =>
    if a < b then (if v = Memory.unlisted then (b, w) :: rest else (a, v) :: (b, w) :: rest)
    else if a = b then (if v = Memory.unlisted then rest else (a, v) :: rest)
    else (b, w) :: Memory.write rest a v

/-- Memory with a range of addresses back at what an unlisted address reads as. -/
def Memory.clear (m : Memory) (lo n : Nat) : Memory := m.filter fun x => !(lo ≤ x.1 && x.1 < lo + n)

/-- The bytes from an address up. -/
def Memory.bytes (m : Memory) (a n : Nat) : List Byte := (List.range n).map fun i => m.read (a + i)

/-- Memory with bytes written from an address up. -/
def Memory.writeAll (m : Memory) (a : Nat) : List Byte → Memory
  | [] => m
  | v :: rest => Memory.writeAll (m.write a v) (a + 1) rest

/-! ## Frame records -/

/-- What the frame table does to one record (R65, R69, R88, R89); a record is written in no other way. -/
inductive FrameUpd
  | alloc (decl logk rgn part : Nat) (parent : Tag) (cont : Option Word)
  | root (rgn part : Nat)
  | take (t : Nat)
  | drop (t : Nat)
  | succ (t : Nat)
  | pend (up : Bool)
  | memout (up : Bool)
  | bwc (up : Bool)
  | pfc (up : Bool)
  | yld (b : Bool)
  | retire
  | reset
  deriving DecidableEq, Repr

/-- A counter up or down by one; a counter at 0 stays. -/
def count (up : Bool) (n : Nat) : Nat := if up then n + 1 else n - 1

/-- The record after an update. A root frame has no tag allocated: only FALLOC and CALL allocate tag 0 (R69). Taking a tag that is not free, and dropping one that is, change no count (R69). -/
def FrameUpd.apply (u : FrameUpd) (r : FrameRec) : FrameRec :=
  match u with
  | .alloc decl logk rgn part parent cont =>
    { FrameRec.reset with val := true, decl := decl, logk := logk, rgn := rgn, part := part, parent := parent,
                          cv := cont.isSome, cont := cont.getD 0, freem := putBit (BitVec.allOnes 64) 0 false, live := 1 }
  | .root rgn part => { FrameRec.reset with val := true, decl := 63, rgn := rgn, part := part, parent := noTag }
  | .take t => if r.freem.getLsbD t then { r with freem := putBit r.freem t false, live := r.live + 1 } else r
  | .drop t =>
    if t < 64 ∧ r.freem.getLsbD t = false then
      { r with freem := putBit r.freem t true, live := r.live - 1, succm := putBit r.succm t false }
    else { r with succm := putBit r.succm t false }
  | .succ t => { r with succm := putBit r.succm t true }
  | .pend up => { r with pend := count up r.pend }
  | .memout up => { r with memout := count up r.memout }
  | .bwc up => { r with bwc := count up r.bwc }
  | .pfc up => { r with pfc := count up r.pfc }
  | .yld b => { r with yld := b }
  | .retire => { r with val := false }
  | .reset => FrameRec.reset

/-! ## Effects -/

/-- The primitive updates of the state. Every meaning is a list of them. -/
inductive Eff
  | chip (c : Chip)
  | hbm (a : Nat) (v : List Byte)
  | spad (a : Nat) (v : List Byte)
  | sram (a : Nat) (v : List Byte)
  | clearHbm
  | clearSpad (a n : Nat)
  | clearSram (a n : Nat)
  | frame (f : Nat) (u : FrameUpd)
  | saveFrames (k : Nat) (fs : List Nat)
  | loadFrames (k : Nat)
  | dropSaved (k : Nat)
  | removeTile (p : Pos)
  | measure (i : Nat) (digest : BitVec 256)
  | clearMeasure
  | elapse (n18 : Nat)
  | cycle (n18 : Nat)
  | cur (f : Option Firing)
  | inputs (l : List (Nat × Instr))
  | free
  | fresh
  deriving DecidableEq, Repr

/-- The state after one update. -/
def Eff.apply (e : Eff) (s : State) : State :=
  match e with
  | .chip c => { s with chip := c }
  | .hbm a v => { s with hbm := s.hbm.writeAll a v }
  | .spad a v => { s with spad := s.spad.writeAll a v }
  | .sram a v => { s with sram := s.sram.writeAll a v }
  | .clearHbm => { s with hbm := [] }
  | .clearSpad a n => { s with spad := s.spad.clear a n }
  | .clearSram a n => { s with sram := s.sram.clear a n }
  | .frame f u => { s with frames := setKey f (u.apply (getKey FrameRec.reset f s.frames)) s.frames }
  | .saveFrames k fs =>
    { s with savedFrames := s.savedFrames ++ fs.map fun f => (k, f, getKey FrameRec.reset f s.frames) }
  | .loadFrames k =>
    { s with frames := (s.savedFrames.filter fun x => x.1 = k).foldl (fun l x => setKey x.2.1 x.2.2 l) s.frames,
             savedFrames := s.savedFrames.filter fun x => x.1 ≠ k }
  | .dropSaved k => { s with savedFrames := s.savedFrames.filter fun x => x.1 ≠ k }
  | .removeTile p => { s with gone := insertNew p s.gone }
  | .measure i d => { s with measure := s.measure.mapIdx fun j m => if j = i then Config.sm3 m d else m }
  | .clearMeasure => { s with measure := List.replicate 8 0 }
  | .elapse n18 => { s with t18 := s.t18 + n18 }
  | .cycle n18 => { s with fc := s.fc + 1, t18 := s.t18 + n18 }
  | .cur f => { s with cur := f }
  | .inputs l => { s with inputs := l }
  | .free => { s with free := s.free + 1 }
  | .fresh => { s with nextId := s.nextId + 1 }

/-- The state after a list of updates, first to last. -/
def applyAll : List Eff → State → State
  | [], s => s
  | e :: rest, s => applyAll rest (e.apply s)

/-- A meaning's body: the updates it makes of a state. -/
abbrev Prog := State → List Eff

/-- Nothing. -/
def skip : Prog := fun _ => []

/-- One update. -/
def eff (e : Eff) : Prog := fun _ => [e]

/-- One body after another, the second reading what the first left. -/
def andThen (p q : Prog) : Prog := fun s =>
  let es := p s
  es ++ q (applyAll es s)

/-- Bodies in order. -/
def seqAll : List Prog → Prog
  | [] => skip
  | p :: rest => andThen p (seqAll rest)

/-- A body that depends on what the state holds. -/
def reading {α : Type} (f : State → α) (p : α → Prog) : Prog := fun s => p (f s) s

/-- A body made only when the state satisfies a test. -/
def whenever (c : State → Bool) (p : Prog) : Prog := fun s => if c s then p s else []

/-- A body made only under a plain condition. -/
def onlyIf (c : Bool) (p : Prog) : Prog := if c then p else skip

/-- One of two bodies. -/
def either (c : State → Bool) (p q : Prog) : Prog := fun s => if c s then p s else q s

/-- A body for each member of a list, in order. -/
def forEach {α : Type} (l : List α) (p : α → Prog) : Prog := seqAll (l.map p)

/-- A body for an optional value. -/
def forSome {α : Type} (o : Option α) (p : α → Prog) : Prog := match o with
  | some x => p x
  | none => skip

/-- Change the chip. -/
def upd (f : Chip → Chip) : Prog := fun s => [.chip (f s.chip)]

/-- A body with a name no message, request or operation has yet. -/
def withId (p : Nat → Prog) : Prog := fun s => .fresh :: p s.nextId (Eff.fresh.apply s)

/-- A body with the number of a free value that has not been drawn (assumption 4). -/
def withFree (p : Nat → Prog) : Prog := fun s => .free :: p s.free (Eff.free.apply s)

/-- The step that makes a body. -/
def act (p : Prog) (s : State) : Host.Outcome State Fault Refusal := .next (applyAll (p s) s)

/-- The step that makes a body where a test holds, and is a fault elsewhere. -/
def actWhen (c : Bool) (name : String) (p : Prog) (s : State) : Host.Outcome State Fault Refusal :=
  if c then act p s else .fault (.notEnabled name)

/-! ## Accessors -/

/-- An element that has done nothing. -/
def Elem.reset : Elem :=
  { ready := [], slots := [], entries := [], pipe := [], out := [], loops := [], pendSet := [], divBusy := 0,
    lastFire := none, dirty := [], sideDirty := [], parked := [], looks := [] }

/-- The state of an element. -/
def elemAt (s : State) (p : Pos) : Elem := getKey Elem.reset p s.chip.elems

/-- Change an element. -/
def updElem (p : Pos) (f : Elem → Elem) : Prog := upd fun c => { c with elems := modKey Elem.reset p f c.elems }

/-- A unit no region has held. -/
def UnitState.reset : UnitState := { slots := [], active := 0, region := none, powered := [] }

/-- An empty slot (R98). -/
def CfgSlot.reset : CfgSlot := { st := .empty, key := none, tables := [], written := false, used := 0 }

/-- A unit. -/
def unitAt (s : State) (p : Pos) : UnitState := getKey UnitState.reset (unitOf p) s.chip.units

/-- Change a unit. -/
def updUnit (p : Pos) (f : UnitState → UnitState) : Prog :=
  upd fun c => { c with units := modKey UnitState.reset (unitOf p) f c.units }

/-- Slot k of a unit. -/
def UnitState.slot (u : UnitState) (k : Nat) : CfgSlot := (u.slots[k]?).getD CfgSlot.reset

/-- A unit with slot k changed; a unit has 4 slots (R97). -/
def UnitState.setSlot (u : UnitState) (k : Nat) (f : CfgSlot → CfgSlot) : UnitState :=
  { u with slots := (List.range 4).map fun j => if j = k then f (u.slot j) else u.slot j }

/-- The tables of an element that no image gives code. -/
def ElemTables.reset (e : Nat) : ElemTables :=
  { elem := e, words := [], bodies := [], entries := [], routes := [], side := [], side0 := [], filled := [], live := [],
    vcs := [] }

/-- The tables of an element in a slot. -/
def CfgSlot.tablesOf (c : CfgSlot) (e : Nat) : ElemTables :=
  (c.tables.find? fun t => t.elem = e).getD (ElemTables.reset e)

/-- The tables an element fires from: those of its unit's active slot (R97). -/
def tablesAt (s : State) (p : Pos) : ElemTables :=
  let u := unitAt s p
  (u.slot u.active).tablesOf p.elem

/-- Change an element's tables in a slot of its unit. -/
def updTables (p : Pos) (k : Nat) (f : ElemTables → ElemTables) : Prog :=
  updUnit p fun u => u.setSlot k fun c =>
    { c with tables := f (c.tablesOf p.elem) :: c.tables.filter fun t => t.elem ≠ p.elem }

/-- A side-table entry as it stands; an entry that is not initialised holds 0 (R37). -/
def ElemTables.sideEntry (t : ElemTables) (k : Nat) : Wide := getKey 0 k t.side

/-- A word of an instruction table; entries beyond the image's are all zero (R36). -/
def ElemTables.word (t : ElemTables) (i : Nat) : Word32 := t.words.getD i 0

/-- A route entry; entries beyond the image's are all zero (R99). -/
def ElemTables.route (t : ElemTables) (d : Nat) : Word := t.routes.getD d 0

/-- A VC-table entry (R105). -/
def ElemTables.vc (t : ElemTables) (v : Nat) : Word32 := t.vcs.getD v 0

/-- Entry i is an instruction of a long form. -/
def ElemTables.isLong (t : ElemTables) (i : Nat) : Bool :=
  match formOf ((t.word i).extractLsb' 24 8).toNat with
  | some .short => false
  | none => false
  | some _ => true

/-- Whether entry i is the extension word of the instruction before it (R36), from entry 0 up. -/
def ElemTables.isExt (t : ElemTables) : Nat → Bool
  | 0 => false
  | i + 1 => t.isLong i && !(t.isExt i)

/-- Whether entry i holds an instruction: not an extension word and not all zero (R36). -/
def ElemTables.isInstr (t : ElemTables) (i : Nat) : Bool := !t.isExt i && t.word i != 0

/-- The instruction at entry i. -/
def ElemTables.instr (t : ElemTables) (i : Nat) : Option Instr :=
  if t.isInstr i then (decodeWords (t.word i) (t.word (i + 1))).toOption else none

/-- A Q element's engines at dispatch. -/
def Merge.reset : Merge :=
  { qa := [], qb := [], na := 0, nb := 0, doneA := false, doneB := false, bad := false, cnt := 0, lka := 0, lkb := 0,
    ta := 0, tb := 0, viol := none, lastRun := 0, since := 0 }

/-- An order violation has been found, and the rest of the run is discarded (R257). -/
def Merge.skip (g : Merge) : Bool := g.viol.isSome

/-- A Q element at dispatch. -/
def QState.reset : QState :=
  { engs := [], streams := [], merge := Merge.reset, launches := [], bound := [], scan := none }

/-- A matrix element at dispatch (R217). -/
def MatState.reset : MatState :=
  { stage := [], scales := [], rscales := [], rv := false, rnm := false, acc := [], work := [], ad := [], adWork := [],
    ctx := none, queue := [], run := none, abandon := false, commits := 0, abandons := 0, replays := 0, hits := 0,
    misses := 0 }

/-- An access processor at dispatch (R251). -/
def ApState.reset : ApState := { cam := [], dup := false, ovf := false, gather := none }

/-- A mill context that nothing uses. -/
def MillCtx.reset : MillCtx :=
  { bound := none, cursor := none, reqs := [], busy := false, coords := [], done := 0, chunk := 0, slot := 0,
    values := [], due := 0, failed := false }

def qAt (s : State) (p : Pos) : QState := getKey QState.reset p s.chip.qs
def updQ (p : Pos) (f : QState → QState) : Prog := upd fun c => { c with qs := modKey QState.reset p f c.qs }
def matAt (s : State) (p : Pos) : MatState := getKey MatState.reset p s.chip.mats
def updMat (p : Pos) (f : MatState → MatState) : Prog := upd fun c => { c with mats := modKey MatState.reset p f c.mats }
def apAt (s : State) (p : Pos) : ApState := getKey ApState.reset (unitOf p) s.chip.aps
def updAp (p : Pos) (f : ApState → ApState) : Prog :=
  upd fun c => { c with aps := modKey ApState.reset (unitOf p) f c.aps }
def millAt (s : State) (u : Pos) (k : Nat) : MillCtx := getKey MillCtx.reset k (getKey [] (cluOf u) s.chip.mills)
def updMill (u : Pos) (k : Nat) (f : MillCtx → MillCtx) : Prog :=
  upd fun c => { c with mills := modKey [] (cluOf u) (modKey MillCtx.reset k f) c.mills }

/-- A frame record (R65). -/
def frameAt (s : State) (f : Nat) : FrameRec := getKey FrameRec.reset f s.frames

/-- Update a frame record. -/
def updFrame (f : Nat) (u : FrameUpd) : Prog := eff (.frame f u)

/-- A region by its number. -/
def regionAt (s : State) (r : Nat) : Option Region := s.chip.regions.find? fun x => x.id = r

/-- Change a region. -/
def updRegion (r : Nat) (f : Region → Region) : Prog :=
  upd fun c => { c with regions := replaceIf (fun x => x.id = r) f c.regions }

/-- The region that holds a unit (R16). -/
def regionOf (s : State) (p : Pos) : Option Region := (unitAt s p).region.bind (regionAt s)

/-- The region of an element does not run: no instruction of it begins, and the sequencer begins nothing (R353, R361). -/
def halted (s : State) (p : Pos) : Bool :=
  match regionOf s p with
  | some r => r.phase != .running
  | none => false

/-- The region that has a frame reserved (R67). -/
def regionOfFrame (s : State) (f : Nat) : Option Region := s.chip.regions.find? fun x => x.reserved.contains f

/-- The elements of a region's units: 19 of a tile, one of an access processor (R4, R406). -/
def unitElems (r : Region) : List Pos :=
  r.units.flatMap fun u => (List.range (if u.unit < 32 then 19 else 1)).map fun e => { u with elem := e }

/-- The elements a region's images give code, by unit (R109). -/
def regionElems (s : State) (r : Region) : List Pos :=
  r.units.flatMap fun u => (unitAt s u).powered.map fun e => { u with elem := e }

/-- The ports of an element's region send on: while it runs, and while it halts for a save, so that firings that had begun complete
and a message whose injection has begun is finished (R145, R353). -/
def injects (s : State) (p : Pos) : Bool :=
  match regionOf s p with
  | some r => r.phase == .running || r.phase == .halting
  | none => true

/-- Register FPCTL as an element has it (R132). -/
def fpctlAt (s : State) (p : Pos) : Word :=
  match regionOf s p with
  | some r => getKey r.fpctl p r.fpStale
  | none => 0

/-- The FPCTL that a firing of this fc uses: a write takes effect at the end of the fc in which it reaches the element (R132). -/
def fpctlUsed (s : State) (p : Pos) : Word :=
  match regionOf s p with
  | some r => getKey (fpctlAt s p) p r.fpOld
  | none => 0

/-- Set flags of FPFLAGS: sticky (R131). -/
def raiseFlags (r : Nat) (f : BitVec 5) : Prog :=
  onlyIf (f != 0) (updRegion r fun x =>
    { x with fpflags := x.fpflags ||| f.zeroExtend 64, fpNew := x.fpNew ||| f.zeroExtend 64 })

/-- Set a bit of RFLAGS: sticky (R347). 0 CHKV, 1 ORDER, 2 FLEAK, 3 OPLEFT. -/
def setRflag (r : Nat) (bit : Nat) : Prog :=
  updRegion r fun x => { x with rflags := putBit x.rflags bit true, rfNew := putBit x.rfNew bit true }

/-- A function (R384, R401, R403, R408) at reset. -/
def Fn.reset (k : Nat) : Fn :=
  { id := k, fifo := [], plstat := 0, plDrop := 0, pcstat := 0, pcwork := none, attest := none, bar1 := [],
    sample := ⟨0, 0, 0, 0, 0⟩, event := ⟨0, 0, 0, 0, 0⟩, smpcfg := 16, smpStart := 0, evmask := 0x1F, csel := [],
    dsel := [] }

def fnAt (s : State) (k : Nat) : Fn := (s.chip.fns.find? fun x => x.id = k).getD (Fn.reset k)
def updFn (k : Nat) (f : Fn → Fn) : Prog :=
  upd fun c => { c with fns := f ((c.fns.find? fun x => x.id = k).getD (Fn.reset k)) :: c.fns.filter fun x => x.id ≠ k }

/-- A partition, when PSETUP has set it up (R382). -/
def partAt (s : State) (k : Nat) : Option Partition := s.chip.partitions.find? fun x => x.setup.part = k

/-- The partition that owns a cluster's group (R381). -/
def partOfCluster (s : State) (p : Pos) : Option Partition :=
  s.chip.partitions.find? fun x => x.setup.groups.contains (2 * p.die + p.clu / 10)

/-- A run that has not ended. -/
def runAt (s : State) (k : Nat) : Option Run := s.chip.runs.find? fun x => x.run = k
def updRun (k : Nat) (f : Run → Run) : Prog := upd fun c => { c with runs := replaceIf (fun x => x.run = k) f c.runs }
def graphAt (s : State) (k : Nat) : Option Graph := s.chip.graphs.find? fun x => x.id = k

/-- A region whose state stands in a context image (R355), and changes of what stands there. -/
def inImage (s : State) (r : Nat) : Bool := s.chip.saved.any fun v => v.region.id == r
def updSaved (r : Nat) (f : Saved → Saved) : Prog :=
  upd fun c => { c with saved := replaceIf (fun v => v.region.id = r) f c.saved }

/-- Change a Q element of a region, or what its image has of it. -/
def updHeldQ (r : Nat) (p : Pos) (f : QState → QState) : Prog := fun s =>
  if inImage s r then updSaved r (fun v => { v with qs := modKey QState.reset p f v.qs }) s else updQ p f s

/-- Change an element of a region, or what its image has of it. -/
def updHeldElem (r : Nat) (p : Pos) (f : Elem → Elem) : Prog := fun s =>
  if inImage s r then updSaved r (fun v => { v with elems := modKey Elem.reset p f v.elems }) s else updElem p f s

/-- A memory request. -/
def reqAt (s : State) (k : Nat) : Option MemReq := s.chip.reqs.find? fun x => x.id = k
def updReq (k : Nat) (f : MemReq → MemReq) : Prog := upd fun c => { c with reqs := replaceIf (fun x => x.id = k) f c.reqs }
def dropReq (k : Nat) : Prog := upd fun c => { c with reqs := c.reqs.filter fun x => x.id ≠ k }

/-- A request is outstanding until its last token has been delivered (R272): early as it may be, or its abort completion (R370). -/
def outstanding (q : MemReq) : Bool := if q.dead then q.parts.any fun p => p.st == .aborted else !(q.acked && q.left == 0)

/-- A message. -/
def msgAt (s : State) (k : Nat) : Option Msg := s.chip.net.find? fun x => x.id = k
def updMsg (k : Nat) (f : Msg → Msg) : Prog := upd fun c => { c with net := replaceIf (fun x => x.id = k) f c.net }
def dropMsg (k : Nat) : Prog := upd fun c => { c with net := c.net.filter fun x => x.id ≠ k }

/-- A ring slot of a tile. -/
def ringAt (s : State) (tile : Pos) (q : Nat) : Option Ring :=
  s.chip.rings.find? fun x => x.tile = unitOf tile ∧ x.q = q
def updRing (tile : Pos) (q : Nat) (f : Ring → Ring) : Prog :=
  upd fun c => { c with rings := replaceIf (fun x => x.tile = unitOf tile ∧ x.q = q) f c.rings }

/-- The global time in ns (R8, R343). -/
def timeNs (s : State) : Nat := s.t18 / 18

/-- The time a die's copy shows: at most 4 ns behind die 0's (R343, assumption 11). -/
def dieTime (s : State) (d : Nat) : Nat := timeNs s - (if d = 0 then 0 else Config.skew d % 5)

/-- Eighteenths of a ns in one fc (R8, R392, R397). -/
def fcLen (pw : Power) : Nat :=
  match pw.dps with
  | 0 => 12
  | 1 => 15
  | 2 => 20
  | _ => 24

/-! ## Counters (R406) -/

/-- The code a selector gives counter n of a cluster or of a die. -/
def selectorOf (f : Fn) (die : Bool) (n : Nat) : Byte := getKey 0 n (if die then f.dsel else f.csel)

/-- Add to every counter of a partition in one place whose selector names an event. -/
def countEvent (part : Nat) (p : Pos) (die : Bool) (code : Nat) (n : Nat) : Prog :=
  reading (fun s => (List.range (if die then 32 else 16)).filter fun k =>
      (selectorOf (fnAt s (part + 1)) die k).toNat = code) fun ks =>
    forEach ks fun k => upd fun c =>
      { c with counters := modKey 0 ⟨part, p.die, if die then none else some p.clu, k⟩ (· + nat64 n) c.counters }

/-- Count an event of a region in a place. -/
def countFor (r : Region) (p : Pos) (die : Bool) (code : Nat) : Prog := countEvent r.part p die code 1

/-- Flits on the UCIe links from one die to another: each sending die counts them (R26, R406); the request for
a block of HBM and its reply are one each (assumption 120). -/
def countLinks (part a b flits : Nat) : Prog := forEach (linkDies a b) fun d => countEvent part (dieUnit d) true 0x16 flits

/-! ## Messages -/

/-- Put a message on its network at its source's switch, to move from `delay` fc on. -/
def post (src dst : Pos) (net : Net) (hdr : BitVec 72) (pay : Wide) (body : Body) (delay : Nat)
    (chan : Option (Nat × Nat)) : Prog :=
  withId fun k => fun s =>
    [.chip { s.chip with net := s.chip.net ++
      [{ id := k, src := src, dst := dst, net := net, hdr := hdr, pay := pay, res := residues pay, body := body,
         col := (switchOf src).1, row := (switchOf src).2, due := s.fc + delay, look := .fresh, chan := chan }] }]

/-- A control message (KIND 4, R25). -/
def control (src dst : Pos) (body : Body) : Prog :=
  post src dst .control (withRid (headerOf (routeTo dst 0 0 0 false) 4 0 0)) 0 body 0 none

/-- The network of a token's KIND (R25). -/
def netOf (kind : Nat) : Net :=
  match kind with
  | 2 => .request
  | 3 => .reply
  | 4 => .control
  | _ => .data

/-- Send a token along one route word from a place (R99): KIND 1 for a side-table set, else the KIND asked for. -/
def sendRoute (src : Pos) (route : Word) (kind : Nat) (pay : Wide) (tag : Tag) (delay : Nat) : Prog :=
  let kd := if routeSide route = 3 ∧ kind = 0 then 1 else kind
  onlyIf (tag != noTag)
    (post src (routePos route) (netOf kd) (withRid (headerOf route kd 0 tag))
      (if routeWide route then pay else ofWord (lowWord pay)) .token delay none)

/-- A message stands at the switch of its destination and its way is over. -/
def arrived (s : State) (m : Msg) : Bool :=
  (m.col, m.row) == switchOf m.dst && m.due ≤ s.fc

/-- A message is ahead of another on one and the same way. -/
def ahead (x m : Msg) : Bool :=
  x.src == m.src && x.dst == m.dst && x.net == m.net && (x.hdr.extractLsb' 55 5 == m.hdr.extractLsb' 55 5) &&
    (m.net != .reply || x.chan == m.chan) && x.id < m.id

/-- No message that was sent earlier by the same source to the same destination on the same network and channel is still
on its way or waiting (R29). Replies of different requests return in any order (R273): on the reply network only the
tokens of one request keep it. -/
def inOrder (s : State) (m : Msg) : Bool := s.chip.net.all fun x => !ahead x m

/-- Whether a message has reached its place with a given kind of content. -/
def delivered (s : State) (k : Nat) (c : Body → Bool) : Bool :=
  match msgAt s k with
  | some m => c m.body && arrived s m && inOrder s m
  | none => false

/-- The order in which a unit takes the messages that have reached it: by fc of arrival, then by ascending source. -/
def arrivalKey (m : Msg) : Nat := m.due * (2 ^ 40) + posKey m.src * (2 ^ 18) + m.id % (2 ^ 18)

/-- No message of a class that is in a unit's queue comes before this one. -/
def firstAt (s : State) (m : Msg) (c : Body → Bool) : Bool :=
  s.chip.net.all fun x => !(x.dst == m.dst && c x.body && arrived s x && arrivalKey x < arrivalKey m)

/-! ## Requests of the part itself and from outside (R288, R290, R325, R371, R383, R389) -/

/-- Register CSRAMCFG of a cluster (R108). -/
def csramAt (s : State) (clu : Pos) : Word := getKey (place 4 16 ||| place 8 8 ||| place 4 0) (cluOf clu) s.chip.csram

/-- Bytes of a cluster's handle partition (R108). -/
def handlePartition (s : State) (clu : Pos) : Nat := field (csramAt s clu) 20 16 * 1048576

/-- Under reduced service an address is an offset into the handle partitions of clusters 0 to 3 of die 0 (R397): the SRAM
address and the cluster. -/
def reducedAddr (s : State) (va : Nat) : Option (Nat × Pos) :=
  let size := fun c => handlePartition s (cluster 0 c)
  let start := fun c => ((List.range c).map size).sum
  ((List.range 4).find? fun c => start c ≤ va ∧ va < start c + size c).map fun c => (c * sramBytes + (va - start c), cluster 0 c)

/-- Every part of every request, with the request. -/
def allParts (s : State) : List (MemReq × Nat × Part) :=
  s.chip.reqs.flatMap fun q => q.parts.zipIdx.map fun x => (q, x.2, x.1)

/-- The home a physical address names: a controller, or a window. -/
def homeOf (pa : Nat) : Nat := if localHbm pa then ctrlOf pa else 1024 + pa / 2 ^ 40

/-- The die whose hub a request passes; those of a page walk, of the host and of a peer pass none. -/
def hubDie (q : MemReq) : Option Nat :=
  match q.client with
  | .walker _ => none
  | .host _ _ => none
  | .peer _ => none
  | _ => some q.p.die

/-- The latest fc at which a part that has passed a die's hub reaches a home. -/
def lastDueTo (s : State) (die home : Nat) : Nat :=
  (allParts s).foldl (fun m x =>
    if hubDie x.1 = some die ∧ (x.2.2.st = .queued ∨ x.2.2.st = .outside) ∧ x.2.2.pa.map homeOf = some home then max m (x.2.2.due + 1)
    else m) 0

/-- A request that is on its way to its controllers at once: `base` is an address with the place in its block of offset 0, and each part
its lanes, its first physical address and its key. One that passes a die's hub arrives after every part that passed it before (R307). -/
def systemReq (p : Pos) (part : Nat) (op : ROp) (client : Client) (n : Nat) (b c : Wide) (base : Nat)
    (parts : List (List (Nat × Nat) × Nat × Option Nat)) (delay back : Nat) : Prog :=
  withId fun k => fun s =>
    let q : MemReq :=
      { id := k, p := p, r := 2 ^ 200, part := part, entry := 0, op := op, client := client, h := 0, n := n, parts := [],
        b := b, c := c, idx := 0, scope := .package, str := false, ack := false, acked := false, tag := 0, out := 0, t0 := [],
        t1 := [], rel := false, fwd := [], val := 0, flags := 0, out' := delay, back := back, doneAt := none, dead := false,
        level := 2, ent := ⟨0, nat64 base, 0, 0⟩, home := p }
    let mk := fun (x : List (Nat × Nat) × Nat × Option Nat) =>
      let at' : PartStage := if localHbm x.2.1 then .queued else .outside
      let due := s.fc + delay + (if localHbm x.2.1 then 12 * diesCrossed p.die (ctrlDie (ctrlOf x.2.1)) else 0)
      (⟨x.1, base + (x.1.headD (0, 0)).2, some x.2.1, at',
        if hubDie q = some p.die then max due (lastDueTo s p.die (homeOf x.2.1)) else due, k, 0, none, none, 0, x.2.2, false⟩ : Part)
    andThen (fun s => [.chip { s.chip with reqs := s.chip.reqs ++ [{ q with parts := parts.map mk }] }])
      (forEach parts fun x => onlyIf (localHbm x.2.1) (countLinks part p.die (ctrlDie (ctrlOf x.2.1)) 1)) s

/-- Bytes that the part writes at a physical address under a key, from a unit of its own, through the controllers like every access, a
request for each block (R282, R371, R402); the ways are those of a page walk's reads (assumption 101). -/
def writeOut (src : Pos) (part : Nat) (obs key : Option Nat) (pa : Nat) (v : List Byte) : Prog :=
  forEach (bytesParts pa v.length key) fun x =>
    systemReq src part .engWrite (.record obs) 1 (ofBytes ((v.drop (x.2.1 - pa)).take x.1.length)) 0 x.2.1
      (bytesParts x.2.1 x.1.length key) 138 138

/-! ## Observation rings (R401, R402) -/

/-- A ring of a function. -/
def ringOf (f : Fn) (k : ObsRing) : ObsState := match k with | .sample => f.sample | .event => f.event

/-- Change a ring of a function. -/
def updObs (fn : Nat) (k : ObsRing) (g : ObsState → ObsState) : Prog := updFn fn fun f =>
  match k with
  | .sample => { f with sample := g f.sample }
  | .event => { f with event := g f.event }

/-- How far the writing of a record is. -/
def markObs (k : Nat) (st : ObsStage) : Prog :=
  upd fun c => { c with obs := replaceIf (fun x => x.id = k) (fun x => { x with st := st }) c.obs }

/-! ## Reads of the graph engines (R319, R324, R329) -/

/-- The read of a graph engine for a purpose, and whether its last byte has come. -/
def fetchFor (s : State) (key : FetchKey) : Option Fetch := s.chip.fetches.find? fun x => x.key = key
def fetchOver (s : State) (key : FetchKey) : Bool := (fetchFor s key).any fun x => x.left == 0

/-- Change, and end, a read. -/
def updFetch (k : Nat) (f : Fetch → Fetch) : Prog := upd fun c => { c with fetches := replaceIf (fun x => x.id = k) f c.fetches }
def dropFetch (key : FetchKey) : Prog := upd fun c => { c with fetches := c.fetches.filter fun x => x.key ≠ key }

/-- Bytes of a range have come; or they cannot be had, and the whole range cannot. -/
def fetchGot (k i off : Nat) (v : List Byte) : Prog :=
  let put := fun (b : List Byte) => b.take off ++ v ++ b.drop (off + v.length)
  updFetch k fun x => { x with left := x.left - 1, data := x.data.mapIdx fun j d => if j = i then d.map put else d }
def fetchLost (k i : Nat) : Prog :=
  updFetch k fun x => { x with left := x.left - 1, data := x.data.mapIdx fun j d => if j = i then none else d }

/-- The i-th range of a read, and its words, lowest first (R7). -/
def Fetch.range (x : Fetch) (i : Nat) : Option (List Byte) := (x.data.getD i none)
def Fetch.word (x : Fetch) (i j : Nat) : Option Word :=
  (x.range i).bind fun b => if b.length < 8 * j + 8 then none else some (lowWord (ofBytes ((b.drop (8 * j)).take 8)))

/-- Bytes at an address that reduced service maps (R397). -/
def writeReduced (a : Nat) (v : List Byte) : Prog := fun s =>
  forEach v.zipIdx (fun x => forSome (reducedAddr s (a + x.2)) fun y => eff (.sram y.1 [x.1])) s

/-! ## Records, events, interrupts -/

def addRecord (r : Record) : Prog := upd fun c => { c with records := c.records ++ [r] }
def interrupt (i : Irq) : Prog := upd fun c => { c with irqs := c.irqs ++ [i] }

/-- Send an event record to the collector (R408). -/
def emitEvent (e : EventRec) : Prog := control e.src packageUnit (.event e)

/-- An event of a region's life: types 0x20 to 0x26 (R409). -/
def regionEvent (r : Region) (kind : Nat) (arg1 : Word) : Prog := fun s =>
  emitEvent { time := dieTime s r.home, kind := kind, part := r.part, src := dieUnit r.home, run := r.run,
              arg0 := place r.node 32 ||| nat64 r.index, arg1 := arg1 } s

/-- A hardware error record for a die's log (R371): dropped and counted when the ring is full or not set. Under reduced service its bytes
go into the memory there is (R397). -/
def logHardware (die : Nat) (kind part : Nat) (rv : Bool) (p : Pos) (loc : Word) (run : Nat) (tag : Tag) : Prog :=
  reading (fun s => ((s.chip.logs.find? fun l => l.die = die).getD ⟨die, 0, 0, 0, 0, 0⟩, timeNs s, s.chip.power.full)) fun x =>
    let l := x.1
    let put := fun (l' : LogRing) => upd fun c => { c with logs := l' :: c.logs.filter fun y => y.die ≠ die }
    let w0 := place kind 60 ||| place part 57 ||| placeBit rv 56 ||| place p.die 54 ||| place p.clu 49 |||
      place (p.unit % 64) 43 ||| place p.elem 38
    let ws := [w0, loc, place run 32 ||| tag.zeroExtend 64, nat64 x.2.1]
    let bytes := ws.flatMap fun w => bytesOf (ofWord w) 8
    let place := l.base + 32 * l.written
    andThen
      (if l.written < l.len then
        seqAll [
          put { l with written := l.written + 1 },
          (if x.2.2 then writeOut (dieUnit die) 8 none none place bytes else writeReduced place bytes),
          addRecord (.hardware die w0 loc (ws.getD 2 0) (nat64 x.2.1))]
      else put { l with drops := l.drops + 1 })
      (interrupt (.hardware die))

/-! ## Raising a region error (R10, R361) -/

/-- region_error(code): the error travels to the home control point of the region (R361). -/
def raiseAt (r : Region) (src : Pos) (code : Nat) (entry : Nat) (tag : Tag) (value : Word) : Prog :=
  control src (controlPoint r.homeClu) (.error r.id ⟨code, src, entry, tag, value⟩)

/-- region_error(code) by an element of a region; an element of no region raises none. -/
def raiseError (src : Pos) (code : Nat) (entry : Nat) (tag : Tag) (value : Word) : Prog :=
  reading (regionOf · src) fun r => forSome r fun r => raiseAt r src code entry tag value

/-- The region error codes (R360). -/
def codeEprot : Nat := 0x20
def codeEctrl : Nat := 0x22
def codeEtrap : Nat := 0x23
def codeEpatinv : Nat := 0x24
def codeEmeta : Nat := 0x25
def codeEdeadlock : Nat := 0x27
def codeEtimeout : Nat := 0x28
def codeEue : Nat := 0x29
def codeEsdc : Nat := 0x2A
def codeEhandle : Nat := 0x2B
def codeEpatdef : Nat := 0x2C
def codeEadj : Nat := 0x2D
def codeEsys : Nat := 0x2E
def codeEkill : Nat := 0x2F

/-! ## Parking (R73) -/

/-- A frame's parking as its table has it. -/
def parkView (f : FrameRec) : ParkView := { yld := f.yld, pfc := f.pfc != 0, bwc := f.bwc != 0 }

/-- A view that parks. -/
def ParkView.parks (v : ParkView) : Bool := v.yld || v.pfc || v.bwc

/-- Change a frame's parking and carry the change to every element of its region (R73). -/
def parkFrame (f : Nat) (u : FrameUpd) : Prog :=
  andThen (updFrame f u)
    (reading (fun s => (regionOfFrame s f, parkView (frameAt s f), s)) fun x =>
      forSome x.1 fun r => forEach (regionElems x.2.2 r) fun p =>
        control ⟨frameDie f, frameClu f, 36, 0⟩ p (.park f x.2.1))

/-- Whether an element takes a frame to be parked. -/
def parkedAt (e : Elem) (f : Nat) : Bool := (getKey ⟨false, false, false⟩ f e.parked).parks

/-! ## Taking a region error (R361, R362) -/

/-- The region a message's content names, when it names one. -/
def Body.region (b : Body) : Option Nat :=
  match b with
  | .fpctl r _ => some r
  | .switch r _ _ _ _ _ _ => some r
  | .sysreg r _ _ _ _ => some r
  | .barrier r _ _ _ _ _ => some r
  | .wake r _ _ _ => some r
  | .handle r _ _ => some r
  | _ => none

/-- What of a region's traffic ends with the region: all but reports, requests and their ends, events and what the graph engines tell
one another. -/
def Body.isTraffic (b : Body) : Bool :=
  match b with
  | .request _ => false
  | .done _ => false
  | .error _ _ => false
  | .abort _ _ => false
  | .decrement _ _ => false
  | .shareEnd _ _ _ _ => false
  | .event _ => false
  | _ => true

/-- The frame operation is one of a region's: of its frames, or asked by its units. -/
def FrameReq.ofRegion (r : Region) (q : FrameReq) : Bool :=
  match q with
  | .release f _ => r.reserved.contains f
  | .next f _ _ _ => r.reserved.contains f
  | .parent f _ _ => r.reserved.contains f
  | .loop f _ _ _ _ _ => r.reserved.contains f
  | .alloc k _ _ _ _ _ _ => k == r.id
  | .free f _ _ _ _ => r.reserved.contains f

/-- The unit of a place belongs to a region. -/
def Region.holds (r : Region) (p : Pos) : Bool := r.units.contains (unitOf p)

/-- A message is of a region's traffic. -/
def Region.sends (r : Region) (m : Msg) : Bool :=
  m.body.isTraffic && (r.holds m.src || r.holds m.dst || m.body.region == some r.id ||
    (match m.body with
      | .frame q => q.ofRegion r
      | _ => false))

/-- A Q element of a stopped region: its streams and bound completion slots stay, and the launches it has issued go on (R361, R374). -/
def QState.stop (q : QState) : QState :=
  { QState.reset with launches := q.launches, streams := q.streams.map fun x => { x with open' := false, replay := true }, bound := q.bound }

/-- A matrix element of a stopped region: a running instruction goes on to the point where it is abandoned, or to its end (R225); the rest
of the queue is dropped. -/
def MatState.stop (m : MatState) : Option MatState :=
  m.run.map fun r => { m with queue := m.queue.take 1, abandon := true, run := some { r with failed := true } }

/-- The mill contexts of a cluster with those a region holds at reset. -/
def stopMills (r : Region) (x : Pos × List (Nat × MillCtx)) : Pos × List (Nat × MillCtx) :=
  (x.1, x.2.filter fun y => !(r.mills.any fun m => cluOf m.1 == x.1 && m.2 == y.1))

/-- Every element of a region stops firing; tokens in buffers and links are discarded; requests already issued go on and
their replies are discarded (R278, R361, R374). A reply that has come is discarded at once. An adjunct fill of the region stays: it has
lost its requests, so that a row of another region that waits for its line asks again (R230). -/
def stopTraffic (k : Nat) : Prog :=
  reading (regionAt · k) fun x => forSome x fun r => seqAll [
    upd (fun c => { c with
      elems := c.elems.filter fun x => !r.holds x.1,
      net := c.net.filter fun m => !r.sends m,
      pushes := c.pushes.filter fun x => !(r.holds x.src || r.holds x.tile),
      walks := c.walks.filter fun x => !r.holds x.p,
      fwaits := c.fwaits.filter fun x => !x.q.ofRegion r,
      purges := c.purges.filter fun x => x.r != k,
      reqs := (c.reqs.filter fun q => !(q.r == k && (q.doneAt.isSome || q.parts.all fun p => p.st == .performed))).map fun q => if q.r = k then { q with dead := true } else q,
      qs := c.qs.map fun x => if r.holds x.1 then (x.1, x.2.stop) else x,
      mats := c.mats.filterMap fun x => if r.holds x.1 then x.2.stop.map fun m => (x.1, m) else some x,
      aps := c.aps.filter fun x => !r.holds x.1,
      mills := c.mills.map (stopMills r),
      kiln := if r.kiln then { c.kiln with busy := false, tile := none } else c.kiln }),
    updRegion k fun x => { x with stale := [], hwait := [], fpStale := [], fpOld := [], fpWrites := [], switch := none, switchWait := [] }]

/-- The error word of a report: W0 and W1 of the error record (R362). -/
def errorW0 (e : ErrorReport) (more : Nat) : Word :=
  place e.code 56 ||| place more 48 ||| place e.src.die 46 ||| place e.src.clu 41 ||| place (e.src.unit % 64) 35 |||
    place e.src.elem 30 ||| place e.entry 22
def errorW1 (e : ErrorReport) (run : Nat) : Word := place run 32 ||| e.tag.zeroExtend 64

/-- A save in progress ends and its image is discarded: what a stopped region still needs comes back (R361, R373). -/
def discardSave (k : Nat) : Prog :=
  reading (fun s => s.chip.saved.find? fun x => x.region.id = k) fun x => forSome x fun v => seqAll [
    eff (.dropSaved v.id),
    upd fun c => { c with
      saved := c.saved.filter fun y => y.id ≠ v.id,
      reqs := c.reqs ++ v.reqs,
      rings := c.rings ++ v.rings,
      qs := c.qs ++ v.qs }]

/-- Taking a region error (R361): the first to be taken is the region's error and stops it; a later one is counted. -/
def takeRegionError (k : Nat) (e : ErrorReport) : Prog :=
  reading (fun s => (regionAt s k, timeNs s)) fun x => forSome x.1 fun r =>
    if r.error.isSome then updRegion k fun y => { y with more := min 255 (y.more + 1) }
    else seqAll [
      discardSave k,
      stopTraffic k,
      updRegion k fun y => { y with error := some e, errTime := x.2, phase := .stopping, yr := false, rem := 0, yrFor := none }]

/-! ## Rolling back (R374), the return to the replay point -/

/-- A rollback begins, or begins again: the region stops, and its reset and reinstall follow when its requests have been
performed (R374); `till` is when the reinstall ends. Launches already issued go on, as requests do. -/
def beginRollback (k till : Nat) : Prog :=
  seqAll [
    discardSave k,
    stopTraffic k,
    updRegion k fun y => { y with phase := .loading 0 till, rollbacks := y.rollbacks + 1 }]

end Sys2Proof.Machine
end

