-- ==== Sys2Proof/Machine/Operands.lean ====
section
/-! DEFINITION. Every operand form: the value each source select gives a side (spec/02 R37, spec/07 R168), the decoding of
a token by its channel and the encoding of a result (spec/04 R105, R106, spec/05 R125 to R127), the tokens a
destination select sends (spec/02 R39, spec/04 R99). -/

namespace Sys2Proof.Machine

open Sys2Proof

/-! ## VC-table entries (R105) -/

structure Vc where
  fmt : Option Fmt
  scl : Nat
  sen : Bool
  sat : Bool
  daz : Bool
  rm : Mode
  lg : Nat
  deriving DecidableEq, Repr

/-- The fields of a VC-table entry (R105). -/
def vcOf (w : Word32) : Vc :=
  { fmt := decodeFmt? (w.extractLsb' 28 4), scl := (w.extractLsb' 24 4).toNat, sen := w.getLsbD 23,
    sat := w.getLsbD 22, daz := w.getLsbD 21, rm := modeOf (w.extractLsb' 19 2).toNat,
    lg := (w.extractLsb' 16 3).toNat }

/-- Formats whose wide tokens fill the sixteen lanes as they stand (R106, R168). -/
def fullLane (f : Fmt) : Bool := f == .fp32 || f == .i32 || f == .raw

/-- The bits of value i of lane group lg in a wide payload (R106). -/
def packedField (f : Fmt) (lg i : Nat) (w : Wide) : Word :=
  let b := min (fmtBits f) 32
  let k := if fullLane f then i else 16 * lg + i
  (w.extractLsb' (k * b) 64) &&& nat64 (2 ^ b - 1)

/-! ## Decoding (R106, R125) -/

/-- One value decoded without the DAZ of the channel: an FP32 encoding or an integer. -/
def decodeValue (v : Vc) (f : Fmt) (scale : BitVec 32) (w : Word) : Word :=
  if f = .raw then w
  else if v.sen then (timesScale (fmtValue f w) scale).zeroExtend 64
  else if isIntFmt f then intOfFmt f w
  else (floatOfFmt f w).zeroExtend 64

/-- A narrow token decoded (R106, R125). -/
def decodeNarrow (vw : Word32) (scale : BitVec 32) (w : Word) : Word :=
  let v := vcOf vw
  match v.fmt with
  | none => w
  | some f =>
    if f = .raw then w
    else if f = .fp32 ∧ !v.sen then
      (if v.daz then (w.extractLsb' 32 32) ++ flushSub (w.extractLsb' 0 32) else w)
    else
      let x := decodeValue v f scale w
      if v.daz ∧ !isIntFmt f then (flushSub (x.extractLsb' 0 32)).zeroExtend 64 else x

/-- A wide token decoded lane by lane (R106, R125, R168); `scales` gives the scale of each lane. -/
def decodeWide (vw : Word32) (scales : Nat → BitVec 32) (w : Wide) : Wide :=
  let v := vcOf vw
  match v.fmt with
  | none => w
  | some f =>
    if f = .raw then w
    else ofLanes ((List.range 16).map fun i =>
      let x := (decodeValue v f (scales i) (packedField f v.lg i w)).extractLsb' 0 32
      if v.daz ∧ !isIntFmt f then flushSub x else x)

/-- The payload of a token as its element decodes it (R104, R106): by the receiver's VC entry and the scale entry as it
stands. On V a lane has the scale's lane; elsewhere the scale is bits [31:0]. -/
def decodeToken (t : ElemTables) (cls : ElemClass) (vc : Nat) (wide : Bool) (pay : Wide) : Wide :=
  let vw := t.vc vc
  let sc := t.sideEntry (vcOf vw).scl
  if wide then decodeWide vw (fun i => if cls = .v then lane sc i else lane sc 0) pay
  else ofWord (decodeNarrow vw (lane sc 0) (lowWord pay))

/-! ## Encoding (R106, R126, R127) -/

/-- One value encoded: `int` gives the integer a format with SEN 0 takes, `bits` the FP32 value. -/
def encodeValue (v : Vc) (f : Fmt) (scale : BitVec 32) (int : Int) (bits : BitVec 32) : Word × Flags :=
  if v.sen then encodeNum f v.rm v.sat (exactTimes bits scale)
  else if isIntFmt f then encodeNum f v.rm v.sat (.fin (int < 0) int.natAbs 1)
  else encodeNum f v.rm v.sat (fp32Value bits)

/-- A narrow value encoded (R126). A pair made by FPACK on an integer format with SEN 0 is taken whole, as R126 takes a 64-bit integer,
though R165 says that any such format converts only bits [31:0] (DESIGN CHOICE, assumption 113). -/
def encodeNarrow (vw : Word32) (scale : BitVec 32) (w : Word) : Word × Flags :=
  let v := vcOf vw
  match v.fmt with
  | none => (w, 0)
  | some f =>
    if f = .raw ∨ (f = .fp32 ∧ !v.sen) then (w, 0)
    else encodeValue v f scale w.toInt (w.extractLsb' 0 32)

/-- A wide value encoded: sixteen encoded lanes in group LG, the rest of the payload zero (R106, R126). -/
def encodeWide (vw : Word32) (scales : Nat → BitVec 32) (w : Wide) : Wide × Flags :=
  let v := vcOf vw
  match v.fmt with
  | none => (w, 0)
  | some f =>
    if f = .raw ∨ (f = .fp32 ∧ !v.sen) then (w, 0)
    else
      let b := fmtBits f
      let lg := if fullLane f then 0 else v.lg
      (List.range 16).foldr (fun i acc =>
        let x := encodeValue v f (scales i) (lane w i).toInt (lane w i)
        (acc.1 ||| (x.1.zeroExtend 512 <<< ((16 * lg + i) * b)), acc.2 ||| x.2)) (0, 0)

/-- A value as its sender encodes it on a channel (R106, R126). -/
def encodeToken (t : ElemTables) (cls : ElemClass) (vc : Nat) (wide : Bool) (val : Wide) : Wide × Flags :=
  let vw := t.vc vc
  let sc := t.sideEntry (vcOf vw).scl
  if wide then encodeWide vw (fun i => if cls = .v then lane sc i else lane sc 0) val
  else
    let r := encodeNarrow vw (lane sc 0) (lowWord val)
    (ofWord r.1, r.2)

/-! ## Sources (R37, R168) -/

/-- The value a source select gives a side at firing: the matched token's payload, 0, the tag, or a side-table entry as
it stands at that moment. -/
def sourceValue (s : State) (f : Firing) (src : Src) (tok : Wide) : Wide :=
  match src with
  | .t => tok
  | .n => 0
  | .g => if classOf f.pos = some .v then ofLanes (List.replicate 16 (f.tag.zeroExtend 32))
      else ofWord (f.tag.zeroExtend 64)
  | .c k =>
    let e := (tablesAt s f.pos).sideEntry k.val
    if classOf f.pos = some .v then e else ofWord (lowWord e)

/-- Side A of a firing. -/
def sideA (s : State) (f : Firing) (src : Src) : Wide := sourceValue s f src f.a
/-- Side B of a firing. -/
def sideB (s : State) (f : Firing) (src : Src) : Wide := sourceValue s f src f.b
/-- Side C of a firing. -/
def sideC (s : State) (f : Firing) (src : Src) : Wide := sourceValue s f src f.c

/-! ## Destinations (R39, R99) -/

/-- The route words a destination select sends on: its entry and those its chain bits add (R10, R99). -/
def chainFrom (t : ElemTables) : Nat → Nat → List Word
  | 0, _ => []
  | fuel + 1, d =>
    let w := t.route d
    if routeUsed w then w :: (if routeChain w then chainFrom t fuel (d + 1) else []) else []

/-- The route words of a destination select; 31 sends on none. -/
def routesOf (t : ElemTables) (d : Option Nat) : List Word :=
  match d with
  | some k => chainFrom t 31 k
  | none => []

/-- A destination select as a route number. -/
def dstNat (d : Dst) : Option Nat := d.map (·.val)

/-- The value sent on a destination, when it has one. -/
def outOf (d : Option Nat) (val : Wide) (wide raw : Bool) : List Out :=
  match d with
  | some k => [⟨k, val, wide, raw, false, none⟩]
  | none => []

/-- D0 then D1 with one value (R39, R142). -/
def bothOuts (d0 d1 : Dst) (val : Wide) (wide : Bool) : List Out :=
  outOf (dstNat d0) val wide false ++ outOf (dstNat d1) val wide false

end Sys2Proof.Machine
end

