-- ==== Sys2Proof/Machine/Place.lean ====
section
/-! DEFINITION. How the places an image names relative to its region become physical places (spec/01 R13 to R18, spec/04
R100), and what a region's image says of a place. -/

namespace Sys2Proof.Machine

open Sys2Proof

/-- The tile at a column and row of a die's grid (R3). -/
def tileAt (die c r : Nat) : Pos := ⟨die, (r / 4) * 4 + c / 8, (r % 4) * 8 + c % 8, 0⟩

/-- Region tile n of a rectangle on a die (R15). -/
def rectTile (die : Nat) (q : Rect) (n : Nat) : Pos := tileAt die (q.x + n % q.w) (q.y + n / q.w)

/-- The tiles of a rectangle in the order of R15. -/
def rectTiles (die : Nat) (q : Rect) : List Pos := (List.range (q.w * q.h)).map (rectTile die q)

/-- The clusters that the tiles of a rectangle lie in, ascending. -/
def rectClusters (die : Nat) (q : Rect) : List Nat :=
  (List.range 20).filter fun c => (rectTiles die q).any fun p => p.clu = c && p.die = die

/-- The die of a slot (R14). -/
def slotDie (home slot : Nat) : Nat :=
  match slot with
  | 0 => home
  | 1 => if home % 2 = 0 then home + 1 else home - 1
  | 2 => (home + 2) % 4
  | _ => 3 - home

/-- The physical place of an image location, when the rectangles hold it (R17, R100). -/
def locPos (rects : List (Nat × Rect)) (l : Loc) : Option Pos :=
  match rects[l.slot]? with
  | none => none
  | some (die, q) =>
    if l.tile < q.w * q.h then
      let p := rectTile die q l.tile
      some (if l.apr then ⟨p.die, p.clu, 32 + l.apn, l.elem⟩ else { p with elem := l.elem })
    else none

/-- The configuration of an image. -/
def configOf (im : Image) (c : Nat) : Option ConfigImage := im.configs[c]?

/-- The code an image's configuration gives an element of a region. -/
def codeAt (rects : List (Nat × Rect)) (cf : ConfigImage) (p : Pos) : Option ElemCode :=
  cf.elems.find? fun e => locPos rects e.loc = some p

/-- The tables an image gives an element, before routes are rewritten. -/
def codeTables (e : ElemCode) : ElemTables :=
  { elem := e.loc.elem, words := e.words, bodies := e.bodies, entries := e.entries, routes := e.routes, side := e.side,
    side0 := e.side, filled := e.filled, live := e.live, vcs := e.vcs }

/-- The rate declared for the channel that leaves an element on route entry j (R112): its declaration names a destination
of an instruction of the image whose chain holds the entry, whatever WSET has since made of that instruction. -/
def rateAt (s : State) (p : Pos) (j : Nat) : Option RateDecl :=
  match regionOf s p with
  | none => none
  | some r =>
    (configOf r.image r.acfg).bind fun cf => (codeAt r.rects cf p).bind fun e =>
      let t := codeTables e
      cf.rates.find? fun x =>
        locPos r.rects x.loc = some p &&
        (match (t.instr x.entry).bind Instr.view with
          | none => false
          | some v =>
            match dstNat (if x.d = 0 then v.d0 else v.d1) with
            | none => false
            | some k => k ≤ j && (List.range (j - k)).all fun i => routeChain (t.route (k + i)))

end Sys2Proof.Machine
end

