-- ==== Sys2Proof/Machine/Element.lean ====
section
/-! DEFINITION. The elements (spec/01 R29 to R31, spec/03 R70, R74 to R79, spec/04 R102 to R106, spec/06 R143, R144): accepting
tokens, matching and the cellar, firings that become ready, beginning a firing, and its completion. -/

namespace Sys2Proof.Machine

open Sys2Proof

/-! ## An element's code -/

/-- The fields of the instruction at an entry of an element's table. -/
def entryView (s : State) (p : Pos) (i : Nat) : Option View := ((tablesAt s p).instr i).bind Instr.view

/-- Whether side C of an instruction selects T. -/
def tSideC (v : View) : Bool :=
  v.sc == some .t || (match v.ext with | .xv c => c == .t | _ => false)

/-- The sides that wait for a token, 0 A, 1 B, 2 C (R38). -/
def tSides (v : View) : List Nat :=
  (if v.sa = .t then [0] else []) ++ (if !oneSided v.op && v.sb == .t then [1] else []) ++
    (if tSideC v then [2] else [])

/-- The opcodes that fire by a rule of their own (R30). -/
def opMerge : Nat := 0x03
def opJoin : Nat := 0x04
def opMrg : Nat := 0xAA

/-! ## Matching-store entries (R74, R75, R203, R218, R298) -/

/-- A key: an entry that no store holds yet. On S and A a key names one side and eight iteration tags, on V, M and Q an
iteration tag; a wide operand of an A or Q element has a wide slot of its own. -/
def keyOf (c : ElemClass) (wide : Bool) (instr side : Nat) (tag : Tag) : StoreEntry :=
  let w := wide && (c == .a || c == .q)
  let bySide := c == .s || c == .a || w || side == 3
  let byEight := (c == .s || c == .a) && !w
  { id := 0, fid := frameOf tag, instr := instr, side := if bySide then side else 0,
    it := if byEight then iterOf tag / 8 else iterOf tag, wide := w, st := .resident, used := 0, way := 0, owner := 0 }

/-- Two entries have one key. -/
def sameKey (x y : StoreEntry) : Bool :=
  x.fid == y.fid && x.instr == y.instr && x.side == y.side && x.it == y.it && x.wide == y.wide

/-- The 17 bits that R75 mixes. -/
def keyMix (x : StoreEntry) : Nat := ((x.fid ^^^ (x.instr <<< 4)) ^^^ (x.side <<< 12)) ^^^ (x.it <<< 14)

/-- The set of a key (R75); V, M and Q stores and the wide slots are one set each. -/
def setOf (c : ElemClass) (x : StoreEntry) : Nat :=
  let k := keyMix x
  match c with
  | .s => if x.wide then 0 else ((((k % 16) ^^^ (k / 16 % 16)) ^^^ (k / 256 % 16)) ^^^ (k / 4096 % 16)) ^^^ (k / 65536 % 2)
  | .a => if x.wide then 0 else (((k % 32) ^^^ (k / 32 % 32)) ^^^ (k / 1024 % 32)) ^^^ (k / 32768 % 4)
  | _ => 0

/-- Two entries stand in one set. -/
def sameSet (c : ElemClass) (x y : StoreEntry) : Bool := x.wide == y.wide && setOf c x == setOf c y

/-- Ways of a set (R74, R203, R218, R298). -/
def waysOf (c : ElemClass) (wide : Bool) : Nat :=
  if wide then 8 else match c with
    | .s => 4
    | .a => 4
    | .v => 32
    | .m => 16
    | .q => 16

/-- Cellar slots of 16 bytes that a record takes (R77, R81, R203, R218, R298). -/
def recordSlots (c : ElemClass) (wide : Bool) : Nat := if wide || c == .v then 16 else 8

/-- The dirty bank of an entry (R74, R203, R298): of its set on S and A; a V bank is 4 entries, an M or Q bank 2, and a wide slot
is a bank; the entry's place in its set is its way (assumption 81). -/
def bankOf (c : ElemClass) (x : StoreEntry) : Nat :=
  if x.wide then 8 + x.way % 8
  else match c with
    | .s => setOf c x / 2
    | .a => setOf c x / 4
    | .v => x.way / 4
    | .m => x.way / 2
    | .q => x.way / 2

/-- Whether an entry takes a way: it is in the store or held by a transfer (R77). -/
def holdsWay (x : StoreEntry) : Bool := x.st != .cellar

/-- Entries of a key's set that take a way. -/
def waysTaken (c : ElemClass) (e : Elem) (k : StoreEntry) : Nat := e.entries.countP fun x => sameSet c x k && holdsWay x

/-- The lowest way of a key's set that no entry holds (assumption 81). -/
def freeWay (c : ElemClass) (e : Elem) (k : StoreEntry) : Nat :=
  ((List.range (waysOf c k.wide)).find? fun w => !(e.entries.any fun x => sameSet c x k && holdsWay x && x.way == w)).getD 0

/-- The banks of entries become dirty (R74). -/
def markBanks (c : ElemClass) (l : List StoreEntry) (e : Elem) : Elem :=
  { e with dirty := l.foldl (fun d x => insertNew (bankOf c x) d) e.dirty }

/-- A key's set has entries in the cellar (R77). -/
def cellarInUse (c : ElemClass) (e : Elem) (k : StoreEntry) : Bool :=
  e.entries.any fun x => sameSet c x k && x.st == .cellar

/-- Whether an entry's record lies in the cellar. -/
def inCellar (x : StoreEntry) : Bool :=
  match x.st with
  | .resident => false
  | _ => true

/-- Cellar slots that a region's entries take in a cluster (R78, R81). -/
def cellarUse (s : State) (r : Region) (clu : Pos) : Nat :=
  ((regionElems s r).filter fun p => cluOf p == clu).foldl (fun n p =>
    (((elemAt s p).entries.filter inCellar).foldl (fun k x =>
      k + recordSlots ((classOf p).getD .s) x.wide) n)) 0

/-- A spill of an element's entry stays within its region's grant (R82); `back` is what a fill that needs the way will take out of
the cellar, so that an entry of a full grant can be exchanged for one of a full set. -/
def grantAllows (s : State) (p : Pos) (c : ElemClass) (wide : Bool) (back : Nat) : Bool :=
  match regionOf s p with
  | none => false
  | some r => cellarUse s r (cluOf p) + recordSlots c wide ≤ getKey 0 (cluOf p) r.grant + back

/-- What must come about before a token or a held result can use its entries (R77). -/
inductive Need | go | look | fill (id : Nat) | spill (id : Nat) | wait
  deriving DecidableEq, Repr

/-- A way of a key's set for one that needs it: free, to be freed by spilling the least recently used entry, or not to be had
yet: the spill it has caused goes on, or every way is held by a transfer (R77). -/
def wayNeed (s : State) (p : Pos) (c : ElemClass) (k : StoreEntry) (who back : Nat) (ready : Need) : Need :=
  let e := elemAt s p
  if waysTaken c e k < waysOf c k.wide then ready
  else if e.entries.any fun x => sameSet c x k && (match x.st with | .spilling _ w => w == who | _ => false) then .wait
  else match leastBy (fun x => x.used) (e.entries.filter fun x => sameSet c x k && x.st == .resident) with
    | some x => if grantAllows s p c x.wide back then .spill x.id else .wait
    | none => .wait

/-- What one key needs for a token, result or record `who`: `looked` when a lookup has found nothing, `make` when an entry must be
made for it. -/
def keyNeed (s : State) (p : Pos) (c : ElemClass) (k : StoreEntry) (who : Nat) (looked make : Bool) : Need :=
  let e := elemAt s p
  match e.entries.find? (sameKey k) with
  | some x =>
    match x.st with
    | .resident => .go
    | .spilling _ _ => .wait
    | .filling _ => .wait
    | .cellar => wayNeed s p c k who (recordSlots c k.wide) (.fill x.id)
  | none => if cellarInUse c e k && !looked then .look else if make then wayNeed s p c k who 0 .go else .go

/-- What several keys need together: a lookup first, else a transfer to begin, else to wait, else nothing. -/
def allNeed (l : List Need) : Need :=
  if l.contains .look then .look
  else match l.find? fun n => n != .go && n != .wait with
    | some n => n
    | none => if l.contains .wait then .wait else .go

/-- Begin a spill that a token, result or record has caused (R77). -/
def beginSpill (p : Pos) (k who : Nat) : Prog := fun s =>
  updElem p (fun e =>
    let l := replaceIf (fun x => x.id = k) (fun x => { x with st := .spilling (s.fc + 24) who }) e.entries
    { e with entries := l }) s

/-- Begin a fill (R77). -/
def beginFill (p : Pos) (k : Nat) : Prog := fun s =>
  updElem p (fun e =>
    let c := (classOf p).getD .s
    let l := replaceIf (fun x => x.id = k) (fun x => { x with st := .filling (s.fc + 24), way := freeWay c e x }) e.entries
    { e with entries := l }) s

/-- What a held result's or a LOOPN record's lookup of a key has come to (R77, R79). -/
def lookOf (e : Elem) (k : StoreEntry) : Look := ((e.looks.find? fun x => sameKey x.key k).map (·.look)).getD .fresh

/-- What the entry of a held result or LOOPN record needs: as a token's, with the lookup that its key has had. -/
def resultNeed (s : State) (p : Pos) (k : StoreEntry) (who : Nat) (make : Bool) : Need :=
  match lookOf (elemAt s p) k with
  | .looking _ => .wait
  | look => keyNeed s p ((classOf p).getD .s) k who (look == .absent) make

/-- Begin a lookup for a held result or a LOOPN record (R77, R79). -/
def beginLook (p : Pos) (k : StoreEntry) : Prog :=
  withId fun n => fun s => updElem p (fun e => { e with
    looks := ⟨n, k, .looking (s.fc + 24)⟩ :: e.looks.filter fun x => !sameKey x.key k }) s

/-- A key needs no lookup any more: its entry was in neither the store nor the cellar when the spill began that makes room for it
(R77). -/
def lookedUp (p : Pos) (k : StoreEntry) : Prog :=
  withId fun n => updElem p fun e => { e with looks := ⟨n, k, .absent⟩ :: e.looks.filter fun x => !sameKey x.key k }

/-- An entry for a key, made when the store has none, and its bank marked dirty (R74, R77); of entries last used in one fc the one used
first is the least recently used (assumption 98). -/
def touchEntry (p : Pos) (c : ElemClass) (k : StoreEntry) : Prog :=
  withId fun n => fun s =>
    let x := ((elemAt s p).entries.find? (sameKey k)).getD { k with id := n, way := freeWay c (elemAt s p) k }
    updElem p (fun e => { e with
      entries := e.entries.filter (fun y => y.id ≠ x.id) ++ [{ x with used := s.fc }],
      dirty := insertNew (bankOf c x) e.dirty,
      looks := e.looks.filter fun y => !sameKey y.key k }) s

/-- The entries that hold a key. -/
def entriesOf (e : Elem) (k : StoreEntry) : List StoreEntry := e.entries.filter (sameKey k)

/-- Entries have been written in an fc: their banks are dirty and they are the latest used (R74). -/
def useEntries (c : ElemClass) (l : List StoreEntry) (now : Nat) (e : Elem) : Elem :=
  { markBanks c l e with
    entries := e.entries.filter (fun x => !(l.any fun y => y.id == x.id)) ++
      (e.entries.filter fun x => l.any fun y => y.id == x.id).map fun x => { x with used := now } }

/-- Drop the entries whose slots, held results and LOOPN records are all gone. -/
def dropEmpty (c : ElemClass) (e : Elem) : Elem :=
  { e with entries := e.entries.filter fun x =>
      e.slots.any (fun y => sameKey (keyOf c y.wide y.instr y.side y.tag) x) ||
      e.pipe.any (fun o => (o.wait == .held || o.wait == .yielded || o.wait == .barrier) && sameKey (keyOf c false o.entry 3 o.tag) x) ||
      e.loops.any (fun o => sameKey (keyOf c false o.entry 3 o.tag) x) }

/-! ## Slots -/

/-- The slot of a side and tag of an instruction: the tag's bits alone match (R72, R76). -/
def slotOf (e : Elem) (instr side : Nat) (tag : Tag) : Option Slot :=
  e.slots.find? fun x => x.instr = instr ∧ x.side = side ∧ x.tag = tag

/-- Put a slot in place of the one it replaces. -/
def putSlot (x : Slot) (e : Elem) : Elem :=
  { e with slots := e.slots.filter (fun y => !(y.instr = x.instr ∧ y.side = x.side ∧ y.tag = x.tag)) ++ [x] }

/-- Delete the slots of an instruction and tag; their entries are written (R74). -/
def consumeSlots (c : ElemClass) (instr : Nat) (tag : Tag) (now : Nat) (e : Elem) : Elem :=
  let gone := e.slots.filter fun y => y.instr = instr ∧ y.tag = tag
  let marked := useEntries c (gone.flatMap fun y => entriesOf e (keyOf c y.wide y.instr y.side y.tag)) now e
  dropEmpty c { marked with slots := e.slots.filter fun y => !(y.instr = instr ∧ y.tag = tag) }

/-- A firing becomes ready (R30). -/
def makeReady (f : Firing) : Prog :=
  withId fun k => fun s => updElem f.pos (fun e => { e with ready := e.ready ++ [{ f with id := k, since := s.fc }] }) s

/-! ## Replies (R131, R272) -/

/-- Every part of a request is over and back. -/
def reqDone (q : MemReq) : Bool := q.parts.all fun p => p.st == .performed

/-- A token of a reply has been delivered: a request whose last one it is is no longer outstanding (R272), and the flags of AFADD
are raised with its first (R131). -/
def tokenDelivered (m : Msg) : Prog :=
  match m.net, m.chan with
  | .reply, some (k, _) => reading (reqAt · k) fun x => forSome x fun q => andThen (raiseFlags q.r q.flags)
      (if q.left ≤ 1 ∧ reqDone q then dropReq k else updReq k fun y => { y with left := y.left - 1, flags := 0 })
  | _, _ => skip

/-- A reply's token has been discarded: nothing more comes of its request. -/
def replyLost (m : Msg) : Prog :=
  match m.net, m.chan with
  | .reply, some (k, _) => reading (reqAt · k) fun x => forSome x fun q =>
      if reqDone q then dropReq k else updReq k fun y => { y with dead := true }
  | _, _ => skip

/-! ## Mismatches (R23, R24, R55, R370) -/

/-- Discard a message and report it: a hardware record of type 2 or 3 and a report to the region's home control point. The
header names the region; a header that cannot be read is charged to the region of the place that received it. -/
def reportMismatch (m : Msg) (kind : Nat) (found : Pos) : Prog :=
  reading (fun s =>
    let named := if ridOk m.hdr then regionOf s m.dst else none
    named.orElse fun _ => regionOf s found) fun r =>
    seqAll [dropMsg m.id,
      logHardware found.die kind ((r.map (·.part)).getD 0) r.isSome found (m.hdr.extractLsb' 0 64)
        ((r.map (·.run)).getD 0) (headerTag m.hdr),
      forSome r fun r => control found (controlPoint r.homeClu)
        (.abort r.id ⟨false, none, found, 0, headerTag m.hdr, none⟩)]

/-! ## Accepting a token (R76) -/

/-- What a token that has reached its element asks for. -/
inductive Arrival
  | bad (kind : Nat)
  | set (entry : Nat)
  | operand (instr side : Nat) (tag : Tag) (v : View)
  deriving DecidableEq, Repr

/-- The content of a token at its element: a wrong residue or RID, a set-token, an operand of an instruction, or one for an
entry that holds no instruction or does not wait on that side. -/
def arrivalOf (s : State) (m : Msg) : Arrival :=
  let w := m.hdr.extractLsb' 0 64
  if !ridOk m.hdr || kindOf m.hdr ≥ 5 then .bad 3
  else if m.res != residues m.pay then .bad 2
  else if routeSide w = 3 then .set (routeInstr w % 16)
  else match entryView s m.dst (routeInstr w) with
    | none => .bad 3
    | some v => if (tSides v).contains (routeSide w) then .operand (routeInstr w) (routeSide w) (headerTag m.hdr) v
        else .bad 3

/-- The value a token has at its element: decoded by its channel as the scale stands (R104). -/
def arrivedValue (s : State) (m : Msg) : Wide :=
  let w := m.hdr.extractLsb' 0 64
  decodeToken (tablesAt s m.dst) ((classOf m.dst).getD .s) (routeVc w) (routeWide w) m.pay

/-- N of R87, and whether side A is present, for a JOIN and a tag. -/
def joinCount (s : State) (p : Pos) (v : View) (instr : Nat) (tag : Tag) : Option Nat :=
  match v.sa with
  | .t => (slotOf (elemAt s p) instr 0 tag).map fun x => field (lowWord x.val) 15 0
  | src =>
    let f : Firing := ⟨0, p, instr, tag, 0, 0, 0, 1, 0⟩
    some (max 1 (field (lowWord (sourceValue s f src 0)) 15 0))

/-- Whether a token arriving for an instruction makes it ready at once (R76, R87). -/
def readyBy (s : State) (p : Pos) (instr side : Nat) (tag : Tag) (v : View) (val : Wide) : Bool :=
  let e := elemAt s p
  if v.op = opMerge then true
  else if v.op = opJoin then
    if side = 1 then
      match joinCount s p v instr tag with
      | some n => decide (n ≤ ((slotOf e instr 1 tag).map (·.cnt)).getD 0 + 1)
      | none => false
    else decide (field (lowWord val) 15 0 ≤ ((slotOf e instr 1 tag).map (·.cnt)).getD 0)
  else (tSides v).all fun x => x == side || (slotOf e instr x tag).isSome

/-- Whether a token must wait in the input buffer (R31, R86, R87, R255). -/
def heldBack (s : State) (m : Msg) (instr side : Nat) (tag : Tag) (v : View) : Bool :=
  let e := elemAt s m.dst
  if v.op = opMrg then decide (8 ≤ (if side = 0 then (qAt s m.dst).merge.qa.length else (qAt s m.dst).merge.qb.length))
  else if v.op = opMerge then
    s.chip.net.any fun x => x.dst == m.dst && x.body == .token && arrived s x && inOrder s x &&
      routeInstr (x.hdr.extractLsb' 0 64) == instr && routeSide (x.hdr.extractLsb' 0 64) != 3 &&
      (x.due < m.due || (x.due == m.due && routeSide (x.hdr.extractLsb' 0 64) < side))
  else if v.op = opJoin ∧ side = 1 then decide (65535 ≤ ((slotOf e instr 1 tag).map (·.cnt)).getD 0)
  else (slotOf e instr side tag).isSome

/-- The keys a token's instruction may hold operands under: every T side, narrow, and wide where a class has wide slots. -/
def operandKeys (c : ElemClass) (instr : Nat) (tag : Tag) (v : View) : List StoreEntry :=
  if v.op = opMerge ∨ v.op = opMrg ∨ ((tSides v).length ≤ 1 ∧ v.op ≠ opJoin) then []
  else distinct ((tSides v).flatMap fun x =>
    keyOf c false instr x tag :: (if (c = .a ∨ c = .q) ∧ (v.op = 0x93 ∨ v.op = 0x95 ∨ v.op = 0xA5)
      then [keyOf c true instr x tag] else []))

/-- The channel a message travels on (R25, R29). -/
def channelOf (m : Msg) : Nat := routeVc (m.hdr.extractLsb' 0 64)

/-- A set-token of the same source and channel takes effect at the end of this fc: a later token of the channel waits for it
(R29, R103). -/
def setBefore (s : State) (m : Msg) : Bool :=
  (elemAt s m.dst).pendSet.any fun x => x.src == posKey m.src && x.vc == channelOf m

/-- What a token needs of the store before it can be accepted. -/
def tokenNeed (s : State) (m : Msg) : Need :=
  match arrivalOf s m with
  | .bad _ => .go
  | .set _ => .go
  | .operand instr side tag v =>
    if heldBack s m instr side tag v || setBefore s m then .wait
    else
      let c := (classOf m.dst).getD .s
      let own := keyOf c (routeWide (m.hdr.extractLsb' 0 64)) instr side tag
      let make := !readyBy s m.dst instr side tag v (arrivedValue s m)
      match m.look with
      | .looking _ => .wait
      | look => allNeed ((operandKeys c instr tag v).map fun k =>
          keyNeed s m.dst c k m.id (look == .absent) (make && sameKey k own))

/-- A token has reached an element that holds power and can act on it (R76, R109). -/
def atElement (s : State) (k : Nat) : Option Msg :=
  match msgAt s k with
  | some m => if m.body = .token ∧ arrived s m ∧ inOrder s m ∧ (classOf m.dst).isSome then some m else none
  | none => none

/-- TOKEN_ARRIVAL may be made for a message: it is at its element, and it can be accepted or begins a transfer (R77). -/
def tokenEnabled (s : State) (k : Nat) : Bool :=
  match atElement s k with
  | some m => !halted s m.dst && tokenNeed s m != .wait
  | none => false

/-- A set-token takes its place among those of this fc (R103). -/
def queueSet (x : SetTok) (l : List SetTok) : List SetTok :=
  l.filter (fun y => y.src ≤ x.src) ++ [x] ++ l.filter (fun y => !(y.src ≤ x.src))

/-- A record or end token enters a queue of the merge unit (R255). -/
def enterMerge (p : Pos) (side : Nat) (val : Wide) (tag : Tag) : Prog :=
  fun s => updQ p (fun q =>
    let g : Merge := if q.merge.qa.isEmpty && q.merge.qb.isEmpty then { q.merge with since := max q.merge.since s.fc } else q.merge
    { q with merge := if side = 0 then { g with qa := g.qa ++ [(val, tag)] } else { g with qb := g.qb ++ [(val, tag)] } }) s

/-- The channel of a record that has entered a side's queue: it keeps its credit until the unit takes the record (R245, R421). -/
def noteCredit (p : Pos) (side : Nat) (chan : Option (Nat × Nat)) : Prog :=
  updQ p fun q =>
    let g := q.merge
    let keep := fun (l : List (Option (Nat × Nat))) (n : Nat) => (l ++ [chan]).drop (l.length + 1 - n)
    { q with merge := if side = 0 then { g with ca := keep g.ca g.qa.length } else { g with cb := keep g.cb g.qb.length } }

/-- Credits of a channel that the records of a merge unit's queues hold. -/
def Merge.credits (g : Merge) (c : Nat × Nat) : Nat :=
  (g.ca.drop (g.ca.length - g.qa.length)).count (some c) + (g.cb.drop (g.cb.length - g.qb.length)).count (some c)

/-- The value a slot gives a side. -/
def slotVal (e : Elem) (instr side : Nat) (tag : Tag) : Wide := ((slotOf e instr side tag).map (·.val)).getD 0

/-- An operand taken from the input buffer: fired, counted or stored (R76, R86, R87). It is matched by the bits of its tag alone: whether
its frame or its tag is allocated is not checked, so a token of a freed frame is matched as one of whatever frame then holds that index
(R72). It is an element of the token's own region that takes it, as every route names a unit of the region (`targetOf`, R17). -/
def acceptOperand (m : Msg) (instr side : Nat) (tag : Tag) (v : View) : Prog :=
  reading (fun s => (s, arrivedValue s m)) fun x =>
    let s := x.1
    let val := x.2
    let p := m.dst
    let c := (classOf p).getD .s
    let e := elemAt s p
    let wide := routeWide (m.hdr.extractLsb' 0 64)
    let pick := fun k => if k = side then val else slotVal e instr k tag
    if v.op = opMrg then andThen (enterMerge p side val tag) (noteCredit p side (if m.net = .data then m.chan else none))
    else if v.op = opMerge then makeReady ⟨0, p, instr, tag, val, 0, 0, side, 0⟩
    else if readyBy s p instr side tag v val then
      andThen (updElem p (consumeSlots c instr tag s.fc))
        (makeReady (if v.op = opJoin then
            ⟨0, p, instr, tag, pick 0,
              ofWord (if side = 1 then lowWord val + lowWord (slotVal e instr 1 tag) else lowWord (slotVal e instr 1 tag)),
              0, side, 0⟩
          else ⟨0, p, instr, tag, pick 0, pick 1, pick 2, side, 0⟩))
    else
      let old := slotOf e instr side tag
      let stored : Slot :=
        if v.op = opJoin ∧ side = 1 then
          ⟨instr, 1, tag, ofWord (lowWord val + ((old.map fun y => lowWord y.val).getD 0)), false,
            ((old.map (·.cnt)).getD 0) + 1, (old.map (·.since)).getD s.fc⟩
        else ⟨instr, side, tag, val, wide, 0, s.fc⟩
      andThen (touchEntry p c (keyOf c wide instr side tag)) (updElem p (putSlot stored))

/-- TOKEN_ARRIVAL: begin the transfer the token needs, or take it from the input buffer. -/
def acceptToken (m : Msg) : Prog :=
  reading (fun s => (tokenNeed s m, arrivalOf s m, s.fc)) fun x =>
    match x.1 with
    | .look => updMsg m.id fun y => { y with look := .looking (x.2.2 + 24) }
    | .fill k => beginFill m.dst k
    | .spill k => andThen (beginSpill m.dst k m.id) (updMsg m.id fun y => { y with look := .absent })
    | .wait => skip
    | .go =>
      match x.2.1 with
      | .bad kind => andThen (reportMismatch m kind m.dst) (replyLost m)
      | .set e => andThen (andThen (tokenDelivered m) (dropMsg m.id))
          (updElem m.dst fun y => { y with pendSet := queueSet ⟨posKey m.src, channelOf m, e, m.pay⟩ y.pendSet })
      | .operand instr side tag v => andThen (acceptOperand m instr side tag v) (andThen (tokenDelivered m) (dropMsg m.id))

/-- A set-token or a WSET replaces a side-table entry and marks its group dirty (R102, R103): a live entry only. -/
def applySet (p : Pos) (k : Nat) (val : Wide) : Prog :=
  reading (fun s => ((unitAt s p).active, (tablesAt s p).live)) fun x =>
    onlyIf (x.2.contains k) (andThen
      (updTables p x.1 fun t => { t with side := setKey k (if classOf p = some .v then val else ofWord (lowWord val)) t.side })
      (updElem p fun e => { e with sideDirty := insertNew (x.1 * 4 + k / 4) e.sideDirty }))

/-- The set-tokens of an element take effect at the end of the fc (R103). -/
def applySets (p : Pos) : Prog :=
  reading (fun s => (elemAt s p).pendSet) fun l =>
    andThen (forEach l fun x => applySet p x.entry x.val) (updElem p fun e => { e with pendSet := [] })

/-! ## The cellar (R77, R78) -/

/-- A lookup or a fill of an element whose time has come: of a message, of a result's key, or of an entry, by its name. -/
def cellarDone (s : State) (p : Pos) (k : Nat) : Bool :=
  (match msgAt s k with
    | some m => m.dst == p && (match m.look with | .looking d => d ≤ s.fc | _ => false)
    | none => false) ||
  ((elemAt s p).looks.any fun x => x.id == k && (match x.look with | .looking d => d ≤ s.fc | _ => false)) ||
  ((elemAt s p).entries.any fun x => x.id == k && (match x.st with | .filling d => d ≤ s.fc | _ => false))

/-- CELLAR_LOOKUP: a lookup that found nothing lets its token's entry be made; a fill puts its entry back. -/
def endLookup (p : Pos) (k : Nat) : Prog :=
  reading (fun s => (s, (elemAt s p).entries.find? fun x => x.id = k)) fun x =>
    match x.2 with
    | some y => seqAll [
        updElem p (fun e => { e with
          entries := replaceIf (fun z => z.id = k) (fun z => { z with st := .resident, used := x.1.fc }) e.entries,
          dirty := insertNew (bankOf ((classOf p).getD .s) y) e.dirty }),
        forSome (regionOf x.1 p) fun r => countFor r p false 0x08]
    | none => andThen (updMsg k fun m => { m with look := .absent })
        (updElem p fun e => { e with looks := replaceIf (fun z => z.id = k) (fun z => { z with look := .absent }) e.looks })

/-- A spill whose time has come. -/
def spillDone (s : State) (p : Pos) (k : Nat) : Bool :=
  (elemAt s p).entries.any fun x => x.id == k && (match x.st with | .spilling d _ => d ≤ s.fc | _ => false)

/-- SPILL: the entry's record is in the cellar, under its partition's owner tag (R78), and its bank has been written. -/
def endSpill (p : Pos) (k : Nat) : Prog :=
  reading (regionOf · p) fun r => andThen
    (updElem p fun e => { markBanks ((classOf p).getD .s) (e.entries.filter fun x => x.id = k) e with
      entries := replaceIf (fun x => x.id = k) (fun x => { x with st := .cellar, owner := (r.map (·.part)).getD 0 }) e.entries })
    (forSome r fun r => countFor r p false 0x07)

/-! ## Beginning a firing -/

/-- The outgoing tag a tag action gives (R70); for NEXT and EXIT the frame table is asked. -/
def outTag (ta : TagAction) (b : Wide) (tag : Tag) : OutTag :=
  match ta with
  | .keep => .known tag
  | .free => .known tag
  | .iter0 => .known (mkTag (frameOf tag) 0)
  | .enter => .known (mkTag (b.extractLsb' 6 17).toNat 0)
  | .tagb => .known (b.extractLsb' 0 23)
  | .next => .asked
  | .exit => .asked

/-- A latency of the spec, or where it states none a free number of fc from 1 up (assumption 5). -/
def withLatency (lat : Option Nat) (p : Nat → Prog) : Prog :=
  match lat with
  | some n => p n
  | none => withFree fun i => p (1 + Config.delay i)

/-- The firing a step has taken up is no more. -/
def endFiring : Prog := eff (.cur none)

/-- The firing does not take place: it goes back to the front of the ready firings. -/
def holdBack (f : Firing) : Prog :=
  andThen (updElem f.pos fun e => { e with ready := f :: e.ready }) endFiring

/-- What a firing leaves in its element's pipeline. -/
structure Issue where
  op : Nat
  ta : TagAction
  b : Wide
  lat : Option Nat
  outs : List Out
  flags : Flags
  wait : OpWait
  defer : Bool
  deriving DecidableEq, Repr

/-- Ask the frame table for the outgoing tag of a NEXT or an EXIT (R70). -/
def askTag (f : Firing) (ta : TagAction) (k : Nat) : Prog :=
  match ta with
  | .next => control f.pos (frameTable ⟨frameDie (frameOf f.tag), frameClu (frameOf f.tag), 0, 0⟩)
      (.frame (.next (frameOf f.tag) (iterOf f.tag) f.pos k))
  | .exit => control f.pos (frameTable ⟨frameDie (frameOf f.tag), frameClu (frameOf f.tag), 0, 0⟩)
      (.frame (.parent (frameOf f.tag) f.pos k))
  | _ => skip

/-- A firing enters its element's pipeline (R143); the frame table is asked for a tag when the tag action needs one. -/
def issueOp (f : Firing) (x : Issue) (then' : Nat → Prog) : Prog :=
  withLatency x.lat fun n => withId fun k =>
    seqAll [
      (fun s => updElem f.pos (fun e => { e with
        pipe := e.pipe ++ [{ id := k, op := x.op, entry := f.entry, tag := f.tag, out := outTag x.ta x.b f.tag,
                             due := some (s.fc + n), outs := x.outs, flags := x.flags, rel := x.ta == .free,
                             wait := x.wait,
                             defer := if x.defer then some f else none, since := s.fc }],
        lastFire := some s.fc }) s),
      askTag f x.ta k,
      then' k,
      endFiring]

/-- A firing whose values are sent by its element after a latency: the shape of every computing instruction (R142). -/
def sendAfter (f : Firing) (op : Nat) (ta : TagAction) (b : Wide) (lat : Option Nat) (outs : List Out) (flags : Flags) :
    Prog :=
  issueOp f ⟨op, ta, b, lat, outs, flags, .none, false⟩ fun _ => skip

/-- The step of an opcode: it acts on the firing that the step has taken up. -/
def onFiring (p : Firing → Prog) (s : State) : Host.Outcome State Fault Refusal :=
  match s.cur with
  | none => .fault .noFiring
  | some f => act (p f) s

/-! ## Sending -/

/-- A token on one route entry: its payload as the sender encodes it, and the flags of the encoding. A set-token and a raw
value are not encoded (R102, R106). -/
def tokenOn (t : ElemTables) (c : ElemClass) (o : Out) (route : Word) : Wide × Flags :=
  if o.raw ∨ routeSide route = 3 then (o.val, 0) else encodeToken t c (routeVc route) o.wide o.val

/-- The route words a value goes out on, with their places in the route table (R10, R39, R99). -/
def routesWithIndex (t : ElemTables) (o : Out) : List (Nat × Word) :=
  match o.via with
  | some w => [(31, w)]
  | none => (chainFrom t (if o.one then 1 else 31) o.d).zipIdx.map fun x => (o.d + x.2, x.1)

/-- The number of tokens a list of values makes. -/
def tokenCount (t : ElemTables) (outs : List Out) : Nat := (outs.map fun o => (routesWithIndex t o).length).sum

/-- Room in the output buffer of 8 tokens (R144). A firing with more tokens than that takes an empty buffer: the first 8 of `out`
are the buffer, and the rest hold the pipeline until they are in it (assumption 82). -/
def fits (e : Elem) (n : Nat) : Bool := e.out.length + n ≤ 8 || e.out.isEmpty

/-- The route of an element is a stream channel: from an access processor or a Q element to an element of another class (R112). -/
def onStream (p dst : Pos) : Bool :=
  (classOf p == some .a || classOf p == some .q) && (classOf dst).isSome && classOf dst != classOf p

/-- Tokens of a channel that have taken a credit: in the output buffer, on their way or waiting at the consumer, in its input buffer or
in its merge queue (R245, R421). A memory reply that LD or LDG sends on the channel's route takes none: the spec gives no way for it
(DESIGN CHOICE, assumption 111). -/
def channelUse (s : State) (p : Pos) (i : Nat) : Nat :=
  (s.chip.qs.foldl (fun n x => n + x.2.merge.credits (posKey p, i)) 0) +
  (s.chip.net.countP fun x => x.chan == some (posKey p, i) && x.net == .data) +
    (elemAt s p).out.countP fun x => x.chan == some (posKey p, i)

/-- Every stream channel that some values go out on has the credits for their tokens (R112, R245). -/
def creditFor (s : State) (p : Pos) (outs : List Out) : Bool :=
  let l := outs.flatMap (routesWithIndex (tablesAt s p))
  l.all fun y => !onStream p (routePos y.2) || (match rateAt s p y.1 with
    | some d => decide (channelUse s p y.1 + (l.countP fun z => z.1 = y.1) ≤ d.depth)
    | none => true)

/-- The tokens of some values have room in the output buffer, and the credits of their stream channels (R144, R245). -/
def roomFor (s : State) (p : Pos) (outs : List Out) : Bool :=
  fits (elemAt s p) (tokenCount (tablesAt s p) outs) && creditFor s p outs

/-- Put a value's tokens into the output buffer (R10, R99), with the flags of their encoding. The sender's scale entry is read now, when
the tokens enter the buffer: the spec names no moment (DESIGN CHOICE, assumption 112). -/
def placeOut (p : Pos) (tag : Tag) (o : Out) : Prog :=
  reading (fun s => (tablesAt s p, (regionOf s p).map (·.id))) fun x =>
    forEach (routesWithIndex x.1 o) fun y =>
      let route := y.2
      let r := tokenOn x.1 ((classOf p).getD .s) o route
      let pay := if routeWide route then r.1 else ofWord (lowWord r.1)
      seqAll [
        withId fun k => updElem p fun e => { e with out := e.out ++
          [{ id := k, src := p, dst := routePos route, net := .data,
             hdr := withRid (headerOf route (if routeSide route = 3 then 1 else 0) 0 tag), pay := pay, res := residues pay,
             body := .token, col := (switchOf p).1, row := (switchOf p).2, due := 0, look := .fresh,
             chan := some (posKey p, y.1) }] },
        forSome x.2 fun k => raiseFlags k r.2]

/-- Put the tokens of a firing into the output buffer; a tag that names no frame sends nothing (R70). -/
def placeOuts (p : Pos) (tag : Tag) (outs : List Out) : Prog :=
  onlyIf (tag != noTag) (forEach outs (placeOut p tag))

/-- Release an iteration tag at the frame table (R69, R70). -/
def releaseTag (src : Pos) (tag : Tag) : Prog :=
  control src (frameTable ⟨frameDie (frameOf tag), frameClu (frameOf tag), 0, 0⟩) (.frame (.release (frameOf tag) (iterOf tag)))

/-! ## Completion (R70, R79, R144) -/

/-- A pending operation of an element. -/
def opAt (s : State) (p : Pos) (k : Nat) : Option PipeOp := (elemAt s p).pipe.find? fun x => x.id = k
def updOp (p : Pos) (k : Nat) (f : PipeOp → PipeOp) : Prog :=
  updElem p fun e => { e with pipe := replaceIf (fun x => x.id = k) f e.pipe }
def dropOp (p : Pos) (k : Nat) : Prog :=
  updElem p fun e =>
    let c := (classOf p).getD .s
    let gone := e.pipe.filter fun x => x.id = k ∧ (x.wait = .held ∨ x.wait = .yielded)
    dropEmpty c { markBanks c (gone.flatMap fun x => entriesOf e (keyOf c false x.entry 3 x.tag)) e with
      pipe := e.pipe.filter fun x => x.id ≠ k }

/-- A held result leaves the store for its pipeline: its entry is written, and goes when nothing else stands in it (R74, R79). -/
def unholdOp (p : Pos) (k : Nat) : Prog := fun s => updElem p (fun e =>
  let c := (classOf p).getD .s
  let gone := e.pipe.filter fun x => x.id = k
  dropEmpty c { useEntries c (gone.flatMap fun x => entriesOf e (keyOf c false x.entry 3 x.tag)) s.fc e with
    pipe := replaceIf (fun x => x.id = k) (fun x => { x with wait := .none, due := some s.fc }) e.pipe }) s

/-- A pending operation is due. -/
def opDue (s : State) (x : PipeOp) : Bool :=
  match x.due with
  | some d => d ≤ s.fc
  | none => false

/-- An operation due before another: it completed earlier, or in one fc fired earlier (R144). -/
def dueBefore (x y : PipeOp) : Bool :=
  match x.due, y.due with
  | some a, some b => a < b || (a == b && x.id < y.id)
  | _, _ => false

/-- Tag u of a frame for the NEXT of t: already allocated by an earlier NEXT, or free (R70). -/
def nextTag (f : FrameRec) (t : Nat) : Nat := (t + 1) % 2 ^ f.logk
def nextOpen (f : FrameRec) (t : Nat) : Bool := f.succm.getLsbD t || f.freem.getLsbD (nextTag f t)

/-- Allocate the tag of a NEXT unless an earlier NEXT has (R70). -/
def takeNext (f t : Nat) : Prog :=
  reading (frameAt · f) fun r => onlyIf (!r.succm.getLsbD t)
    (andThen (updFrame f (.take (nextTag r t))) (updFrame f (.succ t)))

/-- An earlier held result of one instruction and frame (R79). -/
def heldEarlier (e : Elem) (o : PipeOp) : Bool :=
  e.pipe.any fun x => (x.wait == .held || x.wait == .yielded) && x.entry == o.entry &&
    frameOf x.tag == frameOf o.tag && x.id < o.id

/-- The outgoing tag of an operation, when it has one: that of its firing, or the one its frame table has given (R70, R71). -/
def tagNow (x : PipeOp) : Option Tag :=
  match x.out with
  | .known t => some t
  | .asked => none
  | .waits => none

/-- No other operation of the element that completed before this one still waits to enter the output buffer (R144). -/
def firstDue (s : State) (p : Pos) (x : PipeOp) : Bool :=
  (elemAt s p).pipe.all fun y => !(y.wait == .none && opDue s y && (tagNow y).isSome && y.defer.isNone && dueBefore y x)

/-- Operations whose values leave one in an fc: CFLUSH (R252), MOUT and the rows of an EM (R224, R238). -/
def PipeOp.streams (x : PipeOp) : Bool := x.op == 0xC2 || (0xB9 ≤ x.op && x.op ≤ 0xBB) || x.op == 0xBD

/-- The values an operation sends together: the next one of a stream, else all. -/
def PipeOp.sends (x : PipeOp) : List Out := if x.streams then x.outs.take 1 else x.outs

/-- A stream of an element goes after the streams before it. -/
def streamTurn (s : State) (p : Pos) (x : PipeOp) : Bool :=
  !x.streams || (elemAt s p).pipe.all fun y => !(y.streams && y.wait == .none && y.id < x.id)

/-- The outgoing tag of an operation by its name, when it has one. -/
def opTag (s : State) (p : Pos) (k : Nat) : Option Tag := (opAt s p k).bind tagNow

def walkAt (s : State) (p : Pos) (op : Nat) : Option Walk := s.chip.walks.find? fun w => w.p = p ∧ w.op = op

/-- A reply of a CSRW brings the token of a position (R248). -/
def Walk.emits (w : Walk) : Bool := w.code == 0xC7 && (w.phase == 2 || (w.phase == 1 && !w.rawv && !w.pack))

/-- The walk that an arrived reply is for. -/
def replyWalk (s : State) (m : Msg) : Option Walk :=
  match m.body with
  | .done q => if arrived s m && inOrder s m then (reqAt s q).bind (fun r => match r.client with
      | .walk p op => if r.dead then none else walkAt s p op
      | _ => none) else none
  | _ => none

/-- A walk of an access processor has a position whose token finds no room or no credit: it holds the element (R245). -/
def walkBlocked (s : State) (p : Pos) : Bool :=
  s.chip.net.any fun m => m.dst == p && (match replyWalk s m with
    | some w => w.emits && (opTag s p w.op).isSome && !roomFor s p (outOf w.d0 0 false false)
    | none => false)

/-- The operation's time has come and it has its tag and room for its tokens; one with a request to make needs no room. -/
def canSend (s : State) (p : Pos) (x : PipeOp) : Bool :=
  x.wait == .none && opDue s x && (tagNow x).isSome && (halted s p || !walkBlocked s p) &&
    (x.defer.isSome || (roomFor s p x.sends && firstDue s p x && streamTurn s p x))

/-- A completed firing whose tokens do not fit holds the pipeline (R144): nothing more begins, and what has begun goes on to its own time
(assumption 82). -/
def outBlocked (s : State) (p : Pos) : Bool :=
  8 < (elemAt s p).out.length || (elemAt s p).pipe.any fun x => x.wait == .none && opDue s x && (tagNow x).isSome && x.defer.isNone &&
    !roomFor s p x.sends

/-- The tokens of an operation that its element sends are on their way: it ends, and a FREE releases its tag (R70). -/
def sendOp (p : Pos) (x : PipeOp) (out : Tag) : Prog :=
  seqAll [
    (reading (fun s => (regionOf s p).map (·.id)) fun r => forSome r fun r => raiseFlags r x.flags),
    placeOuts p out x.outs,
    onlyIf x.rel (releaseTag p x.tag),
    dropOp p x.id]

/-- What an operation that must be held needs of the store (R77, R79). -/
def heldNeed (s : State) (p : Pos) (x : PipeOp) : Need :=
  resultNeed s p (keyOf ((classOf p).getD .s) false x.entry 3 x.tag) x.id true

/-- An operation becomes a held result, or begins the transfer that makes room for it (R77, R79). -/
def holdOp (p : Pos) (x : PipeOp) (w : OpWait) : Prog :=
  reading (fun s => heldNeed s p x) fun n =>
    match n with
    | .spill k => andThen (beginSpill p k x.id) (lookedUp p (keyOf ((classOf p).getD .s) false x.entry 3 x.tag))
    | .fill k => beginFill p k
    | .look => beginLook p (keyOf ((classOf p).getD .s) false x.entry 3 x.tag)
    | .wait => skip
    | .go => seqAll [
        touchEntry p ((classOf p).getD .s) (keyOf ((classOf p).getD .s) false x.entry 3 x.tag),
        updFrame (frameOf x.tag) (.pend true),
        updOp p x.id fun y => { y with wait := w, due := none }]

/-- What a held result's entry needs before the result is sent: to be brought back from the cellar. -/
def heldEntry (s : State) (p : Pos) (entry who : Nat) (tag : Tag) : Need :=
  let c := (classOf p).getD .s
  keyNeed s p c (keyOf c false entry 3 tag) who true false

/-- Bring a held result's entry back from the cellar. -/
def recallEntry (p : Pos) (who : Nat) (n : Need) : Prog :=
  match n with
  | .spill k => beginSpill p k who
  | .fill k => beginFill p k
  | _ => skip

/-- The frame of a tag is parked, as the element knows it (R73). -/
def tagParked (s : State) (p : Pos) (tag : Tag) : Bool := parkedAt (elemAt s p) (frameOf tag)

/-- A result that waits at a YIELD waits until the graph engine has cleared YLD (R94). -/
def yieldWaits (s : State) (x : PipeOp) : Bool := x.wait == .yielded && (frameAt s (frameOf x.tag)).yld

/-- NEXT_SEND may be made for a held result: its frame is not parked, its tag is to be had, no earlier one of its
instruction waits, its entry is there or can be brought back, and the output buffer has room (R70, R71, R73, R79). -/
def nextSendEnabled (s : State) (p : Pos) (k : Nat) : Bool :=
  match opAt s p k with
  | none => false
  | some x =>
    !halted s p && (x.wait == .held || x.wait == .yielded) && x.due.all (fun d => d ≤ s.fc) && !tagParked s p x.tag &&
      !yieldWaits s x && (tagNow x).isSome && !heldEarlier (elemAt s p) x && heldEntry s p x.entry x.id x.tag != .wait &&
      roomFor s p x.outs

/-- A result whose residue does not match is discarded and reported (R369, R370); there is no header for the record's LOC. -/
def resultMismatch (p : Pos) (x : PipeOp) : Prog :=
  reading (regionOf · p) fun r => seqAll [
    dropOp p x.id,
    logHardware p.die 2 ((r.map (·.part)).getD 0) r.isSome p 0 ((r.map (·.run)).getD 0) x.tag,
    forSome r fun r => control p (controlPoint r.homeClu) (.abort r.id ⟨false, none, p, x.entry, x.tag, none⟩)]

/-- NEXT_SEND: the held result takes its tag and is sent; a result whose entry is in the cellar is brought back first. The
request of a memory instruction leaves with its operation's completion. One whose residue does not match is discarded (R369). -/
def sendHeld (p : Pos) (k : Nat) : Prog :=
  reading (fun s => (s, opAt s p k)) fun x => forSome x.2 fun o =>
    match heldEntry x.1 p o.entry o.id o.tag with
    | .go =>
      if o.bad then andThen (resultMismatch p o) (updFrame (frameOf o.tag) (.pend false))
      else if o.defer.isSome then andThen (unholdOp p k) (updFrame (frameOf o.tag) (.pend false))
      else seqAll [sendOp p o ((tagNow o).getD noTag), updFrame (frameOf o.tag) (.pend false)]
    | n => recallEntry p o.id n

/-- A firing that keeps a result or a record in the store from the moment it fires: it does not fire while the store has no place for
it, and begins the transfer or lookup that it needs (R77, R79). -/
def takingEntry (f : Firing) (k : StoreEntry) (fire : Prog) : Prog := fun s =>
  match resultNeed s f.pos k f.id true with
  | .spill j => andThen (andThen (beginSpill f.pos j f.id) (lookedUp f.pos k)) (holdBack f) s
  | .fill j => andThen (beginFill f.pos j) (holdBack f) s
  | .look => andThen (beginLook f.pos k) (holdBack f) s
  | .wait => holdBack f s
  | .go => fire s

/-! ## The steps of an element -/

/-- TOKEN_ARRIVAL (R76). -/
def execTokenArrival (m : Nat) (s : State) : Host.Outcome State Fault Refusal :=
  actWhen (tokenEnabled s m) "TOKEN_ARRIVAL" (reading (atElement · m) fun x => forSome x acceptToken) s
/-- SPILL (R77). -/
def execSpill (p : Pos) (k : Nat) (s : State) : Host.Outcome State Fault Refusal :=
  actWhen (spillDone s p k) "SPILL" (endSpill p k) s
/-- CELLAR_LOOKUP (R77). -/
def execCellarLookup (p : Pos) (m : Nat) (s : State) : Host.Outcome State Fault Refusal :=
  actWhen (cellarDone s p m) "CELLAR_LOOKUP" (endLookup p m) s
/-- NEXT_SEND (R70). -/
def execNextSend (p : Pos) (k : Nat) (s : State) : Host.Outcome State Fault Refusal :=
  actWhen (nextSendEnabled s p k) "NEXT_SEND" (sendHeld p k) s

end Sys2Proof.Machine
end

