-- ==== Sys2Proof/Machine/Frames.lean ====
section
/-! DEFINITION. The frame table and what it asks of the elements (spec/03 R64 to R73, R88 to R93): frame operations, quotas,
releases and purges, parking, LOOPN emissions. -/

namespace Sys2Proof.Machine

open Sys2Proof

/-! ## Frame operations (R64, R69 to R71) -/

/-- A message's frame operation, when it is one. -/
def frameReqOf (b : Body) : Option FrameReq :=
  match b with
  | .frame q => some q
  | _ => none

/-- The order in which a table takes the operations that have reached it: by fc of arrival, releases first, then by
ascending source (R71). -/
def frameOrder (m : Msg) : Nat :=
  let alloc := match m.body with
    | .frame (.release ..) => 0
    | .frame (.free ..) => 0
    | _ => 1
  ((m.due * 2 + alloc) * 2 ^ 25 + posKey m.src) * 2 ^ 32 + m.id % 2 ^ 32

/-- The quota of a declaration in a cluster (R67). -/
def quotaOf (r : Region) (clu : Pos) (decl : Nat) : Option FrameQuota :=
  r.quotas.find? fun q => q.die = clu.die ∧ q.clu = clu.clu ∧ q.decl = decl

/-- A region with the use of one quota changed. -/
def changeQuota (clu : Pos) (decl : Nat) (g : Nat → Nat) (r : Region) : Region :=
  let l := replaceIf (fun q => q.die = clu.die ∧ q.clu = clu.clu ∧ q.decl = decl) (fun q => { q with used := g q.used }) r.quotas
  { r with quotas := l }

/-- A frame index is held by a frame, or by a purge that is not acknowledged (R88, R89). -/
def frameBusy (s : State) (f : Nat) : Bool := (frameAt s f).val || s.chip.purges.any fun x => x.f == f

/-- The lowest free index among a region's reserved frames of a cluster (R67). -/
def freeFrame (s : State) (r : Region) (clu : Pos) : Option Nat :=
  leastBy id (r.reserved.filter fun f => frameDie f = clu.die ∧ frameClu f = clu.clu ∧ !frameBusy s f)

/-- F of a declaration in a region's active configuration (R66, R88). -/
def quotaMax (r : Region) (decl : Nat) : Nat :=
  (((configOf r.image r.acfg).bind fun cf => cf.frames[decl]?).map (·.max)).getD 0

/-- An FALLOC or CALL of a region's declaration has its frame to take: the quota of the active configuration's declaration has room
and an index is free (R67, R88). -/
def grantOf (s : State) (clu : Pos) (r decl : Nat) : Option Nat :=
  (regionAt s r).bind fun x => (quotaOf x clu decl).bind fun q =>
    if q.used < quotaMax x decl then freeFrame s x clu else none

/-- FALLOC and CALL that wait on one declaration in a cluster, oldest first. -/
def grantKey (w : FrameWait) : Option (Nat × Nat) :=
  match w.q with
  | .alloc r decl _ _ _ _ _ => some (r, decl)
  | _ => none

/-- The cluster of the table in which an operation waits: that of the element that asked, or of the frame. -/
def waitCluster (w : FrameWait) : Pos :=
  match w.q with
  | .alloc _ _ _ _ _ p _ => cluOf p
  | .free f _ _ _ _ => cluster (frameDie f) (frameClu f)
  | .release f _ => cluster (frameDie f) (frameClu f)
  | .next f _ _ _ => cluster (frameDie f) (frameClu f)
  | .parent f _ _ => cluster (frameDie f) (frameClu f)
  | .loop f _ _ _ _ _ => cluster (frameDie f) (frameClu f)

/-- An older FALLOC or CALL waits on the same declaration in the same cluster. -/
def olderGrant (s : State) (w : FrameWait) : Bool :=
  s.chip.fwaits.any fun x => grantKey x == grantKey w && waitCluster x == waitCluster w &&
    (x.since < w.since || (x.since == w.since && x.id < w.id))

/-- The tag a NEXT or a LOOPN emission asks for. -/
def tagAsked (r : FrameRec) (q : FrameReq) : Nat :=
  match q with
  | .next _ t _ _ => nextTag r t
  | .loop _ t i exit _ _ => if exit then t else (t + i) % 2 ^ r.logk
  | _ => 0

/-- A NEXT or a LOOPN emission can have its tag: it is free, or an earlier NEXT of its iteration has taken it; the exit of a LOOPN needs
every tag free. -/
def tagOpen (r : FrameRec) (q : FrameReq) : Bool :=
  match q with
  | .next _ t _ _ => nextOpen r t
  | .loop _ _ _ exit _ _ => if exit then r.live == 0 else r.freem.getLsbD (tagAsked r q)
  | _ => false

/-- The frame that a NEXT or a LOOPN emission asks a tag of. -/
def FrameReq.tagFrame (q : FrameReq) : Option Nat :=
  match q with
  | .next f _ _ _ => some f
  | .loop f _ _ _ _ _ => some f
  | _ => none

/-- An older NEXT or LOOPN emission waits for the same tag of the same frame (R71; assumption 83). -/
def olderTag (s : State) (w : FrameWait) : Bool :=
  w.q.tagFrame.any fun f => s.chip.fwaits.any fun x => x.q.tagFrame == some f && tagAsked (frameAt s f) x.q == tagAsked (frameAt s f) w.q &&
    (x.since < w.since || (x.since == w.since && x.id < w.id))

/-- What an operation waits for in its table has come: a frame (R88), a tag (R70, R71, R90), or the end of all that a frame to be freed
still has (R89). -/
def waitReady (s : State) (w : FrameWait) : Bool :=
  match w.q with
  | .alloc r decl _ _ _ p _ => (grantOf s (cluOf p) r decl).isSome && !olderGrant s w
  | .next f _ _ _ => tagOpen (frameAt s f) w.q && !olderTag s w
  | .loop f _ _ _ _ _ => tagOpen (frameAt s f) w.q && !olderTag s w
  | .free f _ _ _ _ => (frameAt s f).live == 0 && (frameAt s f).memout == 0 && (frameAt s f).pend == 0
  | .release _ _ => false
  | .parent _ _ _ => false

/-- A cluster's table has completed no operation in this fc (R64), and one that it completes. -/
def tableFree (s : State) (clu : Pos) : Bool := lookupKey clu s.chip.lastOp != some s.fc
def useTable (clu : Pos) : Prog := fun s => [.chip { s.chip with lastOp := setKey clu s.fc s.chip.lastOp }]

/-- The next operation of a table is this one that waits there: it can go on, and no older one can (R64, assumption 83). -/
def waitTurn (s : State) (w : FrameWait) : Bool :=
  tableFree s (waitCluster w) && waitReady s w && s.chip.fwaits.all fun x =>
    !(waitCluster x == waitCluster w && waitReady s x && (x.since < w.since || (x.since == w.since && x.id < w.id)))

/-- FRAME_OPERATION may be made: the operation has reached its table, is the next in order, nothing that has waited there can go on, and
the table has completed none in this fc (R64, R71). -/
def frameOpEnabled (s : State) (k : Nat) : Bool :=
  match msgAt s k with
  | none => false
  | some m =>
    (frameReqOf m.body).isSome && arrived s m && inOrder s m && tableFree s (cluOf m.dst) &&
      (s.chip.fwaits.all fun w => !(waitCluster w == cluOf m.dst && waitReady s w)) &&
      s.chip.net.all fun x => !(x.dst == m.dst && (frameReqOf x.body).isSome && arrived s x && inOrder s x &&
        frameOrder x < frameOrder m)

/-- The answer of a table reaches the element that asked after the unloaded latency of R26. -/
def answerOp (table p : Pos) (k : Nat) (f : PipeOp → PipeOp) : Prog := fun s =>
  updOp p k (fun x =>
    let y := f x
    { y with due := some (max (y.due.getD 0) (s.fc + latency table p)) }) s

/-- Give a frame to an FALLOC or CALL: the record, and the answer (R88, R91). FALLOC sends the tag as a value to D0; CALL
sends its tokens with the tag. -/
def grantFrame (clu : Pos) (r decl logk : Nat) (tag : Tag) (cont : Option Word) (p : Pos) (op g : Nat) : Prog :=
  seqAll [
    (reading (regionAt · r) fun x => forSome x fun x => updFrame g (.alloc decl logk (getKey 0 clu x.rgns) x.part tag cont)),
    updRegion r (changeQuota clu decl fun n => n + 1),
    (reading (fun s => ((opAt s p op).bind fun x => entryView s p x.entry)) fun v =>
      answerOp (frameTable clu) p op fun x =>
        match cont with
        | some _ => { x with out := .known (mkTag g 0), wait := .none }
        | none => { x with wait := .none, outs := outOf (v.bind fun y => y.d0.map (·.val)) (ofWord (nat64 (g * 64))) false false
                             ++ x.outs })]

/-- A frame operation waits in its table. -/
def waitFrame (q : FrameReq) : Prog :=
  withId fun k => fun s => [.chip { s.chip with fwaits := s.chip.fwaits ++ [⟨k, q, s.fc⟩] }]
def dropWait (k : Nat) : Prog := upd fun c => { c with fwaits := c.fwaits.filter fun x => x.id ≠ k }
def waitAt (s : State) (k : Nat) : Option FrameWait := s.chip.fwaits.find? fun x => x.id = k

/-- What an FFREE or a RET finds in the record of its frame: an error of control, or nothing (R89, R93). -/
def freeRefused (r : FrameRec) (ret : Option Word) : Bool :=
  !r.val || (match ret with | some b => !r.cv || b != r.cont | none => false)

/-! ## Tags that are waited for (R70, R71, R90) -/

/-- A tag is given: the record has it, and the answer goes to the element that asked. -/
def giveTag (q : FrameReq) : Prog :=
  match q with
  | .next f t p op => reading (frameAt · f) fun r => andThen (takeNext f t)
      (answerOp (frameTable (cluster (frameDie f) (frameClu f))) p op fun y => { y with out := .known (mkTag f (nextTag r t)) })
  | .loop f _ _ _ p id => reading (fun s => (frameAt s f, s.fc)) fun x => andThen (updFrame f (.take (tagAsked x.1 q)))
      (updElem p fun e => { e with loops := replaceIf (fun y => y.id = id) (fun y => { y with
        given := some (tagAsked x.1 q),
        due := max y.due (x.2 + latency (frameTable (cluster (frameDie f) (frameClu f))) p) }) e.loops })
  | _ => skip

/-- A NEXT or a LOOPN emission at its table: it has its tag at once, or waits for it behind those that wait for the same tag. -/
def askForTag (f : Nat) (q : FrameReq) : Prog :=
  reading (fun s => (frameAt s f, s)) fun x =>
    let first := !(x.2.chip.fwaits.any fun w => w.q.tagFrame == some f && tagAsked x.1 w.q == tagAsked x.1 q)
    let taken := match q with | .next _ t _ _ => x.1.succm.getLsbD t | _ => false
    if tagOpen x.1 q && (first || taken) then giveTag q
    else andThen (waitFrame q) (match q with
      | .next _ _ p op => updOp p op fun y => { y with out := .waits }
      | _ => skip)

/-- One frame operation at its table. -/
def doFrameReq (q : FrameReq) : Prog :=
  match q with
  | .release f t => updFrame f (.drop t)
  | .next f _ _ _ => askForTag f q
  | .loop f _ _ _ _ _ => askForTag f q
  | .parent f p op =>
    reading (frameAt · f) fun r =>
      answerOp (frameTable (cluster (frameDie f) (frameClu f))) p op fun y =>
        { y with out := .known (if r.val then r.parent else noTag) }
  | .alloc r decl logk tag cont p op =>
    reading (fun s => (grantOf s (cluOf p) r decl, s.chip.fwaits.any fun w => grantKey w == some (r, decl) &&
        waitCluster w == cluOf p)) fun x =>
      match x with
      | (some g, false) => grantFrame (cluOf p) r decl logk tag cont p op g
      | _ => waitFrame q
  | .free f t ret p op =>
    reading (fun s => ((frameAt s f), opAt s p op)) fun x =>
      if freeRefused x.1 ret then
        andThen (forSome x.2 fun o => raiseError p codeEctrl o.entry o.tag 0) (dropOp p op)
      else seqAll [
        updFrame f (.drop t),
        forSome ret fun b => answerOp (frameTable (cluster (frameDie f) (frameClu f))) p op fun y =>
          { y with wait := .none, out := .known (b.extractLsb' 0 23) },
        waitFrame q]

/-- FRAME_OPERATION. -/
def frameOperation (k : Nat) : Prog :=
  reading (msgAt · k) fun m => forSome m fun m => forSome (frameReqOf m.body) fun q =>
    seqAll [dropMsg k, useTable (cluOf m.dst), doFrameReq q]

/-- The operation that waits is for a frame or a tag. -/
def FrameReq.takes (q : FrameReq) : Bool :=
  match q with
  | .alloc .. => true
  | .next .. => true
  | .loop .. => true
  | _ => false

/-- FRAME_GRANT may be made: a waiting FALLOC, CALL, NEXT or LOOPN emission has its frame or tag, and it is its table's turn. -/
def frameGrantEnabled (s : State) (k : Nat) : Bool :=
  match waitAt s k with
  | none => false
  | some w => w.q.takes && waitTurn s w

/-- FRAME_GRANT (R70, R88, R90). -/
def frameGrant (k : Nat) : Prog :=
  reading (fun s => (s, waitAt s k)) fun x => forSome x.2 fun w => seqAll [
    useTable (waitCluster w),
    dropWait k,
    match w.q with
    | .alloc r decl logk tag cont p op =>
      forSome (grantOf x.1 (cluOf p) r decl) fun g => grantFrame (cluOf p) r decl logk tag cont p op g
    | q => giveTag q]

/-- FRAME_RELEASE may be made: the frame of a waiting FFREE or RET has no iteration tag, no memory operation and no held
result or LOOPN record, and it is its table's turn (R64, R89). -/
def frameReleaseEnabled (s : State) (k : Nat) : Bool :=
  match waitAt s k with
  | none => false
  | some w =>
    match w.q with
    | .free .. => waitTurn s w
    | _ => false

/-- Every element of the frame's region is told to drop what it holds of the frame (R89). -/
def beginPurge (f : Nat) : Prog :=
  reading (fun s => (regionOfFrame s f, frameAt s f, s)) fun x =>
    match x.1 with
    | none => updFrame f .reset
    | some r =>
      let left := regionElems x.2.2 r
      seqAll [
        upd (fun c => { c with purges := c.purges ++ [⟨f, r.id, x.2.1.decl, left⟩] }),
        forEach left fun p => control (frameTable (cluster (frameDie f) (frameClu f))) p (.purge f),
        onlyIf (r.rootFrame == some f) (andThen (updRegion r.id fun y => { y with rootFreed := true })
          (forEach (r.reserved.filter fun g => g ≠ f ∧ (frameAt x.2.2 g).yld) fun g => parkFrame g (.yld false)))]

/-- FRAME_RELEASE (R89, R93): the purge begins, VAL is cleared, and the answer lets FFREE send to the parent tag; RET has sent its
token when its continuation was checked. -/
def frameRelease (k : Nat) : Prog :=
  reading (fun s => (s, waitAt s k)) fun x => forSome x.2 fun w =>
    match w.q with
    | .free f _ ret p op =>
      seqAll [
        useTable (waitCluster w),
        dropWait k,
        beginPurge f,
        updFrame f .retire,
        onlyIf ret.isNone (answerOp (frameTable (cluster (frameDie f) (frameClu f))) p op fun y =>
          { y with wait := .none, out := .known (frameAt x.1 f).parent })]
    | _ => skip

/-! ## Purges (R89) -/

/-- A purge has reached an element. -/
def purgeReached (s : State) (k : Nat) : Bool := delivered s k fun b => match b with | .purge _ => true | _ => false

/-- FRAME_PURGE: the element drops the frame's slots, entries and cellar records, sets OPLEFT if an operand was among
them, and acknowledges. -/
def framePurge (k : Nat) : Prog :=
  reading (fun s => (s, msgAt s k)) fun x => forSome x.2 fun m =>
    match m.body with
    | .purge f =>
      let p := m.dst
      let left := (elemAt x.1 p).slots.any fun y => frameOf y.tag == f
      seqAll [
        dropMsg k,
        updElem p (fun e => { markBanks ((classOf p).getD .s) (e.entries.filter fun y => y.fid = f ∧ holdsWay y) e with
          slots := e.slots.filter (fun y => frameOf y.tag ≠ f), entries := e.entries.filter (fun y => y.fid ≠ f) }),
        onlyIf left (reading (regionOf · p) fun r => forSome r fun r => setRflag r.id 3),
        control p (frameTable (cluster (frameDie f) (frameClu f))) (.purgeAck f p)]
    | _ => skip

/-- An acknowledgement has reached the frame table. -/
def ackReached (s : State) (k : Nat) : Bool := delivered s k fun b => match b with | .purgeAck _ _ => true | _ => false

/-- The end of a purge: the record resets, the index and the quota return together (R89). -/
def endPurge (x : Purge) : Prog :=
  seqAll [
    upd (fun c => { c with purges := c.purges.filter fun y => y.f ≠ x.f }),
    updFrame x.f .reset,
    updRegion x.r (changeQuota (cluster (frameDie x.f) (frameClu x.f)) x.decl fun n => n - 1)]

/-- PURGE_ACKNOWLEDGED: the last acknowledgement ends the purge. -/
def purgeAcknowledged (k : Nat) : Prog :=
  reading (fun s => (s, msgAt s k)) fun x => forSome x.2 fun m =>
    match m.body with
    | .purgeAck f p =>
      andThen (dropMsg k) (forSome (x.1.chip.purges.find? fun y => y.f = f) fun y =>
        let left := y.left.filter fun q => q ≠ p
        if left.isEmpty then endPurge y
        else upd fun c => { c with purges := replaceIf (fun z => z.f = f) (fun z => { z with left := left }) c.purges })
    | _ => skip

/-! ## Parking (R73) -/

/-- A change of parking has reached an element. -/
def parkReached (s : State) (k : Nat) : Bool := delivered s k fun b => match b with | .park _ _ => true | _ => false

/-- PARK_CHANGE: the element takes the frame's parking as its table carries it. -/
def parkChange (k : Nat) : Prog :=
  reading (msgAt · k) fun m => forSome m fun m =>
    match m.body with
    | .park f v => andThen (dropMsg k) (updElem m.dst fun e =>
        { e with parked := if v.parks then setKey f v e.parked else delKey f e.parked })
    | _ => skip

/-! ## LOOPN (R90) -/

/-- A LOOPN record of an element. -/
def loopAt (s : State) (p : Pos) (k : Nat) : Option LoopRec := (elemAt s p).loops.find? fun x => x.id = k

/-- Whether the record's next emission is its exit. -/
def LoopRec.atExit (l : LoopRec) : Bool := l.n ≤ l.i

/-- The destination of the next emission: D0 for an iteration, D1 for the exit. -/
def LoopRec.out (l : LoopRec) : List Out :=
  outOf (if l.atExit then l.d1 else l.d0) (ofWord (l.base + nat64 l.i)) false false

/-- LOOPN_EMISSION may be made: the emission has its tag, which its frame table has given: iteration 0 and the exit of an empty loop have
the firing's own. -/
def loopEnabled (s : State) (p : Pos) (k : Nat) : Bool :=
  match loopAt s p k with
  | none => false
  | some l =>
    !halted s p && l.due ≤ s.fc && !tagParked s p l.tag && l.given.isSome && heldEntry s p l.entry l.id l.tag != .wait &&
      roomFor s p l.out

/-- LOOPN_EMISSION: one iteration or the exit (R90); the record ends with the exit, or its frame table is asked for the tag of the next
emission (R64). -/
def loopEmission (p : Pos) (k : Nat) : Prog :=
  reading (fun s => (s, loopAt s p k)) fun x => forSome x.2 fun l =>
    match heldEntry x.1 p l.entry l.id l.tag with
    | .go =>
      let f := frameOf l.tag
      let c := (classOf p).getD .s
      let mark := fun (e : Elem) => markBanks c (entriesOf e (keyOf c false l.entry 3 l.tag)) e
      andThen (placeOuts p (mkTag f (l.given.getD 0)) l.out)
        (if l.atExit then
          andThen (updElem p fun e => dropEmpty c { mark e with loops := e.loops.filter fun y => y.id ≠ k })
            (updFrame f (.pend false))
        else
          andThen (updElem p fun e => { mark e with
              loops := replaceIf (fun y => y.id = k) (fun y => { y with i := y.i + 1, given := none, due := x.1.fc + 1 }) e.loops })
            (control p (frameTable (cluster (frameDie f) (frameClu f)))
              (.frame (.loop f (iterOf l.tag) (l.i + 1) (decide (l.n ≤ l.i + 1)) p k))))
    | n => recallEntry p l.id n

/-! ## The steps of the frame table -/

/-- FRAME_OPERATION (R64). -/
def execFrameOperation (m : Nat) (s : State) : Host.Outcome State Fault Refusal :=
  actWhen (frameOpEnabled s m) "FRAME_OPERATION" (frameOperation m) s
/-- LOOPN_EMISSION (R90). -/
def execLoopnEmission (p : Pos) (k : Nat) (s : State) : Host.Outcome State Fault Refusal :=
  actWhen (loopEnabled s p k) "LOOPN_EMISSION" (loopEmission p k) s
/-- FRAME_GRANT (R88). -/
def execFrameGrant (w : Nat) (s : State) : Host.Outcome State Fault Refusal :=
  actWhen (frameGrantEnabled s w) "FRAME_GRANT" (frameGrant w) s
/-- FRAME_RELEASE (R89). -/
def execFrameRelease (w : Nat) (s : State) : Host.Outcome State Fault Refusal :=
  actWhen (frameReleaseEnabled s w) "FRAME_RELEASE" (frameRelease w) s
/-- PURGE_ACKNOWLEDGED (R89). -/
def execPurgeAcknowledged (m : Nat) (s : State) : Host.Outcome State Fault Refusal :=
  actWhen (ackReached s m) "PURGE_ACKNOWLEDGED" (purgeAcknowledged m) s
/-- PARK_CHANGE (R73). -/
def execParkChange (m : Nat) (s : State) : Host.Outcome State Fault Refusal :=
  actWhen (parkReached s m) "PARK_CHANGE" (parkChange m) s
/-- FRAME_PURGE (R89). -/
def execFramePurge (m : Nat) (s : State) : Host.Outcome State Fault Refusal :=
  actWhen (purgeReached s m) "FRAME_PURGE" (framePurge m) s

end Sys2Proof.Machine
end

