-- ==== Sys2Proof/Machine/Control.lean ====
section
/-! DEFINITION. The meanings of the instructions that move tokens and make frames (spec/03 R83 to R95): MOV, STEER, MERGE,
JOIN, FALLOC, FFREE, LOOPN, CALL, RET, YIELD, TRAP and ASSERT. -/

namespace Sys2Proof.Machine

open Sys2Proof

/-- Whether an element's own results are wide: MOV, STEER and MERGE on V (R169). -/
def wideHere (f : Firing) : Bool := classOf f.pos == some .v

/-- A value sent on with the outgoing tag, the spec giving no latency (R84, assumption 5). -/
def forward (op : Nat) (ta : TagAction) (b : Wide) (outs : List Out) (f : Firing) : Prog :=
  sendAfter f op ta b none outs 0

/-- A firing that raises a region error: nothing it would send is sent (R10, R95). -/
def failFiring (f : Firing) (code : Nat) (value : Word) : Prog :=
  seqAll [
    (fun s => updElem f.pos (fun e => { e with lastFire := some s.fc }) s),
    raiseError f.pos code f.entry f.tag value,
    endFiring]

/-- MOV (R84). -/
def moveValue (o : Ops2) (f : Firing) : Prog := fun s =>
  forward 0x01 o.ta (sideB s f o.sb) (bothOuts o.d0 o.d1 (sideA s f o.sa) (wideHere f)) f s

/-- STEER: to D0 when any bit of B is 1, else to D1 (R85). R425 gives its latency: the LD that a STEER of the printed run feeds leaves 6 fc
after the STEER's operand arrives, and 24 with an 18 fc division between them (DEDUCED, assumption 116). -/
def steerValue (o : Ops2) (f : Firing) : Prog := fun s =>
  sendAfter f 0x02 o.ta (sideB s f o.sb) (some 6)
    (outOf (dstNat (if sideB s f o.sb != 0 then o.d0 else o.d1)) (sideA s f o.sa) (wideHere f) false) 0 s

/-- MERGE: the payload of the token that arrived, on whichever side it did (R86). -/
def mergeValue (o : Ops2) (f : Firing) : Prog :=
  forward 0x03 o.ta 0 (bothOuts o.d0 o.d1 f.a (wideHere f)) f

/-- JOIN: the sum of the side-B arrivals, which the firing has as its B (R87). -/
def joinValue (o : OpsJoin) (f : Firing) : Prog :=
  forward 0x04 .keep 0 (bothOuts o.d0 o.d1 f.b false) f

/-- The region of an element, by number. -/
def regionId (s : State) (p : Pos) : Nat := ((regionOf s p).map (·.id)).getD 0

/-- A firing that asks the frame table and sends when it is answered. -/
def askFrame (f : Firing) (op : Nat) (ta : TagAction) (b : Wide) (outs : List Out) (table : Pos) (q : Nat → FrameReq) :
    Prog :=
  issueOp f ⟨op, ta, b, some 0, outs, 0, .reply, false⟩ fun k => control f.pos table (.frame (q k))

/-- FALLOC: a frame of the declaration in the descriptor; A goes to D1, the frame's tag 0 to D0 (R68, R88). -/
def allocFrame (o : OpsFrame) (f : Firing) : Prog := fun s =>
  let b := lowWord (sideB s f (.c o.sb))
  askFrame f 0x05 o.ta (sideB s f (.c o.sb)) (outOf (dstNat o.d1) (sideA s f o.sa) false false) (frameTable f.pos)
    (fun k => .alloc (regionId s f.pos) (field b 5 0) (field b 10 8) f.tag none f.pos k) s

/-- The continuation of a call: the fields of D1's route entry and the caller's tag (R92). -/
def continuation (route : Word) (tag : Tag) : Word :=
  let p := routePos route
  place (routeVc route) 51 ||| place p.die 49 ||| place p.clu 44 ||| place p.unit 38 ||| place p.elem 33 |||
    place (routeInstr route) 25 ||| place (routeSide route) 23 ||| tag.zeroExtend 64

/-- The route word that a continuation names (R92, R93). -/
def contRoute (c : Word) : Word :=
  routeTo ⟨field c 50 49, field c 48 44, field c 43 38, field c 37 33⟩ (field c 32 25) (field c 24 23) (field c 55 51) false

/-- CALL: the argument on D0's entry and the continuation on the next, with the callee's tag 0 (R91). -/
def callFrame (o : OpsCall) (f : Firing) : Prog := fun s =>
  let b := lowWord (sideB s f (.c o.sb))
  let t := tablesAt s f.pos
  let cont := continuation (t.route ((dstNat o.d1).getD 31)) f.tag
  let outs := match dstNat o.d0 with
    | some d => [⟨d, sideA s f o.sa, false, false, true, none⟩, ⟨d + 1, ofWord cont, false, false, true, none⟩]
    | none => []
  askFrame f 0x08 .keep 0 outs (frameTable f.pos)
    (fun k => .alloc (regionId s f.pos) (field b 5 0) (field b 10 8) f.tag (some cont) f.pos k) s

/-- The table that holds a firing's frame. -/
def tableOf (f : Firing) : Pos := frameTable (cluster (frameDie (frameOf f.tag)) (frameClu (frameOf f.tag)))

/-- FFREE: frees the firing's frame; A goes on with the parent's tag (R89). -/
def freeFrame' (o : OpsKeep) (f : Firing) : Prog := fun s =>
  askFrame f 0x06 .keep 0 (bothOuts o.d0 o.d1 (sideA s f o.sa) false) (tableOf f)
    (fun k => .free (frameOf f.tag) (iterOf f.tag) none f.pos k) s

/-- RET: checks the continuation, frees the frame and sends A to the return point (R93). -/
def returnValue (o : OpsSink) (f : Firing) : Prog := fun s =>
  let b := lowWord (sideB s f o.sb)
  askFrame f 0x09 .keep 0 [⟨31, sideA s f o.sa, false, false, true, some (contRoute b)⟩] (tableOf f)
    (fun k => .free (frameOf f.tag) (iterOf f.tag) (some b) f.pos k) s

/-- The iteration tag of a LOOPN's first emission, which it takes unasked: t0 mod k of iteration 0, t0 of the exit of an empty loop (R90). -/
def firstTag (n t0 : Nat) (r : FrameRec) : Nat := if n = 0 then t0 else t0 % 2 ^ r.logk

/-- LOOPN: a record that emits the iterations and the exit (R79, R90); it does not fire while the store has no place for
the record. -/
def loopOver (o : OpsKeep) (f : Firing) : Prog := fun s =>
  let c := (classOf f.pos).getD .s
  let k := keyOf c false f.entry 3 f.tag
  let n := (lowWord (sideA s f o.sa)).toNat % 2 ^ 32
  takingEntry f k
    (withLatency none fun l => withId fun id => seqAll [
      touchEntry f.pos c k,
      updFrame (frameOf f.tag) (.pend true),
      (fun s' => updElem f.pos (fun e => { e with
        loops := e.loops ++ [⟨id, f.entry, f.tag, n, 0, lowWord (sideB s f o.sb), dstNat o.d0, dstNat o.d1,
          some (firstTag n (iterOf f.tag) (frameAt s (frameOf f.tag))), s'.fc + l, s'.fc⟩],
        lastFire := some s'.fc }) s'),
      endFiring]) s

/-- YIELD: as MOV; while a yield is requested its frame is parked and the result held (R94), unless the root frame has been freed
(R352). -/
def yieldValue (o : Ops2) (f : Firing) : Prog := fun s =>
  let outs := bothOuts o.d0 o.d1 (sideA s f o.sa) false
  match regionOf s f.pos with
  | some r =>
    if r.yr && !r.rootFreed then
      andThen (parkFrame (frameOf f.tag) (.yld true))
        (withLatency none fun n => issueOp f ⟨0x0A, o.ta, sideB s f o.sb, some n, outs, 0, .yielding, false⟩ fun _ => skip) s
    else forward 0x0A o.ta (sideB s f o.sb) outs f s
  | none => forward 0x0A o.ta (sideB s f o.sb) outs f s

/-- TRAP (R95); on V the trap value is lanes 1 and 0. -/
def trapValue (sa : Src) (f : Firing) : Prog := fun s => failFiring f codeEtrap (lowWord (sideA s f sa)) s

/-- ASSERT (R95). -/
def assertValue (o : Ops2) (f : Firing) : Prog := fun s =>
  if lowWord (sideA s f o.sa) = 0 then failFiring f codeEtrap (lowWord (sideB s f o.sb)) s
  else forward 0x0C o.ta (sideB s f o.sb) (bothOuts o.d0 o.d1 (sideA s f o.sa) false) f s

/-- MOV (R84). -/
def execMov (o : Ops2) (s : State) : Host.Outcome State Fault Refusal := onFiring (moveValue o) s
/-- STEER (R85). -/
def execSteer (o : Ops2) (s : State) : Host.Outcome State Fault Refusal := onFiring (steerValue o) s
/-- MERGE (R86). -/
def execMerge (o : Ops2) (s : State) : Host.Outcome State Fault Refusal := onFiring (mergeValue o) s
/-- JOIN (R87). -/
def execJoin (o : OpsJoin) (s : State) : Host.Outcome State Fault Refusal := onFiring (joinValue o) s
/-- FALLOC (R88). -/
def execFalloc (o : OpsFrame) (s : State) : Host.Outcome State Fault Refusal := onFiring (allocFrame o) s
/-- FFREE (R89). -/
def execFfree (o : OpsKeep) (s : State) : Host.Outcome State Fault Refusal := onFiring (freeFrame' o) s
/-- LOOPN (R90). -/
def execLoopn (o : OpsKeep) (s : State) : Host.Outcome State Fault Refusal := onFiring (loopOver o) s
/-- CALL (R91). -/
def execCall (o : OpsCall) (s : State) : Host.Outcome State Fault Refusal := onFiring (callFrame o) s
/-- RET (R93). -/
def execRet (o : OpsSink) (s : State) : Host.Outcome State Fault Refusal := onFiring (returnValue o) s
/-- YIELD (R94). -/
def execYield (o : Ops2) (s : State) : Host.Outcome State Fault Refusal := onFiring (yieldValue o) s
/-- TRAP (R95). -/
def execTrap (sa : Src) (s : State) : Host.Outcome State Fault Refusal := onFiring (trapValue sa) s
/-- ASSERT (R95). -/
def execAssert (o : Ops2) (s : State) : Host.Outcome State Fault Refusal := onFiring (assertValue o) s

end Sys2Proof.Machine
end

