-- ==== Sys2Proof/Machine/Handles.lean ====
section
/-! DEFINITION. Handles (spec/08 R185 to R197): the fields of an entry, the copies of the handle table, how an offset becomes
bytes of a scratchpad, of a cluster SRAM or of virtual memory, owner tags and dirty bits, and placing storage. -/

namespace Sys2Proof.Machine

open Sys2Proof

/-! ## Entries (R187) -/

/-- An entry that was never written. -/
def HandleEntry.reset : HandleEntry := ⟨0, 0, 0, 0⟩

def HandleEntry.valid (e : HandleEntry) : Bool := e.w0.getLsbD 63
/-- 0 spad, 1 clu, 2 hbm (R187). -/
def HandleEntry.level (e : HandleEntry) : Nat := field e.w0 62 61
/-- 0 dense, 1 ring, 2 csr, 3 nm, 4 pat (R187). -/
def HandleEntry.kind (e : HandleEntry) : Nat := field e.w0 60 58
def HandleEntry.fmt (e : HandleEntry) : Nat := field e.w0 57 54
def HandleEntry.dyn (e : HandleEntry) : Bool := e.w0.getLsbD 53
def HandleEntry.rep (e : HandleEntry) : Bool := e.w0.getLsbD 52
def HandleEntry.part (e : HandleEntry) : Nat := field e.w0 51 49
/-- The home tile or cluster (R187). -/
def HandleEntry.home (e : HandleEntry) : Pos := ⟨field e.w0 48 47, field e.w0 46 42, field e.w0 41 36, 0⟩
def HandleEntry.rows (e : HandleEntry) : Nat := field e.w0 31 16
def HandleEntry.cols (e : HandleEntry) : Nat := field e.w0 15 0
def HandleEntry.firstBank (e : HandleEntry) : Nat := field e.w1 7 0
def HandleEntry.bankCount (e : HandleEntry) : Nat := 2 ^ field e.w1 10 8
def HandleEntry.cluOffset (e : HandleEntry) : Nat := field e.w1 23 0
def HandleEntry.va (e : HandleEntry) : Nat := field e.w1 56 0
/-- The extent in bytes (R193). -/
def HandleEntry.ext (e : HandleEntry) : Nat := field e.w2 47 0
def HandleEntry.ptr (e : HandleEntry) : Nat := field e.w3 63 56
def HandleEntry.idx (e : HandleEntry) : Nat := field e.w3 55 48
def HandleEntry.vals (e : HandleEntry) : Nat := field e.w3 47 40
def HandleEntry.metaH (e : HandleEntry) : Nat := field e.w3 39 32
def HandleEntry.pat (e : HandleEntry) : Nat := field e.w3 31 27

/-- W0 from its fields (R187). -/
def handleW0 (valid : Bool) (level kind fmt : Nat) (dyn rep : Bool) (part : Nat) (home : Pos) (rows cols : Nat) : Word :=
  placeBit valid 63 ||| place level 61 ||| place kind 58 ||| place fmt 54 ||| placeBit dyn 53 ||| placeBit rep 52 |||
    place part 49 ||| place home.die 47 ||| place home.clu 42 ||| place home.unit 36 ||| place rows 16 ||| place cols 0

/-- A word with bits hi down to lo replaced. -/
def putField (w : Word) (hi lo v : Nat) : Word :=
  (w &&& ~~~(place (2 ^ (hi + 1 - lo) - 1) lo)) ||| place (v % 2 ^ (hi + 1 - lo)) lo

/-- Bits of an element of a format (R48, R187): RAW takes 64. -/
def elemBits (f : Fmt) : Nat := if f = .raw then 64 else fmtBits f

/-- The size in bytes of a shape (R187). -/
def shapeSize (f : Fmt) (rows cols : Nat) : Nat := (rows * cols * elemBits f + 7) / 8

def levelNum : HLevel → Nat
  | .spad => 0
  | .clu => 1
  | .hbm => 2

def kindNum : HKind → Nat
  | .dense => 0
  | .ring => 1
  | .csr => 2
  | .nm => 3
  | .pat => 4

/-- The format code of an entry. -/
def HandleEntry.format (e : HandleEntry) : Fmt := (decodeFmt? (BitVec.ofNat 4 e.fmt)).getD .raw

/-! ## The copies of a table (R185) -/

/-- The entry of a region's table as it stands in the home cluster. -/
def handleHome (r : Region) (h : Nat) : HandleEntry := getKey HandleEntry.reset h r.handles

/-- The entry in the copy of a tile, an access processor or a memory port: the old one until the change has reached it. -/
def handleAt (r : Region) (place : Pos) (h : Nat) : HandleEntry :=
  match r.stale.find? fun x => x.1 = unitOf place ∧ x.2.1 = h with
  | some x => x.2.2
  | none => handleHome r h

/-- The declaration of a handle in any configuration of a region's image (R96). -/
def declOf (r : Region) (h : Nat) : Option HandleDecl := (r.image.configs.flatMap (·.handles)).find? fun d => d.num = h

/-- The clusters a region touches. -/
def regionClusters (r : Region) : List Pos := distinct (r.units.map cluOf)

/-- The places that hold a copy of a region's table (R185). -/
def copyPlaces (r : Region) : List Pos := r.units ++ (regionClusters r).map memoryPort

/-- Change an entry in the home cluster and send the change to every copy; `p` and `op` name the operation that waits for
the copies (R185). -/
def changeHandle (r : Region) (h : Nat) (e : HandleEntry) (p : Pos) (op : Nat) : Prog :=
  let places := copyPlaces r
  andThen
    (updRegion r.id fun x =>
      { x with stale := x.stale ++ (places.map fun q => (q, h, handleAt r q h)).filter
                 (fun y => !(x.stale.any fun z => z.1 = y.1 ∧ z.2.1 = y.2.1)),
               handles := setKey h e x.handles,
               hwait := x.hwait ++ [(h, places, p, op)] })
    (forEach places fun q => control (controlPoint r.homeClu) q (.handle r.id h e))

/-! ## On-chip bytes (R189 to R192) -/

/-- The number of a tile among all tiles. -/
def tileNo (p : Pos) : Nat := (p.die * 20 + p.clu) * 32 + p.unit

/-- The address, among all scratchpads, of byte x of a spad handle on a tile (R191). -/
def spadAddr (e : HandleEntry) (tile : Pos) (x : Nat) : Nat :=
  let l := x / 32
  tileNo tile * spadBytes + (e.firstBank + l % e.bankCount) * 2048 + (l / e.bankCount) * 32 + x % 32

/-- The address, among all SRAMs, of byte x of a clu handle: its partition lies at the SRAM's lowest addresses
(assumption 23). -/
def sramAddr (e : HandleEntry) (clu : Pos) (x : Nat) : Nat := cluNo clu * sramBytes + e.cluOffset + x

/-- Line numbers of a range of addresses. -/
def linesOf (a n : Nat) : List Nat := if n = 0 then [] else (List.range ((a + n - 1) / 32 + 1 - a / 32)).map (a / 32 + ·)

/-- The scratchpad that serves a spad handle for an element: its home tile; for a replicated one the element's own tile,
and for an access processor the region tile of lowest number in its cluster (R270). -/
def spadHome (r : Region) (e : HandleEntry) (p : Pos) : Pos :=
  if e.rep then
    if p.unit < 32 then unitOf p
    else ((r.rects.flatMap fun x => rectTiles x.1 x.2).find? fun t => cluOf t = cluOf p).getD (unitOf p)
  else e.home

/-- The cluster that serves a clu handle for an element (R270). -/
def cluHome (e : HandleEntry) (p : Pos) : Pos := if e.rep then cluOf p else cluOf e.home

/-- The owner tag of a line (R195): that of the latest range that holds it. -/
def ownerOf (tags : List (Nat × Nat × Nat)) (l : Nat) : Nat :=
  ((tags.find? fun x => x.1 ≤ l && l < x.1 + x.2.1).map fun x => x.2.2).getD 0

/-- The tags with a range of lines given an owner; ranges that it covers go. -/
def setOwner (lo n o : Nat) (tags : List (Nat × Nat × Nat)) : List (Nat × Nat × Nat) :=
  if n = 0 then tags else (lo, n, o) :: tags.filter fun x => !(lo ≤ x.1 && x.1 + x.2.1 ≤ lo + n)

/-- The tags with the lines of an address range given an owner. -/
def tagRange (a n o : Nat) (tags : List (Nat × Nat × Nat)) : List (Nat × Nat × Nat) :=
  setOwner (a / 32) (linesOf a n).length o tags

/-- Whether every line of a range has a partition's tag (R195); a line never tagged has tag 0 (assumption 20). -/
def ownsLines (tags : List (Nat × Nat × Nat)) (part a n : Nat) : Bool := (linesOf a n).all fun l => ownerOf tags l == part

/-- A read of on-chip bytes: zeros where a line belongs to another partition (R195). -/
def readChip (mem : Memory) (tags : List (Nat × Nat × Nat)) (part a n : Nat) : List Byte :=
  if ownsLines tags part a n then mem.bytes a n else List.replicate n 0

/-- A write of scratchpad bytes: a line of another partition is cleared where the write does not cover it and takes the
writer's tag, and the lines become dirty (R195, R196). -/
def writeSpad (part a : Nat) (v : List Byte) : Prog := fun s =>
  let ls := linesOf a v.length
  let foreign := ls.filter fun l => ownerOf s.chip.spadOwner l != part
  foreign.map (fun l => Eff.clearSpad (l * 32) 32) ++
    [.spad a v, .chip { s.chip with
      spadOwner := foreign.foldl (fun m l => setOwner l 1 part m) s.chip.spadOwner,
      spadDirty := ls.foldl (fun m l => insertNew l m) s.chip.spadDirty }]

/-- A write of cluster SRAM bytes (R195). -/
def writeSram (part a : Nat) (v : List Byte) : Prog := fun s =>
  let ls := linesOf a v.length
  let foreign := ls.filter fun l => ownerOf s.chip.sramOwner l != part
  foreign.map (fun l => Eff.clearSram (l * 32) 32) ++
    [.sram a v, .chip { s.chip with sramOwner := foreign.foldl (fun m l => setOwner l 1 part m) s.chip.sramOwner }]

/-! ## Rings and pushes (R198 to R200) -/

/-- The entry that a ring's tile has of the ring's handle, while it is one a ring can use: valid, of kind ring, with its storage on that
tile (R198, R207). -/
def ringEntry (s : State) (g : Ring) : Option (Region × HandleEntry) :=
  (regionOf s g.tile).bind fun r =>
    let e := handleAt r g.tile g.handle
    if e.valid ∧ e.kind = 1 ∧ e.level = 0 ∧ spadHome r e g.tile = unitOf g.tile then some (r, e) else none

/-- Slots written and not freed; slots written and not read (R199). -/
def Ring.held (g : Ring) : Nat := (g.tail - g.head).toNat
def Ring.unread (g : Ring) : Nat := (g.tail - g.rdp).toNat

/-- Slots that the consumer can read: none once the ring's handle has been freed (R199, R207). -/
def ringUnread (s : State) (g : Ring) : Nat := if (ringEntry s g).isSome then g.unread else 0

/-- The offsets of a slot's bytes. -/
def slotOffsets (g : Ring) (j : Nat) : List Nat := (List.range g.size).map (j * g.size + ·)

/-- The lines of slot position j as a matrix element reads them (R193). -/
def slotLines (s : State) (g : Ring) (j : Nat) : List Nat :=
  match ringEntry s g with
  | none => []
  | some (_, e) => distinct ((slotOffsets g j).map fun o => spadAddr e g.tile (o % e.ext) / 32)

/-- A push. -/
def pushAt (s : State) (k : Nat) : Option Push := s.chip.pushes.find? fun x => x.id = k

/-- A push comes before another at its ring: it arrived before, or in the same fc from a lower source, or earlier from the same one
(R200). -/
def pushBefore (x y : Push) : Bool :=
  x.tile == y.tile && x.q == y.q &&
    (x.due < y.due || (x.due == y.due && (posKey x.src < posKey y.src || (x.src == y.src && x.id < y.id))))

/-- Whether a ring has room for n more slots. -/
def ringRoom (g : Ring) (n : Nat) : Bool := g.held + n ≤ g.count

/-! ## Placing storage (R190, R192) -/

/-- The smallest power of two, from 2^0 to 2^limit, that is at least n. -/
def ceilLog2 : Nat → Nat → Nat → Nat
  | 0, k, _ => k
  | fuel + 1, k, n => if n ≤ 2 ^ k then k else ceilLog2 fuel (k + 1) n

/-- log2 of the banks a spad handle takes: enough for its size, at least `banks=`, at most 128 (R190). -/
def bankLog (size banks : Nat) : Nat := max (ceilLog2 7 0 ((size + 2047) / 2048)) (ceilLog2 7 0 banks)

/-- The valid entries of every region that hold storage on a tile (spad) or in a cluster (clu). -/
def spadHolders (s : State) (tile : Pos) : List HandleEntry :=
  s.chip.regions.flatMap fun r => (r.handles.map (·.2)).filter fun e =>
    e.valid && e.level == 0 && (if e.rep then r.units.contains (unitOf tile) else e.home == unitOf tile)
def cluHolders (s : State) (clu : Pos) : List HandleEntry :=
  s.chip.regions.flatMap fun r => (r.handles.map (·.2)).filter fun e =>
    e.valid && e.level == 1 && (if e.rep then (regionClusters r).contains (cluOf clu) else cluOf e.home == cluOf clu)

/-- Bank b of a tile is allocated to one of some entries (R189). -/
def bankUsed (hs : List HandleEntry) (b : Nat) : Bool := hs.any fun e => e.firstBank ≤ b && b < e.firstBank + e.bankCount

/-- The lowest fitting block of 2^j banks that is free in every one of some tiles (R190). -/
def findBanks (holders : List (List HandleEntry)) (j : Nat) : Option Nat :=
  ((List.range (192 / 2 ^ j)).map (· * 2 ^ j)).find? fun b =>
    holders.all fun hs => (List.range (2 ^ j)).all fun i => !bankUsed hs (b + i)

/-- Bytes of the block a clu handle takes: a power of two from 64 KiB up (R192). -/
def cluBlock (size : Nat) : Nat := 65536 * 2 ^ ceilLog2 8 0 ((size + 65535) / 65536)

/-- The lowest free aligned block of a size in every one of some clusters' handle partitions (R192). -/
def findBlock (s : State) (clus : List Pos) (block : Nat) : Option Nat :=
  ((List.range ((sramBytes / block))).map (· * block)).find? fun b =>
    clus.all fun c => b + block ≤ handlePartition s c &&
      (cluHolders s c).all fun e => e.cluOffset + e.ext ≤ b || b + block ≤ e.cluOffset

end Sys2Proof.Machine
end

