-- ==== Sys2Proof/WellFormed.lean ====
section
/-! DEFINITION. When an instruction is one the loader accepts on some element of a class (spec/02 R51 step 4, the checks
that need no table around the instruction): ECLASS (R50), ESEL (R38, R44 to R47), ETA (R40, R41), EFIRE (R30, R38). A
step of the part is no instruction word and is not well formed. -/

namespace Sys2Proof

/-- The first check of R51 step 4 that an instruction fails on an element class, of those that need no table. -/
def Instr.check (c : ElemClass) (i : Instr) : Option InstallCode :=
  match i.view with
  | none => some .eopc
  | some v =>
    if !((classesOf v.op).contains c) then some .eclass
    else if !v.eselOk then some .esel
    else if !(v.etaOk && (classTaOk c v.ta)) then some .eta
    else if !v.fires then some .efire
    else none

/-- An instruction that passes every check of its own on class c. -/
def Instr.wellFormedOn (c : ElemClass) (i : Instr) : Bool := (i.check c).isNone

/-- What the words of an instruction may hold whatever its class: the instructions the decoder gives. -/
def Instr.wellFormed (i : Instr) : Bool :=
  match i.view with
  | none => false
  | some v => v.eselOk && v.etaOk

end Sys2Proof
end

