-- ==== Sys2Proof/Machine/Install.lean ====
section
/-! DEFINITION. The loader's checks (spec/02 R50 to R55, spec/04 R96 to R114) against a region as placed (R438): the order of
R51, and the install error word (R52, R53). -/

namespace Sys2Proof.Machine

open Sys2Proof

/-! ## The error word (R52, R53) -/

/-- A refused install: the code, the location and the detail (R52). -/
structure InstallError where
  code : InstallCode
  slot : Nat
  apr : Bool
  index : Nat
  elem : Nat
  entry : Nat
  detail : Nat
  deriving DecidableEq, Repr

/-- The value of an install code (R53). -/
def installNum : InstallCode → Nat
  | .eopc => 1
  | .eclass => 2
  | .esel => 3
  | .eta => 4
  | .eroute => 5
  | .elong => 6
  | .efire => 7
  | .erate => 8
  | .ecap => 9
  | .ecycle => 10
  | .ehdecl => 11
  | .evct => 12
  | .eslot => 13
  | .esig => 14
  | .egeom => 15

/-- The install error word (R52). -/
def installWord (e : InstallError) : Word :=
  place (installNum e.code) 56 ||| place e.slot 54 ||| placeBit e.apr 53 ||| place e.index 43 ||| place e.elem 38 |||
    place e.entry 30 ||| place (e.detail % 2 ^ 30) 0

/-- An error with no location (R52). -/
def bare (c : InstallCode) (detail : Nat) : InstallError := ⟨c, 0, false, 0, 0, 0, detail⟩

/-! ## The region as placed (R13 to R18, R438) -/

/-- Cluster ordinals of a die slot: its clusters in ascending number (R52). -/
def slotClusters (rects : List (Nat × Rect)) (slot : Nat) : List Nat :=
  match rects[slot]? with
  | some (die, q) => rectClusters die q
  | none => []

/-- The die slot whose rectangle lies on a die. -/
def slotOfDie (rects : List (Nat × Rect)) (die : Nat) : Option Nat := rects.findIdx? fun x => x.1 = die

/-- A claim of the shape in a cluster: access processors or mill contexts (R13). -/
def claimIn (claims : List (List Nat)) (rects : List (Nat × Rect)) (p : Pos) : Nat :=
  match slotOfDie rects p.die with
  | none => 0
  | some slot =>
    match (slotClusters rects slot).findIdx? fun c => c = p.clu with
    | some i => (claims.getD slot []).getD i 0
    | none => 0

/-- The clusters a region touches, as places. -/
def touched (rects : List (Nat × Rect)) : List Pos :=
  (List.range rects.length).flatMap fun slot =>
    match rects[slot]? with
    | some (die, _) => (slotClusters rects slot).map (cluster die)
    | none => []

/-- The tiles of a region, and its access processors by the claim: every unit it holds (R13, R16). -/
def tilesOf (rects : List (Nat × Rect)) : List Pos := rects.flatMap fun x => rectTiles x.1 x.2
def unitsOf (im : Image) (rects : List (Nat × Rect)) : List Pos :=
  tilesOf rects ++ (touched rects).flatMap fun c =>
    (List.range (claimIn im.ap rects c)).map fun a => ⟨c.die, c.clu, 32 + a, 0⟩

/-- Members in ascending order of a measure. -/
def sortInto {α : Type} (f : α → Nat) (x : α) : List α → List α
  | [] => [x]
  | y :: rest => if f x < f y then x :: y :: rest else y :: sortInto f x rest
def sortBy {α : Type} (f : α → Nat) : List α → List α
  | [] => []
  | x :: rest => sortInto f x (sortBy f rest)

/-- INDEX of the error word: the region tile, or 4 × cluster ordinal + access processor (R52). -/
def locIndex (rects : List (Nat × Rect)) (l : Loc) : Nat :=
  if l.apr then
    match locPos rects l with
    | some p => 4 * ((slotClusters rects l.slot).findIdx fun c => c = p.clu) + l.apn
    | none => l.apn
  else l.tile

/-- The order of the loader: die slots, tiles and elements, then access processors (R51). -/
def locOrder (rects : List (Nat × Rect)) (l : Loc) : Nat :=
  (l.slot * 2 + (if l.apr then 1 else 0)) * 2 ^ 20 + locIndex rects l * 32 + l.elem

/-- What one configuration is checked against. -/
structure LoadCtx where
  im : Image
  cf : ConfigImage
  rects : List (Nat × Rect)
  deriving DecidableEq, Repr

/-- An error at an entry of an element. -/
def LoadCtx.fail (x : LoadCtx) (e : ElemCode) (c : InstallCode) (entry detail : Nat) : InstallError :=
  ⟨c, e.loc.slot, e.loc.apr, locIndex x.rects e.loc, e.loc.elem, entry, detail⟩

/-- The place and the class of an element of the image. -/
def LoadCtx.posOf (x : LoadCtx) (e : ElemCode) : Pos := (locPos x.rects e.loc).getD ⟨0, 0, 63, 0⟩
def codeClass (e : ElemCode) : ElemClass :=
  if e.loc.apr then .a else if e.loc.elem < 16 then .s else if e.loc.elem = 16 then .v else if e.loc.elem = 17 then .m else .q

/-- The declaration of a handle of the image, by any configuration (R96). -/
def declIn (im : Image) (h : Nat) : Option HandleDecl := (im.configs.flatMap (·.handles)).find? fun d => d.num = h

/-- The ring slots an image binds, whichever configuration declares them (R45, R198); of two lines for one slot, the first. -/
def imageRings (im : Image) : List RingDecl :=
  (im.configs.flatMap (·.rings)).foldl
    (fun l g => if l.any fun y => y.slot = g.slot ∧ y.tile = g.tile ∧ y.q = g.q then l else l ++ [g]) []

/-- A ring slot declared on a tile of an image. -/
def ringIn (im : Image) (slot tile q : Nat) : Option RingDecl :=
  (imageRings im).find? fun r => r.slot = slot ∧ r.tile = tile ∧ r.q = q

/-! ## Routes (R19, R39, R99 to R102) -/

/-- The target of a route entry: a locator of the region, or a physical unit of it (R100). -/
def targetOf (im : Image) (rects : List (Nat × Rect)) (w : Word) : Option Pos :=
  let p :=
    if routeRel w then
      if (routePos w).die = 0 ∧ (routePos w).clu = 0 ∧ (routePos w).unit = 0 ∧ field w 11 0 = 0 ∧
          (w.getLsbD 24 ∨ field w 13 12 = 0) then
        locPos rects ⟨field w 26 25, w.getLsbD 24, field w 23 14, field w 13 12, (routePos w).elem⟩
      else none
    else if field w 26 0 = 0 then some (routePos w) else none
  p.bind fun q => if (unitsOf im rects).contains (unitOf q) then some q else none

/-- A route entry as installed: the physical target, REL and [26:0] clear (R100). -/
def installedRoute (im : Image) (rects : List (Nat × Rect)) (w : Word) : Word :=
  if !routeUsed w then 0
  else match targetOf im rects w with
    | some p => (w &&& 0xBFFFE00000000000#64) ||| place p.elem 40 ||| place p.unit 34 ||| place p.clu 29 ||| place p.die 27
    | none => 0

/-- The sides on which an A or Q element takes a wide operand (R298). -/
def wideSide (op side : Nat) : Bool := ((op == 0x93 || op == 0x95) && side == 1) || (op == 0xA5 && side == 0)

/-- The width of the token an instruction sends on D0 (0) or D1 (1) (R169, R213, R232, R238, R294). -/
def wideResult (c : ElemClass) (v : View) (d : Nat) : Bool :=
  if c = .v ∧ (v.op = 0x01 ∨ v.op = 0x02 ∨ v.op = 0x03 ∨ v.op = 0x9E) then true
  else if v.op = 0xBD ∨ v.op = 0xA7 then d == 0
  else if v.op = 0xB9 ∨ v.op = 0xBA ∨ v.op = 0xBB then d == 0 && (match v.ext with | .xx x => x.em | _ => false)
  else if 0x60 ≤ v.op ∧ v.op ≤ 0x87 then !(v.op == 0x70 || v.op == 0x71 || v.op == 0x83 || v.op == 0x87)
  else v.op == 0x92 || v.op == 0x94

/-- The sides of a word and its extension whose select is T, whatever else the word holds (R37, R38). -/
def wordSides (w y : Word32) : List Nat :=
  let op := (w.extractLsb' 24 8).toNat
  let third := if sideCInD1 op then w.extractLsb' 0 5 == 0 else formOf op == some .xv && y.extractLsb' 27 5 == 0
  (if w.extractLsb' 15 5 = 0 then [0] else []) ++ (if !oneSided op && w.extractLsb' 10 5 == 0 then [1] else []) ++
    (if third then [2] else [])

/-- What is wrong with a route entry itself: its target, its side, its chain bit (R39, R51, R100 to R102), and a wide route to
an element that takes no wide token there (R169, R298). -/
def routeFault (x : LoadCtx) (e : ElemCode) (k : Nat) : Option InstallCode :=
  let w := (codeTables e).route k
  if !routeUsed w || (k == 30 && routeChain w) then some .eroute
  else match targetOf x.im x.rects w with
    | none => some .eroute
    | some p =>
      match classOf p with
      | none => some .eroute
      | some c =>
        match codeAt x.rects x.cf p with
        | none => some .eroute
        | some t =>
          let i := routeInstr w
          if routeSide w = 3 then
            (if i ≥ 16 || !t.live.contains i || routeWide w != (c == .v) then some .eroute else none)
          else
            let tab := codeTables t
            if i ≥ tableSize c then some .eroute
            else if tab.isExt i then some .elong
            else if !tab.isInstr i then some .eroute
            else
              let op := ((tab.word i).extractLsb' 24 8).toNat
              let wideBad := routeWide w && (c == .s || c == .m || ((c == .a || c == .q) && !wideSide op (routeSide w)))
              if !(wordSides (tab.word i) (tab.word (i + 1))).contains (routeSide w) || wideBad then some .eroute else none

/-- The route entries a destination sends on: its own and those chained from it (R99). -/
def destChain (t : ElemTables) (d : Dst) : List Nat :=
  match d with
  | some k => (List.range (31 - k.val)).filterMap fun i =>
      if (List.range i).all fun j => routeChain (t.route (k.val + j)) then some (k.val + i) else none
  | none => []

/-- The destinations of a word, whatever else it holds (R35, R38). -/
def wordDests (w : Word32) : List Dst :=
  [decodeDst (w.extractLsb' 5 5), if sideCInD1 (w.extractLsb' 24 8).toNat then none else decodeDst (w.extractLsb' 0 5)]

/-- The route entries an instruction sends on, with the width of what it sends. -/
def sentRoutes (c : ElemClass) (t : ElemTables) (v : View) : List (Nat × Bool) :=
  ((destChain t v.d0).map fun r => (r, wideResult c v 0)) ++ (destChain t v.d1).map fun r => (r, wideResult c v 1)

/-- An instruction's sends keep to its element's route table: no destination or chain names an empty entry, and WIDE is the width
of the result (R39, R169, R232). -/
def sendsOk (c : ElemClass) (t : ElemTables) (v : View) : Bool :=
  (sentRoutes c t v).all fun r => routeUsed (t.route r.1) && routeWide (t.route r.1) == r.2

/-! ## Entries (R51 step 4) -/

/-- A frame descriptor matches a declaration, in an entry that is not live (R68). -/
def descOk (x : LoadCtx) (e : ElemCode) (sb : Src) : Bool :=
  match sb with
  | .c k =>
    let d := lowWord (getKey 0 k.val e.side)
    !e.live.contains k.val && (d &&& ~~~0x73F) == 0 &&
      (match x.cf.frames[field d 5 0]? with
        | some f => f.logk == field d 10 8
        | none => false)
  | _ => false

/-- The tiles of the region in an access processor's cluster, in order of region tile number (R247). -/
def apTiles (rects : List (Nat × Rect)) (p : Pos) : List (Nat × Nat) :=
  match slotOfDie rects p.die with
  | none => []
  | some slot => match rects[slot]? with
    | none => []
    | some (die, q) => ((List.range (q.w * q.h)).filter fun n => (rectTile die q n).clu = p.clu).map fun n => (slot, n)

/-- What an instruction's fields ask of the image around it: rings, contexts, descriptors, one MRG an element (R45, R204,
R220, R221, R247, R255). -/
def fieldsOk (x : LoadCtx) (e : ElemCode) (v : View) (mrgBefore : Bool) : Bool :=
  let ring := fun (q : BitVec 4) => ringIn x.im e.loc.slot e.loc.tile q.toNat
  let sized := fun (r : Option RingDecl) (l : List Nat) => match r with | some r => l.contains r.size | none => false
  let p := x.posOf e
  let unitRing := fun (uc q : Nat) => match (apTiles x.rects p)[uc]? with
    | some (slot, n) => sized (ringIn x.im slot n q) [64]
    | none => false
  match v.ext with
  | .xx m =>
    if v.op = 0xB8 then sized (ring m.qb) [64]
    else if 0xB9 ≤ v.op ∧ v.op ≤ 0xBB then sized (ring m.qa) (if m.nm then [64] else [48, 64]) && sized (ring m.qb) [64]
    else true
  | .xh m =>
    if v.op = 0xA5 then
      (match ringIn x.im e.loc.slot e.loc.tile (m.f.toNat % 16) with
        | some r => r.handle == m.h1.toNat
        | none => false)
    else if v.op = opMrg then !mrgBefore
    else true
  | .xs m =>
    if 0xC4 ≤ v.op ∧ v.op ≤ 0xC6 then decide (m.uc.toNat < claimIn x.im.mill x.rects p)
    else if v.op = 0xC7 then (m.mode.getLsbD 1 == false || unitRing m.uc.toNat (m.mode.toNat / 16 % 16))
    else if v.op = 0xC8 ∨ v.op = 0xC9 then unitRing m.uc.toNat (m.mode.toNat % 16)
    else true
  | _ => (v.op != 0x05 && v.op != 0x08) || descOk x e v.sb

/-- CALL's route entries (R91). -/
def callOk (t : ElemTables) (v : View) : Bool :=
  match v.d0, v.d1 with
  | some a, some b => routeChain (t.route a.val) && !routeChain (t.route (a.val + 1)) && routeSide (t.route b.val) != 3
  | _, _ => false

/-- The handles an instruction names are declared and fit it (R44, R46, R188, R204, R206, R241, R247, R294, R338); a replay window is
a spad ring with slots of 64 bytes bound on the tile (R214). -/
def handlesFit (x : LoadCtx) (e : ElemCode) (v : View) : Bool :=
  let c := codeClass e
  let window := fun (z : HandleDecl) => z.kind == .ring && z.level == .spad &&
    (imageRings x.im).any fun r => r.slot == e.loc.slot && r.tile == e.loc.tile && r.handle == z.num && r.size == 64
  let d := fun (h : BitVec 8) => if h = 0 then none else declIn x.im h.toNat
  let free := fun (h : BitVec 8) => h == 0 || (declIn x.im h.toNat).isSome
  match v.ext with
  | .xm m => v.op == 0x9E || (match d m.h with
      | some y => y.kind == .dense || y.kind == .ring || (y.kind == .csr && (v.op == 0x90 || v.op == 0x92))
      | none => false)
  | .xs m =>
    if v.op < 0xC4 then true
    else match d m.h with
      | some y => y.kind == (if v.op < 0xC7 then .pat else if v.op = 0xC7 then .csr else if v.op = 0xC8 then .nm else .dense)
      | none => false
  | .xh m =>
    let y := d m.h1
    free m.h1 && free m.h2 &&
    (match v.op with
      | 0xA0 => y.any fun z => z.dyn && (z.level == .clu || (z.level == .spad && c != .a))
      | 0xA1 => y.isSome
      | 0xA2 => y.any fun z => z.dyn && z.level == .hbm
      | 0xA3 => y.isSome
      | 0xA4 => y.isSome
      | 0xA5 => y.any fun z => z.kind == .ring
      | 0xA6 => y.isSome && (d m.h2).isSome
      | 0xA7 => (y.any fun z => z.kind == .dense) && (m.h2 == 0 || (d m.h2).any window)
      | 0xA8 => y.any fun z => z.kind == .dense
      | 0xAB => y.any fun z => z.level == .hbm
      | 0xBE => y.any fun z => z.level == .hbm
      | _ => true)
  | _ => true

/-- The stage of a region tile (R15). -/
def stageOf (im : Image) (l : Loc) : Nat :=
  match im.shape[l.slot]? with
  | none => 0
  | some q =>
    let c := l.tile % q.w
    let r := l.tile / q.w
    match im.stageRects.find? fun z => z.slot = l.slot ∧ z.r.x ≤ c ∧ c < z.r.x + z.r.w ∧ z.r.y ≤ r ∧ r < z.r.y + z.r.h with
    | some z => z.stage
    | none => 0

/-- The first of some checks that fails. -/
def firstFail : List (Bool × InstallCode) → Option InstallCode
  | [] => none
  | (true, _) :: rest => firstFail rest
  | (false, c) :: _ => some c

/-- A word with the tag action KEEP: its selects are checked before its TA (R51 step 4). -/
def keepWord (w : Word32) : Word32 := w &&& 0xFF0FFFFF#32

/-- The checks of one entry in the order of R51 step 4: EOPC, ECLASS, ELONG, ESEL, ETA, EROUTE, EFIRE, EHDECL. A route of
the instruction to an extension word is its ELONG (R42); what else is wrong with a route entry is reported of the entry itself. -/
def entryFault (x : LoadCtx) (e : ElemCode) (i : Nat) (mrgBefore : Bool) : Option InstallCode :=
  let t := codeTables e
  let c := codeClass e
  let op := ((t.word i).extractLsb' 24 8).toNat
  if t.isExt i then (if e.entries.contains i then some .elong else none)
  else if t.word i = 0 then (if e.entries.contains i then some .eroute else none)
  else if (formOf op).isNone then some .eopc
  else if !(classesOf op).contains c then some .eclass
  else if t.isLong i && i + 1 == tableSize c then some .elong
  else if ((wordDests (t.word i)).flatMap (destChain t)).any fun k => routeFault x e k == some .elong then some .elong
  else match decodeView (keepWord (t.word i)) (t.word (i + 1)) with
    | .error code => some code
    | .ok v0 =>
      if !fieldsOk x e v0 mrgBefore then some .esel
      else match decodeView (t.word i) (t.word (i + 1)) with
        | .error code => some code
        | .ok v =>
          firstFail [
            (classTaOk c v.ta, .eta),
            (sendsOk c t v && (v.op != 0x08 || callOk t v), .eroute),
            (v.fires && (!e.entries.contains i || (v.sa == .t && (e.loc.apr || stageOf x.im e.loc == 0))), .efire),
            (handlesFit x e v, .ehdecl)]

/-- An MRG stands before entry i. -/
def mrgIn (t : ElemTables) (i : Nat) : Bool :=
  (List.range i).any fun j => t.isInstr j && ((t.word j).extractLsb' 24 8).toNat == opMrg

/-- The route entries that some instruction of an element sends on. -/
def usedRoutes (e : ElemCode) : List Nat :=
  let t := codeTables e
  (List.range e.words.length).flatMap fun i =>
    if t.isInstr i then
      match decodeView (t.word i) (t.word (i + 1)) with
      | .ok v => (sentRoutes (codeClass e) t v).map (·.1)
      | .error _ => []
    else []

/-- A route entry of an element is good: an empty one is all zero (R99), and one of an M element that no instruction sends on is narrow
(R232). That an entry with USED 0 that is not all zero is refused like any other bad entry, with EROUTE, ENTRY 0 and its number in DETAIL, is
this model's choice (assumption 99): R99 names no code. -/
def routeOk (x : LoadCtx) (e : ElemCode) (k : Nat) : Bool :=
  let w := (codeTables e).route k
  w == 0 || ((routeFault x e k).isNone && (codeClass e != .m || !routeWide w || (usedRoutes e).contains k))

/-- The entries of one element, then its route entries (R51 step 4). -/
def elemFault (x : LoadCtx) (e : ElemCode) : Option InstallError :=
  let t := codeTables e
  let entry := (List.range (max e.words.length (tableSize (codeClass e)))).findSome? fun i =>
    (entryFault x e i (mrgIn t i)).map fun c => x.fail e c i 0
  entry.orElse fun _ =>
    ((List.range 31).find? fun k => !routeOk x e k).map fun k => x.fail e .eroute 0 (0x20000000 + k)

/-! ## VC tables (R107) -/

/-- Lane groups of a format in a wide payload. -/
def laneGroups (f : Fmt) : Nat := if fullLane f then 1 else 32 / fmtBits f

/-- A VC-table entry of a class breaks R107; `filled` is the mask of entries the image fills. -/
def vcBad (c : ElemClass) (filled : List Nat) (k : Nat) (w : Word32) : Bool :=
  let v := vcOf w
  (match v.fmt with
    | none => true
    | some f => if c = .v then decide (v.lg ≥ laneGroups f) else v.lg != 0) ||
  w.extractLsb' 0 16 != 0 || (k == 0 && w != 0) || (v.sen && !filled.contains v.scl)

/-- The first bad channel of an element. -/
def vcFault (x : LoadCtx) (e : ElemCode) : Option InstallError :=
  ((List.range 32).find? fun k => vcBad (codeClass e) (e.filled ++ e.live ++ e.params.map (·.1)) k ((codeTables e).vc k)).map
    fun k => x.fail e .evct 0 k

/-! ## Handle declarations (R188, R198) -/

/-- The size of a declaration in bytes. -/
def declSize (d : HandleDecl) : Nat := if d.bytes ≠ 0 then d.bytes else shapeSize d.fmt d.rows d.cols

/-- Banks of a spad declaration (R190); more than 128 do not exist. -/
def declBanks (d : HandleDecl) : Nat := 2 ^ bankLog (declSize d) d.banks

/-- A sub-handle of a declaration: none, or declared and dense, and only where the kind has one (R186, R246). -/
def subOk (im : Image) (allowed : Bool) (h : Nat) : Bool :=
  h == 0 || (allowed && (declIn im h).any fun d => d.kind == .dense)

/-- A declaration with good keys and values. -/
def declOk (im : Image) (rects : List (Nat × Rect)) (d : HandleDecl) : Bool :=
  1 ≤ d.num && d.num ≤ 255 && 1 ≤ d.rows && d.rows ≤ 65535 && 1 ≤ d.cols && d.cols ≤ 65535 &&
  (d.level != .spad || ((d.kind == .dense || d.kind == .ring) && (d.dyn || declSize d ≤ 262144))) &&
  (d.level != .hbm || ((d.base.isSome != d.dyn) && d.tile.isNone)) && (d.base.isNone || d.level == .hbm) &&
  (d.banks == 0 || (d.level == .spad && [1, 2, 4, 8, 16, 32, 64, 128].contains d.banks)) &&
  (d.bytes == 0 || d.level == .clu || d.kind != .dense) &&
  (d.tile.all fun t => match rects.head? with | some (_, q) => decide (t < q.w * q.h) | none => false) &&
  subOk im (d.kind == .csr) d.ptr && subOk im (d.kind == .csr) d.idx &&
  subOk im (d.kind == .csr || d.kind == .nm || d.kind == .pat) d.vals && subOk im (d.kind == .nm) d.meta' &&
  (d.pat == 0 || (d.kind == .pat && d.pat < 32))

/-- Place blocks in order at the lowest aligned free place of a space (R190, R192). -/
def fitBlocks (total : Nat) : List Nat → List (Nat × Nat) → Bool
  | [], _ => true
  | n :: rest, used =>
    match ((List.range (total / n)).map (· * n)).find? fun b => used.all fun u => u.1 + u.2 ≤ b || b + n ≤ u.1 with
    | some b => fitBlocks total rest ((b, n) :: used)
    | none => false

/-- A declaration homed at or replicated on region tile n of a die slot. -/
def declOnTile (d : HandleDecl) (slot n : Nat) : Bool := d.tile.isNone || (slot == 0 && d.tile == some n)

/-- The region tile homes a clu declaration's cluster, or the declaration is replicated. -/
def declInCluster (rects : List (Nat × Rect)) (d : HandleDecl) (clu : Pos) : Bool :=
  match d.tile with
  | none => true
  | some n => (locPos rects ⟨0, false, n, 0, 0⟩).any fun p => cluOf p == clu

/-- A ring line is good (R188, R198): its handle a ring of the tile, its slots within the extent, and the rings of the tile, by whichever
configuration, within its sideband store. -/
def ringOk (x : LoadCtx) (r : RingDecl) : Bool :=
  (match declIn x.im r.handle with
    | some d => d.level == .spad && d.kind == .ring && declOnTile d r.slot r.tile && r.size * r.count ≤ declBanks d * 2048
    | none => false) &&
  [16, 32, 48, 64].contains r.size && 1 ≤ r.count && r.count ≤ 4096 && r.q < 16 &&
  (match x.rects[r.slot]? with | some (_, q) => decide (r.tile < q.w * q.h) | none => false) &&
  (x.cf.rings.countP fun y => y.slot = r.slot ∧ y.tile = r.tile ∧ y.q = r.q) == 1 &&
  (((imageRings x.im).filter fun y => y.slot = r.slot ∧ y.tile = r.tile).map (·.count)).sum ≤ 8192

/-- The declarations of the image's handle table, each once (R96). -/
def imageHandles (im : Image) : List HandleDecl := (distinct (im.configs.flatMap (·.handles)).reverse).reverse

/-- Handle declarations are good (R96, R188): each number one declaration, every tile's spad handles and every cluster's clu
handles fit on an empty one. -/
def declsOk (s : State) (x : LoadCtx) : Bool :=
  let all := imageHandles x.im
  let spad := all.filter fun d => d.level == .spad && !d.dyn
  let clu := all.filter fun d => d.level == .clu && !d.dyn
  all.all (fun d => declOk x.im x.rects d && (all.countP fun y => y.num = d.num) == 1) &&
  (x.cf.handles.all fun d => (x.cf.handles.countP fun y => y.num = d.num) == 1) &&
  x.cf.rings.all (ringOk x) &&
  ((List.range x.rects.length).all fun slot => match x.rects[slot]? with
    | none => true
    | some (_, q) => (List.range (q.w * q.h)).all fun n =>
        fitBlocks 192 ((spad.filter fun d => declOnTile d slot n).map declBanks) []) &&
  (touched x.rects).all fun c =>
    fitBlocks (handlePartition s c / 65536)
      ((clu.filter fun d => declInCluster x.rects d c).map fun d => cluBlock (declSize d) / 65536) []

/-! ## Stream channels (R112 to R114) -/

/-- The stream channels that leave an element on one route entry: to another class from A or Q (R112). -/
def streamTarget (x : LoadCtx) (e : ElemCode) (k : Nat) : Option Pos :=
  if routeUsed ((codeTables e).route k) && (codeClass e = .a ∨ codeClass e = .q) then
    (targetOf x.im x.rects ((codeTables e).route k)).bind fun p =>
      if classOf p = some (codeClass e) ∨ (classOf p).isNone then none else some p
  else none

/-- The route entries a destination of an instruction sends on. -/
def destRoutes (e : ElemCode) (i d : Nat) : List Nat :=
  let t := codeTables e
  if t.isInstr i then
    match decodeView (t.word i) (t.word (i + 1)) with
    | .ok v => (sentRoutes (codeClass e) t { v with d0 := if d = 0 then v.d0 else none, d1 := if d = 1 then v.d1 else none }).map (·.1)
    | .error _ => []
  else []

/-- Tokens of an element's stream buffer (R113). -/
def streamBuffer : ElemClass → Nat
  | .s => 32
  | .v => 32
  | .q => 32
  | .m => 64
  | .a => 64

/-- A channel of the rate list: its line, producer, consumer. -/
structure RateChan where
  line : RateDecl
  src : Pos
  dst : Pos
  route : Nat
  deriving DecidableEq, Repr

/-- The channels one line declares: those of its chain, in chain order (R112). -/
def lineChans (x : LoadCtx) (r : RateDecl) : List RateChan :=
  match x.cf.elems.find? fun e => e.loc = r.loc with
  | none => []
  | some e => (destRoutes e r.entry r.d).filterMap fun k => (streamTarget x e k).map fun p => ⟨r, x.posOf e, p, k⟩

/-- The rate list (R112). -/
def rateList (x : LoadCtx) : List RateChan := x.cf.rates.flatMap (lineChans x)

/-- The line breaks R113 by itself. -/
def lineBad (x : LoadCtx) (r : RateDecl) : Bool :=
  (lineChans x r).isEmpty || !(1 ≤ r.prod && r.prod ≤ 16 && 1 ≤ r.cons && r.cons ≤ 16 && 1 ≤ r.depth && r.depth ≤ 64) ||
    r.cons < r.prod || r.depth < r.prod

/-- Depths into a channel's consumer up to and with a channel exceed its buffer. -/
def depthBad (l : List RateChan) (n : Nat) (c : RateChan) : Bool :=
  let sum := (((l.take (n + 1)).filter fun y => y.dst = c.dst).map fun y => y.line.depth).sum
  decide (streamBuffer ((classOf c.dst).getD .s) < sum)

/-- The first offending line or channel of the rate list, by its channel index; of a line that declares no channel, the index its first
would have (assumption 79). -/
def rateLineFault (x : LoadCtx) : List RateDecl → Nat → Option (RateDecl × Nat)
  | [], _ => none
  | r :: rest, n =>
    if lineBad x r then some (r, n)
    else
      let cs := lineChans x r
      match (List.range cs.length).find? fun i => match cs[i]? with
        | some c => depthBad (rateList x) (n + i) c
        | none => false with
      | some i => some (r, n + i)
      | none => rateLineFault x rest (n + cs.length)

/-- Elements reached from some over channels of slack 0 whose index is at least n (R114). -/
def reach (l : List (Nat × RateChan)) : Nat → List Pos → List Pos
  | 0, seen => seen
  | fuel + 1, seen =>
    let more := l.filterMap fun c => if seen.contains c.2.src && !seen.contains c.2.dst then some c.2.dst else none
    if more.isEmpty then seen else reach l fuel (seen ++ distinct more)

/-- A channel of slack 0 that lies on a cycle of them of which it is the lowest (R114). -/
def onCycle (l : List RateChan) (n : Nat) : Bool :=
  let zero := (l.zipIdx.map fun x => (x.2, x.1)).filter fun x => x.2.line.depth = x.2.line.prod ∧ n ≤ x.1
  match l[n]? with
  | none => false
  | some c => c.line.depth == c.line.prod && (reach zero zero.length [c.dst]).contains c.src

/-- The first undeclared stream channel of an element (R112, R113): one an instruction sends on, at that instruction, and then one that
no instruction sends on, at entry 0 (DESIGN CHOICE, assumption 99: it has no producing instruction to name). -/
def undeclared (x : LoadCtx) (e : ElemCode) : Option InstallError :=
  let open' := fun k => (streamTarget x e k).isSome && !((rateList x).any fun c => c.src == x.posOf e && c.route == k)
  ((List.range e.words.length).find? fun i => (destRoutes e i 0 ++ destRoutes e i 1).any open').map
      (fun i => x.fail e .erate i 0x3FFFFFFF) |>.orElse fun _ =>
    if (List.range 31).any open' then some (x.fail e .erate 0 0x3FFFFFFF) else none

/-- The stream channels' checks: ERATE, then ECYCLE. -/
def rateFault (x : LoadCtx) : Option InstallError :=
  let elemAt' := fun (l : Loc) => x.cf.elems.find? fun e => e.loc = l
  let at' := fun (l : Loc) (c : InstallCode) (entry detail : Nat) => match elemAt' l with
    | some e => x.fail e c entry detail
    | none => bare c detail
  let list := rateList x
  match rateLineFault x x.cf.rates 0 with
  | some (r, n) => some (at' r.loc .erate r.entry n)
  | none =>
    ((sortBy (fun e => locOrder x.rects e.loc) x.cf.elems).findSome? (undeclared x)).orElse fun _ =>
      ((List.range list.length).find? (onCycle list)).bind fun n =>
        (list[n]?).map fun c => at' c.line.loc .ecycle c.line.entry n

/-! ## Capacity (R66, R67, R80, R81) -/

/-- The instructions of an element with their bodies; 63 is the root body. -/
def bodiesOf (e : ElemCode) : List (View × Nat) :=
  let t := codeTables e
  (List.range e.words.length).filterMap fun i =>
    if t.isInstr i then
      match decodeView (t.word i) (t.word (i + 1)) with
      | .ok v => some (v, e.bodies.getD i 63)
      | .error _ => none
    else none

/-- The declaration an FALLOC or CALL names (R68). -/
def allocates (e : ElemCode) (v : View) : Option Nat :=
  match v.sb with
  | .c k => if v.op = 0x05 ∨ v.op = 0x08 then some (field (lowWord (getKey 0 k.val e.side)) 5 0) else none
  | _ => none

/-- The clusters in which each declaration is allocated (R67). -/
def allocClusters (x : LoadCtx) (d : Nat) : List Pos :=
  distinct (x.cf.elems.filterMap fun e =>
    if (bodiesOf e).any fun y => allocates e y.1 == some d then some (cluOf (x.posOf e)) else none)

/-- F, c and k of a body (R81). -/
def bodyFactors (x : LoadCtx) (b : Nat) : Nat × Nat × Nat :=
  match x.cf.frames[b]? with
  | some f => (f.max, (allocClusters x b).length, 2 ^ f.logk)
  | none => (1, 1, 1)

/-- Pending slots per iteration on S and A (R80). -/
def pendingSlots (v : View) : Nat :=
  (if v.op = opMerge then 0
   else if v.op = opJoin then (if v.sa = .t then 2 else 1)
   else (tSides v).length - 1) + (if v.ta = .next then 1 else 0) + (if v.op = 0x07 ∨ v.op = 0x0A then 1 else 0)

/-- The demand of an element: in slots on S and A, in entries elsewhere; and in wide slots on A and Q (R81, R203, R218,
R298). -/
def demandOf (x : LoadCtx) (e : ElemCode) : Nat × Nat :=
  let c := codeClass e
  (bodiesOf e).foldl (fun n y =>
    let v := y.1
    let f := bodyFactors x y.2
    let two := if 2 ≤ (tSides v).length then 1 else 0
    let next := if v.ta = .next then 1 else 0
    let main := match c with
      | .s => f.1 * f.2.1 * max f.2.2 8 * pendingSlots v
      | .a => f.1 * f.2.1 * max f.2.2 8 * pendingSlots v
      | .q => f.1 * f.2.1 * f.2.2 * (if v.op = opMrg then 0 else two)
      | _ => f.1 * f.2.1 * f.2.2 * ((if v.op = opMerge then 0 else two) + next)
    let wide := if (c = .a ∨ c = .q) ∧ (tSides v).any (wideSide v.op) then f.1 * f.2.1 * f.2.2 * (two + next) else 0
    (n.1 + main, n.2 + wide)) (0, 0)

/-- The share of an element in 16-byte cellar slots: what exceeds the guaranteed capacity (R81). -/
def shareOf (x : LoadCtx) (e : ElemCode) : Nat :=
  let d := demandOf x e
  let main := match codeClass e with
    | .s => d.1 - 32
    | .a => d.1 - 32
    | .v => (d.1 - 32) * 16
    | .m => (d.1 - 16) * 8
    | .q => (d.1 - 16) * 8
  main + (d.2 - 8) * 16

/-- Cellar slots of a cluster's partition (R77, R108). -/
def cellarSlots (s : State) (clu : Pos) : Nat := field (csramAt s clu) 4 0 * 65536

/-- Grant shares element by element (R81); the first that does not fit, with what is unmet. -/
def shareFault (s : State) (x : LoadCtx) : List ElemCode → List (Pos × Nat) → Option InstallError
  | [], _ => none
  | e :: rest, used =>
    let clu := cluOf (x.posOf e)
    let left := cellarSlots s clu - getKey 0 clu used
    if left < shareOf x e then some (x.fail e .ecap 0 (shareOf x e - left))
    else shareFault s x rest (modKey 0 clu (· + shareOf x e) used)

/-- The frame declarations keep their limits, and every body is one of them (R66). -/
def framesOk (x : LoadCtx) : Bool :=
  x.cf.frames.length ≤ 63 && (x.cf.frames.all fun f => f.logk ≤ 6 && 1 ≤ f.max && f.max ≤ 16) &&
  x.cf.elems.all fun e => (bodiesOf e).all fun y => y.2 == 63 || decide (y.2 < x.cf.frames.length)

/-- A step of R51, 4 to 8, on one configuration. An EHDECL of a declaration itself and an ECAP of a frame declaration have no element,
and every location field 0 (assumption 79). -/
def configFault (s : State) (x : LoadCtx) (step : Nat) : Option InstallError :=
  let es := sortBy (fun e => locOrder x.rects e.loc) x.cf.elems
  match step with
  | 4 => es.findSome? (elemFault x)
  | 5 => es.findSome? (vcFault x)
  | 6 => if declsOk s x then none else some (bare .ehdecl 0)
  | 7 => rateFault x
  | 8 => (if framesOk x then none else some (bare .ecap 0)).orElse fun _ => shareFault s x es []
  | _ => none

/-! ## Shape and signature (R13, R15, R51, R96) -/

/-- ESIG: a privileged image, or one of level 11, whose signature fails or is absent (R51 step 1). -/
def signatureBad (im : Image) : Bool := im.sig == some false || (im.level == 11 && im.sig != some true)

/-- A point of a die slot's rectangle lies in a stage rectangle. -/
def inStage (z : StageRect) (c r : Nat) : Bool := z.r.x ≤ c && c < z.r.x + z.r.w && z.r.y ≤ r && r < z.r.y + z.r.h

/-- The shape of an image is one a module can hold, wherever it lies (R13, R15, R96). -/
def shapeOk (im : Image) : Bool :=
  (im.dies == 1 || im.dies == 2 || im.dies == 4) && im.shape.length == im.dies && im.sameShape &&
  1 ≤ im.configs.length && im.configs.length ≤ 4 &&
  (im.shape.all fun q => 1 ≤ q.w && q.w ≤ 32 && 1 ≤ q.h && q.h ≤ 20) &&
  (im.ap.all fun l => l.all (· ≤ 4)) && (im.mill.all fun l => l.all (· ≤ 4)) &&
  1 ≤ im.stages && im.stages ≤ 8 &&
  (im.stageRects.all fun z => z.stage < im.stages && (match im.shape[z.slot]? with
    | some q => decide (1 ≤ z.r.w ∧ 1 ≤ z.r.h ∧ z.r.x + z.r.w ≤ q.w ∧ z.r.y + z.r.h ≤ q.h)
    | none => false)) &&
  ((List.range im.shape.length).all fun slot => match im.shape[slot]? with
    | none => true
    | some q => (List.range (q.w * q.h)).all fun n =>
        (im.stageRects.countP fun z => z.slot = slot ∧ inStage z (n % q.w) (n / q.w)) == 1) &&
  (List.range im.stages).all fun k => im.stageRects.any fun z => z.stage = k

/-- Code is given only to elements of the shape (R13). -/
def codeInside (im : Image) (rects : List (Nat × Rect)) : Bool :=
  im.configs.all fun cf => cf.elems.all fun e =>
    match locPos rects e.loc with
    | none => false
    | some p => if e.loc.apr then e.loc.elem == 0 && e.loc.apn < claimIn im.ap rects p else decide (e.loc.elem ≤ 18)

/-- ESLOT: a unit has fewer slots neither PINNED nor LOADING than the image has configurations (R98). -/
def slotsShort (s : State) (im : Image) (rects : List (Nat × Rect)) : Bool :=
  (unitsOf im rects).any fun p =>
    ((List.range 4).countP fun k => ((unitAt s p).slot k).st ≠ .pinned ∧ ((unitAt s p).slot k).st ≠ .loading) < im.configs.length

/-- The loader's checks in the order of R51; steps 4 to 8 run on each configuration in ascending number (R96). -/
def installFault (s : State) (im : Image) (rects : List (Nat × Rect)) : Option InstallError :=
  if signatureBad im then some (bare .esig 0)
  else if !shapeOk im || !codeInside im rects then some (bare .egeom 0)
  else if slotsShort s im rects then some (bare .eslot 0)
  else im.configs.findSome? fun cf => [4, 5, 6, 7, 8].findSome? (configFault s ⟨im, cf, rects⟩)

end Sys2Proof.Machine
end

