-- ==== Sys2Proof/Machine/Configure.lean ====
section
/-! DEFINITION. Rewriting and switching configurations (spec/04 R115 to R118): WSET, SWITCH, its decision, the units' reports and
the change of slots; and the entry tokens of a configuration (spec/01 R33). -/

namespace Sys2Proof.Machine

open Sys2Proof

/-- A firing took place in this fc (R404). -/
def markFired (f : Firing) : Prog := fun s => updElem f.pos (fun e => { e with lastFire := some s.fc }) s

/-! ## WSET (R115, R116) -/

/-- The slot of a region's unit that holds a configuration (R97). -/
def slotFor (r : Region) (p : Pos) (cfg : Nat) : Option Nat :=
  (r.slotMap.find? fun x => x.1 = unitOf p ∧ x.2.1 = cfg).map fun x => x.2.2

/-- The tables of an element of a region in the slot of a configuration, as they stand. -/
def tablesIn (s : State) (r : Region) (p : Pos) (cfg : Nat) : ElemTables :=
  match slotFor r p cfg with
  | some k => ((unitAt s p).slot k).tablesOf p.elem
  | none => ElemTables.reset p.elem

/-- The code of an element as its slot has it, at its place in the image. -/
def codeNow (s : State) (r : Region) (cfg : Nat) (e : ElemCode) : ElemCode :=
  match locPos r.rects e.loc with
  | none => e
  | some p =>
    let t := tablesIn s r p cfg
    { e with words := t.words, routes := t.routes, side := t.side, live := t.live, vcs := t.vcs, filled := t.filled }

/-- The loader's context of a configuration of a region as its slots stand. -/
def ctxNow (s : State) (r : Region) (cf : ConfigImage) (cfg : Nat) : LoadCtx :=
  { im := r.image, rects := r.rects, cf := { cf with elems := cf.elems.map (codeNow s r cfg) } }

/-- The context with an element's code changed. -/
def LoadCtx.change (x : LoadCtx) (e : ElemCode) : LoadCtx :=
  { x with cf := { x.cf with elems := replaceIf (fun y => y.loc = e.loc) (fun _ => e) x.cf.elems } }

/-- A list with member i replaced, made long enough. -/
def setAt {α : Type} (d : α) (i : Nat) (v : α) (l : List α) : List α :=
  (List.range (max l.length (i + 1))).map fun j => if j = i then v else l.getD j d

/-- The instruction word and its extension written at an entry. -/
def withWord (i : Nat) (w x : Word32) (e : ElemCode) : ElemCode :=
  let l := setAt 0 i w e.words
  { e with words := if (codeTables e).isLong i then setAt 0 (i + 1) x l else l }

/-- p(i) of R80 for a word, 0 for one that is no instruction. -/
def pendingOf (w x : Word32) : Nat := match decodeView w x with | .ok v => pendingSlots v | .error _ => 0

/-- Another entry of the element holds MRG. -/
def otherMrg (t : ElemTables) (i : Nat) : Bool :=
  (List.range t.words.length).any fun j => j != i && t.isInstr j && ((t.word j).extractLsb' 24 8).toNat == opMrg

/-- The status of writing an instruction entry (R115). A[63:32] beside a short word are not written and not checked (assumption 92). -/
def wsetInstr (x : LoadCtx) (e : ElemCode) (i : Nat) (a : Word) : Nat :=
  let t := codeTables e
  let w := a.extractLsb' 0 32
  let ext := a.extractLsb' 32 32
  if !t.isInstr i then 0x10
  else
    match formOf (w.extractLsb' 24 8).toNat with
    | none => installNum .eopc
    | some f =>
      if !(classesOf (w.extractLsb' 24 8).toNat).contains (codeClass e) then installNum .eclass
      else if (f != .short) != t.isLong i then installNum .elong
      else
        let e' := withWord i w ext e
        match entryFault (x.change e') e' i (otherMrg t i) with
        | some c => installNum c
        | none => if pendingOf (t.word i) (t.word (i + 1)) < pendingOf w ext then installNum .ecap else 0

/-- The status of writing a route entry: every instruction of the element that sends on it must still pass (R115). -/
def wsetRoute (x : LoadCtx) (e : ElemCode) (k : Nat) (a : Word) : Nat :=
  let e' := { e with routes := setAt 0 k a e.routes }
  let x' := x.change e'
  let t := codeTables e'
  let sent := (List.range e.words.length).all fun i =>
    if t.isInstr i then
      match decodeView (t.word i) (t.word (i + 1)) with
      | .ok v => sendsOk (codeClass e) t v && (v.op != 0x08 || callOk t v)
      | .error _ => true
    else true
  if !routeUsed a || routeRel a || field a 26 0 != 0 || !routeOk x' e' k || !sent then installNum .eroute
  else if (streamTarget x e k).isSome || (streamTarget x' e' k).isSome then installNum .erate
  else 0

/-- Where a WSET writes: the table, the configuration and the entry (R115). -/
def wsetTbl (b : Word) : Nat := field b 1 0
def wsetCfg (b : Word) : Nat := field b 3 2
def wsetIdx (b : Word) : Nat := field b 11 4

/-- Entries of a table of an element (R97). -/
def tableLen (c : ElemClass) (tbl : Nat) : Nat :=
  match tbl with
  | 0 => tableSize c
  | 1 => 31
  | 2 => 32
  | _ => 16

/-- The code of an element in a configuration, as the slot stands; an element without code there has empty tables. -/
def codeIn (s : State) (r : Region) (x : LoadCtx) (cfg : Nat) (p : Pos) : Option ElemCode :=
  (codeAt r.rects x.cf p).orElse fun _ =>
    (r.image.configs.findSome? fun cf => codeAt r.rects cf p).map fun e =>
      codeNow s r cfg { e with words := [], bodies := [], entries := [], routes := [], side := [], filled := [], live := [], vcs := [], params := [] }

/-- The status word of a WSET (R115, R116). -/
def wsetStatus (s : State) (f : Firing) (a b : Word) : Nat :=
  match regionOf s f.pos with
  | none => 0x10
  | some r =>
    match configOf r.image (wsetCfg b), classOf f.pos with
    | some cf, some c =>
      if field b 63 12 != 0 || tableLen c (wsetTbl b) ≤ wsetIdx b then 0x10
      else if wsetCfg b = r.acfg then 0x11
      else
        let x := ctxNow s r cf (wsetCfg b)
        match codeIn s r x (wsetCfg b) f.pos with
        | none => 0x10
        | some e =>
          match wsetTbl b with
          | 0 => wsetInstr x e (wsetIdx b) a
          | 1 => wsetRoute x e (wsetIdx b) a
          | 2 =>
            if wsetIdx b = 0 ∨ field a 63 32 ≠ 0 ∨
                vcBad c (e.filled ++ e.live ++ e.params.map (·.1)) (wsetIdx b) (a.extractLsb' 0 32) then installNum .evct
            else 0
          | _ => 0
    | _, _ => 0x10

/-- The tables with one entry written (R115). -/
def wsetWrite (c : ElemClass) (a : Wide) (b : Word) (t : ElemTables) : ElemTables :=
  let w := lowWord a
  match wsetTbl b with
  | 0 =>
    let l := setAt 0 (wsetIdx b) (w.extractLsb' 0 32) t.words
    { t with words := if t.isLong (wsetIdx b) then setAt 0 (wsetIdx b + 1) (w.extractLsb' 32 32) l else l }
  | 1 => { t with routes := setAt 0 (wsetIdx b) w t.routes }
  | 2 => { t with vcs := setAt 0 (wsetIdx b) (w.extractLsb' 0 32) t.vcs }
  | _ => { t with side := setKey (wsetIdx b) (if c = .v then a else ofWord w) t.side }

/-- The entry is written, its slot marked, and a side-table write marks its group dirty (R98, R103, R115). -/
def wsetApply (f : Firing) (r : Region) (a : Wide) (b : Word) : Prog :=
  forSome (slotFor r f.pos (wsetCfg b)) fun k =>
    seqAll [
      updTables f.pos k (wsetWrite ((classOf f.pos).getD .s) a b),
      updUnit f.pos (fun u => u.setSlot k fun c => { c with written := true }),
      onlyIf (wsetTbl b == 3) (updElem f.pos fun e => { e with sideDirty := insertNew (k * 4 + wsetIdx b / 4) e.sideDirty })]

/-- WSET (R115): the write at firing, the status to D0 and D1. -/
def writeTable (o : Ops2) (f : Firing) : Prog := fun s =>
  let a := sideA s f o.sa
  let b := sideB s f o.sb
  let st := wsetStatus s f (lowWord a) (lowWord b)
  andThen
    (onlyIf (st == 0) (forSome (regionOf s f.pos) fun r => wsetApply f r a (lowWord b)))
    (sendAfter f 0x0D o.ta b none (bothOuts o.d0 o.d1 (ofWord (nat64 st)) false) 0) s

/-! ## SWITCH (R117, R118) -/

/-- The decision of a SWITCH leaves for the home cluster's control point. -/
def sendDecision (r : Region) (h : HeldSwitch) : Prog :=
  control h.p (controlPoint r.homeClu) (.switch r.id h.cfg h.value h.decision h.p h.entry h.tag)

/-- SWITCH: the decision leaves for the home cluster's control point, or is held in the element's output while another drains; one for
a configuration the image does not hold is a trap (R117). -/
def switchTo (o : OpsSink) (f : Firing) : Prog := fun s =>
  let a := lowWord (sideA s f o.sa)
  let b := lowWord (sideB s f o.sb)
  match regionOf s f.pos with
  | none => endFiring s
  | some r =>
    if r.image.configs.length ≤ field a 1 0 then
      seqAll [markFired f, raiseError f.pos codeEtrap f.entry f.tag a, endFiring] s
    else
      let h : HeldSwitch := ⟨f.pos, f.entry, f.tag, field a 1 0, b, a, s.fc⟩
      seqAll [
        markFired f,
        (if r.switch.isSome then updRegion r.id fun x => { x with switchWait := x.switchWait ++ [h] } else sendDecision r h),
        endFiring] s

/-- A decision has reached the control point, no other is draining, and it is the first that waits there. -/
def decisionEnabled (s : State) (m : Nat) : Bool :=
  match msgAt s m with
  | none => false
  | some x => match x.body with
    | .switch r _ _ _ _ _ _ =>
      arrived s x && inOrder s x && firstAt s x (fun b => match b with | .switch _ _ _ _ _ _ _ => true | _ => false) &&
        (match regionAt s r with | some y => y.switch.isNone && y.phase == .running | none => false)
    | _ => false

/-- SWITCH_DECISION: the decision is broadcast to every unit of the region. -/
def takeDecision (m : Nat) : Prog :=
  reading (fun s => (s, msgAt s m)) fun x => forSome x.2 fun y =>
    match y.body with
    | .switch r cfg value _ _ _ _ => andThen (dropMsg m)
        (updRegion r fun z => { z with switch := some ⟨cfg, value, x.1.fc, z.units, x.1.fc⟩ })
    | _ => skip

/-- An element holds nothing that keeps its unit from reporting empty, the queues of its merge unit and of its matrix sequencer with
the rest, and no token is on its way to it (R118, assumption 93). -/
def elemEmpty (s : State) (p : Pos) : Bool :=
  let e := elemAt s p
  let merge := (qAt s p).merge
  let mat := matAt s p
  e.ready.isEmpty && e.slots.isEmpty && e.pipe.isEmpty && e.out.isEmpty && e.loops.isEmpty &&
  merge.qa.isEmpty && merge.qb.isEmpty && mat.queue.isEmpty && mat.run.isNone &&
  (s.chip.net.all fun m => !(m.dst == p && m.body == .token)) &&
  (s.chip.reqs.all fun q => q.p != p || !outstanding q)

/-- No element of a unit of a region holds anything. -/
def unitEmpty (s : State) (x : Region) (u : Pos) : Bool :=
  ((regionElems s x).filter fun p => unitOf p = u).all (elemEmpty s)

/-- The decision has reached a unit, which holds nothing. -/
def emptyEnabled (s : State) (r : Nat) (u : Pos) : Bool :=
  match regionAt s r with
  | none => false
  | some x => match x.switch with
    | none => false
    | some w => w.left.contains u && decide (w.since + latency (controlPoint x.homeClu) u ≤ s.fc) && x.phase == .running &&
        unitEmpty s x u

/-- UNIT_EMPTY_REPORT: the report reaches the control point over the way's latency. -/
def reportEmpty (r : Nat) (u : Pos) : Prog := fun s =>
  updRegion r (fun x => { x with
    switch := x.switch.map fun w => { w with
      left := w.left.filter fun p => p ≠ u,
      last := max w.last (s.fc + latency u (controlPoint x.homeClu)) } }) s

/-- A unit that holds something again after its report is without one: no WSET fires between the report and the slot change (R116). -/
def recallReports (s : State) (x : Region) : Option SwitchState :=
  x.switch.map fun w => { w with left := w.left ++ x.units.filter fun u => !w.left.contains u && !unitEmpty s x u }

/-- Every frame of a region but the root frame is free. -/
def onlyRoot (s : State) (x : Region) : Bool :=
  x.reserved.all fun f => some f == x.rootFrame || !frameBusy s f

/-- Every unit has reported and the frames are freed: the slots change 4 fc after the last report (R118). -/
def slotEnabled (s : State) (r : Nat) : Bool :=
  match regionAt s r with
  | none => false
  | some x => match x.switch with
    | none => false
    | some w => w.left.isEmpty && decide (w.last + 4 ≤ s.fc) && onlyRoot s x && x.phase == .running &&
        x.units.all (unitEmpty s x)

/-- The entry tokens of a configuration leave the control point with a payload and the root frame's tag (R33, R118); DEDUCED,
assumption 78: that the "home cluster port" of R32 is the control point. -/
def entryTokens (r : Region) (cfg : Nat) (payload : Word) (delay : Nat) : Prog :=
  forSome (configOf r.image cfg) fun cf => forSome r.rootFrame fun root =>
    forEach (sortBy (fun e => locOrder r.rects e.loc) cf.elems) fun e =>
      forSome (locPos r.rects e.loc) fun p =>
        forEach e.entries fun i =>
          post (controlPoint r.homeClu) p .data (withRid (headerOf (routeTo p i 0 0 false) 0 0 (mkTag root 0)))
            (ofWord payload) .token delay none

/-- Every unit of a region takes a configuration's slot as its active one. -/
def activate (r : Region) (cfg : Nat) : Prog :=
  forEach r.units fun u => forSome (slotFor r u cfg) fun k => updUnit u fun x => { x with active := k }

/-- SLOT_CHANGE: every unit changes its slot together; one fc later the target's entry tokens leave (R118). The decisions that were held
back leave their elements (R117). -/
def changeSlots (r : Nat) : Prog :=
  reading (regionAt · r) fun x => forSome x fun x => forSome x.switch fun w =>
    seqAll [
      activate x w.cfg,
      updRegion r (fun y => { y with acfg := w.cfg, switch := none, switchWait := [] }),
      forEach x.switchWait (sendDecision x),
      entryTokens x w.cfg w.value 1]

/-- WSET (R115). -/
def execWset (o : Ops2) (s : State) : Host.Outcome State Fault Refusal := onFiring (writeTable o) s
/-- SWITCH (R117). -/
def execSwitch (o : OpsSink) (s : State) : Host.Outcome State Fault Refusal := onFiring (switchTo o) s
/-- SWITCH_DECISION (R118). -/
def execSwitchDecision (m : Nat) (s : State) : Host.Outcome State Fault Refusal :=
  actWhen (decisionEnabled s m) "SWITCH_DECISION" (takeDecision m) s
/-- UNIT_EMPTY_REPORT (R118). -/
def execUnitEmptyReport (r : Nat) (u : Pos) (s : State) : Host.Outcome State Fault Refusal :=
  actWhen (emptyEnabled s r u) "UNIT_EMPTY_REPORT" (reportEmpty r u) s
/-- SLOT_CHANGE (R118). -/
def execSlotChange (r : Nat) (s : State) : Host.Outcome State Fault Refusal :=
  actWhen (slotEnabled s r) "SLOT_CHANGE" (changeSlots r) s

end Sys2Proof.Machine
end

