-- ==== Sys2Proof/Machine/System.lean ====
section
/-! DEFINITION. The system registers at a region's control point and the instructions that read time, place, counters and
write events (spec/14 R343 to R349, R365 to R368, spec/05 R131, R132, spec/13 R342, spec/17 R407, R410, spec/15 R380). -/

namespace Sys2Proof.Machine

open Sys2Proof

/-! ## Registers (R345 to R349, R380) -/

/-- RSTAT (R346). -/
def rstat (r : Region) : Word :=
  place r.ssn.toNat 48 ||| place r.res.toNat 40 ||| place r.rbk.toNat 32 ||| placeBit r.priv 8 ||| place r.level 4 |||
    place r.acfg 0

/-- YREQ (R348). -/
def yreq (r : Region) : Word := if r.yr then placeBit true 63 ||| place r.rem 0 else 0

/-- NODEIX (R349). -/
def nodeix (r : Region) : Word := place r.shDie 32 ||| place r.index 0

/-- KCTL, KSTAT, KCNT and KMAP (R380). -/
def kctl (k : Kiln) : Word := placeBit k.en 4 ||| place k.abl 0
def kstat (s : State) : Word :=
  let k := s.chip.kiln
  let t := if k.busy then k.tile else none
  placeBit k.busy 23 |||
    (match t with | some p => place p.die 21 ||| place p.clu 16 ||| place p.unit 11 | none => 0) |||
    place (s.chip.faulty.length % 2048) 0
def kcnt (k : Kiln) : Word := place k.pass.toNat 32 ||| place k.fail.toNat 16 ||| place k.abort.toNat 0
def kmap (s : State) : Word := place s.gone.length 0

/-- The value of a system register (R345). -/
def sysRead (s : State) (r : Region) (n : Nat) : Word :=
  match n with
  | 0 => rstat r
  | 1 => r.rflags
  | 2 => r.chkaddr
  | 3 => r.ordpos
  | 4 => r.fpctl
  | 5 => r.fpflags
  | 6 => yreq r
  | 7 => nodeix r
  | 8 => r.rcyc
  | 0x120 => kctl s.chip.kiln
  | 0x121 => kstat s
  | 0x122 => kcnt s.chip.kiln
  | 0x123 => kmap s
  | _ => 0

/-- A register the map marks privileged (R345). -/
def sysPrivileged (n : Nat) : Bool := 0x120 ≤ n && n ≤ 0x123

/-- A W1C register after a write: bits set in this fc stay (R131, R347). -/
def w1c (old new a : Word) : Word := (old &&& ~~~a) ||| (new &&& old)

/-- Write FPCTL: every element keeps the old value until the write reaches it, and the result waits for all (R132). -/
def writeFpctl (r : Region) (v : Word) (p : Pos) (op : Nat) : Prog :=
  reading id fun s =>
    let places := regionElems s r
    let new := v &&& 0xF
    let keep := places.map fun q => (q, getKey r.fpctl q r.fpStale)
    seqAll [
      updRegion r.id (fun x => { x with fpctl := new, fpStale := keep, fpWrites := x.fpWrites ++ [⟨new, places, p, op⟩] }),
      forEach places fun q => control (controlPoint r.homeClu) q (.fpctl r.id new)]

/-- Write a system register other than FPCTL (R367). -/
def sysWrite (r : Nat) (n : Nat) (a : Word) : Prog :=
  match n with
  | 1 => updRegion r fun x => { x with rflags := w1c x.rflags x.rfNew (a &&& 0xF) }
  | 5 => updRegion r fun x => { x with fpflags := w1c x.fpflags x.fpNew (a &&& 0x1F) }
  | 0x120 => upd fun c => { c with kiln := { c.kiln with en := a.getLsbD 4, abl := field a 3 0 } }
  | _ => skip

/-- The answer of a control point to a SYSRD or SYSWR: the value on D0 and D1. -/
def answerValue (from' p : Pos) (op : Nat) (v : Word) : Prog :=
  reading (fun s => (opAt s p op).bind fun x => entryView s p x.entry) fun w =>
    answerOp from' p op fun x =>
      { x with wait := .none,
               outs := outOf (w.bind fun y => dstNat y.d0) (ofWord v) false false ++
                 outOf (w.bind fun y => dstNat y.d1) (ofWord v) false false }

/-- A message's system-register request. -/
def sysReqOf (b : Body) : Option (Nat × Nat × Option Word × Pos × Nat) :=
  match b with
  | .sysreg r n w p op => some (r, n, w, p, op)
  | _ => none

/-- SYSTEM_REGISTER_REQUEST may be made: by arrival, those of one fc by ascending source (R367). -/
def sysEnabled (s : State) (m : Nat) : Bool :=
  match msgAt s m with
  | none => false
  | some x => (sysReqOf x.body).isSome && arrived s x && inOrder s x && firstAt s x fun b => (sysReqOf b).isSome

/-- SYSTEM_REGISTER_REQUEST: the read is taken, and a write made, at the control point (R366, R367). -/
def sysRequest (m : Nat) : Prog :=
  reading (fun s => (s, msgAt s m)) fun x => forSome x.2 fun y =>
    andThen (dropMsg m)
      (match sysReqOf y.body with
        | none => skip
        | some (r, n, w, p, op) =>
          forSome (regionAt x.1 r) fun z =>
            let v := sysRead x.1 z n
            match w with
            | none => answerValue y.dst p op v
            | some a =>
              if n = 4 then
                andThen (updOp p op fun o => { o with outs := o.outs.map fun u => { u with val := ofWord v } })
                  (writeFpctl z a p op)
              else andThen (sysWrite r n a) (answerValue y.dst p op v))

/-- SYSRD and SYSWR fire: the request leaves for the control point; a privileged register needs privilege (R345, R366). -/
def sysAccess (o : Ops2) (x : Xsys) (opc : Nat) (w : Option Word) (f : Firing) : Prog := fun s =>
  match regionOf s f.pos with
  | none => endFiring s
  | some r =>
    if sysPrivileged x.sreg.toNat && !r.priv then failFiring f codeEsys 0 s
    else
      issueOp f ⟨opc, o.ta, sideB s f o.sb, some 0, bothOuts o.d0 o.d1 0 false, 0, .reply, false⟩
        (fun k => control f.pos (controlPoint r.homeClu) (.sysreg r.id x.sreg.toNat w f.pos k)) s

/-! ## FPCTL (R132) -/

/-- A write of FPCTL has reached an element. -/
def fpctlReached (s : State) (m : Nat) : Bool := delivered s m fun b => match b with | .fpctl _ _ => true | _ => false

/-- The write of an element's region that the element applies: the first that still waits for it. -/
def applyFp (p : Pos) : List FpWrite → List FpWrite × Option FpWrite
  | [] => ([], none)
  | w :: rest =>
    if w.left.contains p then
      let w' := { w with left := w.left.filter fun q => q ≠ p }
      if w'.left.isEmpty then (rest, some w') else (w' :: rest, none)
    else
      let y := applyFp p rest
      (w :: y.1, y.2)

/-- FPCTL_APPLY: the element takes the value, with which it computes from the next fc on; the last one lets the SYSWR's result leave
then (R132). -/
def fpctlApply (m : Nat) : Prog :=
  reading (fun s => (s, msgAt s m)) fun x => forSome x.2 fun y =>
    match y.body with
    | .fpctl r v =>
      andThen (dropMsg m) (forSome (regionAt x.1 r) fun z =>
        let l := applyFp y.dst z.fpWrites
        andThen
          (updRegion r fun w => { w with
            fpStale := if v = w.fpctl then delKey y.dst w.fpStale else setKey y.dst v w.fpStale,
            fpOld := if (lookupKey y.dst w.fpOld).isSome then w.fpOld else setKey y.dst (fpctlAt x.1 y.dst) w.fpOld,
            fpWrites := l.1 })
          (forSome l.2 fun w => answerOp (controlPoint z.homeClu) w.p w.op fun o =>
            { o with wait := .none, due := some (max (o.due.getD 0) (x.1.fc + 1)) }))
    | _ => skip

/-! ## Time, place, counters, events -/

/-- RDTIME (R368). -/
def readTime (o : Ops2) (f : Firing) : Prog := fun s =>
  let a := lowWord (sideA s f o.sa)
  let v := if a.getLsbD 0 then ((regionOf s f.pos).map (·.rcyc)).getD 0 else nat64 (dieTime s f.pos.die)
  sendAfter f 0xE2 o.ta (sideB s f o.sb) (some 1) (bothOuts o.d0 o.d1 (ofWord v) false) 0 s

/-- The die slot, the region tile number and the stage of a place (R15, R342). -/
def placeInRegion (r : Region) (p : Pos) : Nat × Nat × Nat :=
  match slotOfDie r.rects p.die with
  | none => (0, 0x3FF, 0)
  | some slot => match r.rects[slot]? with
    | none => (slot, 0x3FF, 0)
    | some (die, q) =>
      if p.unit < 32 then
        let n := ((List.range (q.w * q.h)).find? fun n => rectTile die q n = unitOf p).getD 0x3FF
        (slot, n, stageOf r.image ⟨slot, false, n, 0, p.elem⟩)
      else (slot, 0x3FF, 0)

/-- The word RDCOORD sends (R342). -/
def coordWord (r : Region) (p : Pos) (k : Nat) : Word :=
  let at' := placeInRegion r p
  match k with
  | 0 => place at'.2.1 32 ||| place at'.1 30 ||| place at'.2.2 27 ||| place p.die 23 ||| place p.clu 18 ||| place p.unit 12 |||
      place p.elem 7
  | 1 => nat64 r.index
  | 2 =>
    (match r.rects[at'.1]? with
      | some (_, q) => place (q.w - 1) 0 ||| place (q.h - 1) 5 ||| place q.x 10 ||| place q.y 15
      | none => 0) |||
      place (if r.rects.length = 1 then 0 else if r.rects.length = 2 then 1 else 2) 20 ||| place (r.image.stages - 1) 22
  | _ => place r.graph 56 ||| place r.node 32 ||| place r.run 0

/-- RDCOORD (R342). -/
def readCoord (o : Ops2) (f : Firing) : Prog := fun s =>
  let a := lowWord (sideA s f o.sa)
  let v := ((regionOf s f.pos).map fun r => coordWord r f.pos (field a 1 0)).getD 0
  sendAfter f 0xE3 o.ta (sideB s f o.sb) (some 1) (bothOuts o.d0 o.d1 (ofWord v) false) 0 s

/-- The counter a PERFRD selector names, for a region's partition (R407). -/
def counterValue (s : State) (f : Firing) (a : Word) : Word :=
  match regionOf s f.pos with
  | none => 0
  | some r =>
    let own := a.getLsbD 6
    let die := if own then f.pos.die else field a 14 13
    let clu := if own then f.pos.clu else field a 12 8
    if a.getLsbD 5 then getKey 0 ⟨r.part, die, none, field a 4 0⟩ s.chip.counters
    else if 16 ≤ field a 4 0 ∨ ((partOfCluster s (cluster die clu)).map fun p => p.setup.part) ≠ some r.part ∨ 20 ≤ clu then 0
    else getKey 0 ⟨r.part, die, some clu, field a 4 0⟩ s.chip.counters

/-- PERFRD (R407). -/
def readCounter (o : Ops2) (f : Firing) : Prog := fun s =>
  sendAfter f 0xE5 o.ta (sideB s f o.sb) none
    (bothOuts o.d0 o.d1 (ofWord (counterValue s f (lowWord (sideA s f o.sa)))) false) 0 s

/-- EVT: the record goes to the collector; A goes on (R410). -/
def userEvent (o : Ops2) (x : Xh) (f : Firing) : Prog := fun s =>
  let a := sideA s f o.sa
  match regionOf s f.pos with
  | none => endFiring s
  | some r => issueOp f ⟨0xE4, o.ta, sideB s f o.sb, some 0, bothOuts o.d0 o.d1 a false, 0, .reply, false⟩ (fun k =>
      emitEvent { time := dieTime s f.pos.die, kind := 0x40, part := r.part, src := f.pos, run := r.run,
                  arg0 := place x.f.toNat 48 ||| f.tag.zeroExtend 64, arg1 := lowWord a, op := some k }) s

/-- SYSRD (R366). -/
def execSysrd (o : Ops2) (x : Xsys) (s : State) : Host.Outcome State Fault Refusal := onFiring (sysAccess o x 0xE0 none) s
/-- SYSWR (R367). -/
def execSyswr (o : Ops2) (x : Xsys) (s : State) : Host.Outcome State Fault Refusal :=
  onFiring (fun f s => sysAccess o x 0xE1 (some (lowWord (sideA s f o.sa))) f s) s
/-- RDTIME (R368). -/
def execRdtime (o : Ops2) (s : State) : Host.Outcome State Fault Refusal := onFiring (readTime o) s
/-- RDCOORD (R342). -/
def execRdcoord (o : Ops2) (s : State) : Host.Outcome State Fault Refusal := onFiring (readCoord o) s
/-- PERFRD (R407). -/
def execPerfrd (o : Ops2) (s : State) : Host.Outcome State Fault Refusal := onFiring (readCounter o) s
/-- EVT (R410). -/
def execEvt (o : Ops2) (x : Xh) (s : State) : Host.Outcome State Fault Refusal := onFiring (userEvent o x) s
/-- FPCTL_APPLY (R132). -/
def execFpctlApply (m : Nat) (s : State) : Host.Outcome State Fault Refusal :=
  actWhen (fpctlReached s m) "FPCTL_APPLY" (fpctlApply m) s
/-- SYSTEM_REGISTER_REQUEST (R366). -/
def execSystemRegisterRequest (m : Nat) (s : State) : Host.Outcome State Fault Refusal :=
  actWhen (sysEnabled s m) "SYSTEM_REGISTER_REQUEST" (sysRequest m) s

end Sys2Proof.Machine
end

