-- ==== Sys2Proof/Machine/Barriers.lean ====
section
/-! DEFINITION. Barriers (spec/13 R334 to R337, R340, R341, spec/12 R315): BARI, BAR, BARA, BARD and SSTEP, the barrier units'
operations and the wakes. -/

namespace Sys2Proof.Machine

open Sys2Proof

/-! ## The units (R334, R335) -/

/-- The unit that holds the barriers of a level for an element. -/
def barrierPlace (lvl : BarLevel) (p : Pos) : Pos :=
  match lvl with
  | .cluster => barrierUnit p
  | .die => dieUnit p.die
  | .package => packageUnit

/-- The die and cluster that name a barrier of a level: none beyond the level's own. -/
def barrierHome (lvl : BarLevel) (p : Pos) : Nat × Nat :=
  match lvl with
  | .cluster => (p.die, p.clu)
  | .die => (p.die, 0)
  | .package => (0, 0)

/-- The physical number of a barrier an image names (R334). -/
def physBarrier (r : Region) (lvl : BarLevel) (p : Pos) (bno : Nat) : Nat :=
  if lvl = .package then bno
  else
    let h := barrierHome lvl p
    ((r.barMap.find? fun x => x.1 = lvl ∧ x.2.1 = h.1 ∧ x.2.2.1 = h.2 ∧ x.2.2.2.1 = bno).map fun x => x.2.2.2.2).getD bno

/-- A barrier with every field 0 (R334). -/
def Barrier.reset (lvl : BarLevel) (h : Nat × Nat) (bno : Nat) : Barrier :=
  { lvl := lvl, die := h.1, clu := h.2, bno := bno, phase := 0, drop := 0, arr := 0, count := 0, waiters := [], members := [],
    closing := [], held := [] }

/-- A place of a barrier. -/
def Barrier.at (b : Barrier) (lvl : BarLevel) (h : Nat × Nat) (bno : Nat) : Bool :=
  b.lvl == lvl && b.die == h.1 && b.clu == h.2 && b.bno == bno

/-- The state word (R335). -/
def Barrier.word (b : Barrier) : Word := place b.phase.toNat 48 ||| place b.drop 32 ||| place b.arr 16 ||| place b.count 0

/-- A barrier as it stands, and changed. -/
def barrierAt (s : State) (lvl : BarLevel) (h : Nat × Nat) (bno : Nat) : Barrier :=
  (s.chip.barriers.find? fun b => b.at lvl h bno).getD (Barrier.reset lvl h bno)
def putBarrier (b : Barrier) : Prog :=
  upd fun c => { c with barriers := b :: c.barriers.filter fun x => !(x.at b.lvl (b.die, b.clu) b.bno) }

/-! ## Phases and wakes (R315, R336) -/

/-- A phase completes when enough have arrived (R336). -/
def Barrier.complete (b : Barrier) : Barrier :=
  if b.count ≤ b.arr ∧ 0 < b.arr then
    { b with phase := b.phase + 1, count := b.count - b.drop, arr := 0, drop := 0, waiters := [], members := [],
             closing := b.closing ++ [⟨b.waiters, b.members, b.phase.toNat⟩] }
  else b

/-- A region has superstep operations, of its current step or issued after the release of an earlier one, that are not yet performed
(R315, assumption 94). -/
def stepBusy (s : State) (r : Nat) : Bool :=
  (match regionAt s r with
    | none => false
    | some _ => s.chip.qs.any fun q => (unitAt s q.1).region == some r && q.2.engs.any fun e => e.ss.isSome) ||
  s.chip.saved.any fun v => v.region.id == r && v.qs.any fun q => q.2.engs.any fun e => e.ss.isSome

/-- A region that is being saved, or is saved: its wakes are held (R336). -/
def savingRegion (s : State) (r : Nat) : Bool :=
  (match regionAt s r with
    | some x => (match x.phase with | .halting => true | .capturing _ => true | _ => false)
    | none => false) || s.chip.saved.any fun x => x.region.id == r

/-- A phase of a barrier by one number. -/
def phaseName (b : Barrier) (phase : Nat) : Nat := b.bno * 65536 + phase

/-- The mark of a wake that raises its region's superstep number: one of an SSTEP has the phase it ends (R341). -/
def stepMark (s : State) (b : Barrier) (phase : Nat) (w : Waiter) : Option Nat :=
  if (opAt s w.p w.op).any fun o => o.op == 0xAC then some (phaseName b phase) else none

/-- Send the wakes of a phase from its unit. -/
def sendWakes (b : Barrier) (l : List (Nat × Waiter)) : Prog := fun s =>
  forEach l (fun x => control (barrierPlace b.lvl ⟨b.die, b.clu, 0, 0⟩) x.2.p (.wake x.2.r x.2.p x.2.op (stepMark s b x.1 x.2))) s

/-- Release the completed phases of a barrier in order, while nothing holds them back; wakes of a region that is being saved
stay at the unit. -/
def releasePhases (b : Barrier) : List Closing → Prog
  | [] => putBarrier { b with closing := [] }
  | c :: rest => fun s =>
    if c.members.any (stepBusy s) then putBarrier { b with closing := c :: rest } s
    else
      let l := c.waiters.map fun w => (c.phase, w)
      andThen (sendWakes b (l.filter fun x => !savingRegion s x.2.r))
        (releasePhases { b with held := b.held ++ l.filter fun x => savingRegion s x.2.r } rest) s

/-- Release whatever can be released of one barrier. -/
def releaseBarrier (b : Barrier) : Prog := releasePhases b b.closing

/-- Superstep operations have ended: every barrier that waited for them goes on (R315). -/
def releaseSteps : Prog := fun s =>
  forEach (s.chip.barriers.filter fun b => !b.closing.isEmpty) releaseBarrier s

/-! ## Operations -/

/-- The partition that owns a package barrier (R334, R382). -/
def packageOwner (s : State) (bno : Nat) : Option Nat :=
  (s.chip.partitions.find? fun p => p.setup.pkgBars.contains bno).map fun p => p.setup.part

/-- A message's barrier operation. -/
def barReqOf (b : Body) : Option (Nat × BarLevel × Nat × BarOp × Pos × Nat) :=
  match b with
  | .barrier r l n q p op => some (r, l, n, q, p, op)
  | _ => none

/-- BARRIER_OPERATION may be made: one in an fc at a unit, in order of arrival, those of one fc by source (R336). -/
def barrierEnabled (s : State) (m : Nat) : Bool :=
  match msgAt s m with
  | none => false
  | some x => (barReqOf x.body).isSome && arrived s x && inOrder s x && lookupKey x.dst s.chip.lastOp != some s.fc &&
      firstAt s x fun b => (barReqOf b).isSome

/-- The extension word of the instruction of a pending operation: the trap value of an arrival at an unset barrier (R340). -/
def extWordOf (s : State) (p : Pos) (op : Nat) : Word :=
  match opAt s p op with
  | some o => ((tablesAt s p).word (o.entry + 1)).zeroExtend 64
  | none => 0

/-- An operation of an element raises a region error. -/
def opError (p : Pos) (op code : Nat) (value : Word) : Prog :=
  reading (opAt · p op) fun o => forSome o fun o => raiseError p code o.entry o.tag value

/-- One operation on a barrier (R336, R340). -/
def doBarrier (dst : Pos) (r : Nat) (lvl : BarLevel) (bno : Nat) (q : BarOp) (p : Pos) (op : Nat) : Prog :=
  reading id fun s =>
    match regionAt s r with
    | none => skip
    | some x =>
      let n := physBarrier x lvl p bno
      let b := barrierAt s lvl (barrierHome lvl p) n
      if lvl = .package ∧ packageOwner s n ≠ some x.part then opError p op codeEprot 0
      else
        let isStep := ((opAt s p op).map (·.op)) == some 0xAC
        let members := if isStep then insertNew r b.members else b.members
        let waiters := match q with | .await => b.waiters ++ [⟨r, p, op⟩] | _ => b.waiters
        let drop := match q with | .drop => b.drop + 1 | _ => b.drop
        match q with
        | .init c => andThen (releaseBarrier ({ b with count := c, drop := 0 } : Barrier).complete) (answerValue dst p op b.word)
        | _ =>
          if b.count = 0 then opError p op codeEtrap (extWordOf s p op)
          else
            andThen
              (releaseBarrier ({ b with arr := b.arr + 1, drop := drop, waiters := waiters, members := members } : Barrier).complete)
              (if q = .await then skip else answerOp dst p op fun o => { o with wait := .none })

/-- BARRIER_OPERATION. -/
def barrierOperation (m : Nat) : Prog :=
  reading (msgAt · m) fun x => forSome x fun x =>
    match barReqOf x.body with
    | none => skip
    | some (r, lvl, n, q, p, op) =>
      seqAll [dropMsg m, (fun s => [.chip { s.chip with lastOp := setKey x.dst s.fc s.chip.lastOp }]),
        doBarrier x.dst r lvl n q p op]

/-! ## Wakes (R340, R341) -/

/-- A wake has reached an element that takes it: a halted one keeps it for the image (R353). -/
def wakeEnabled (s : State) (m : Nat) : Bool :=
  delivered s m (fun b => match b with | .wake _ _ _ _ => true | _ => false) &&
    (match msgAt s m with
      | some x => (match x.body with | .wake r _ _ _ => !savingRegion s r | _ => false)
      | none => false)

/-- The wakes of one phase on their way to a region's other SSTEPs lose their mark: the number rises once for a phase (R315, R341). -/
def clearMarks (r n : Nat) : Prog :=
  upd fun c => { c with net := c.net.map fun m =>
    match m.body with
    | .wake q p op k => if q = r ∧ k = some n then { m with body := .wake q p op none } else m
    | _ => m }

/-- BARRIER_WAKE: BWC falls and the held result may go (R340); the first SSTEP's wake of a phase raises the region's superstep number
(R341, assumption 94); a wake of a region that has ended is discarded. -/
def barrierWake (m : Nat) : Prog :=
  reading (fun s => (s, msgAt s m)) fun x => forSome x.2 fun y =>
    match y.body with
    | .wake r p op step =>
      andThen (dropMsg m) (forSome (regionAt x.1 r) fun _ => forSome (opAt x.1 p op) fun o =>
        seqAll [
          forSome step fun n => andThen (clearMarks r n) (updRegion r fun z => { z with ssn := z.ssn + 1 }),
          parkFrame (frameOf o.tag) (.bwc false),
          updOp p op fun z => { z with wait := .held }])
    | _ => skip

/-! ## The instructions -/

/-- The request of a barrier instruction. -/
def askBarrier (x : Xbar) (f : Firing) (s : State) (q : BarOp) (k : Nat) : Prog :=
  control f.pos (barrierPlace x.lvl f.pos) (.barrier (regionId s f.pos) x.lvl x.bno.toNat q f.pos k)

/-- BARI: the old state word to D0 and D1 (R340). -/
def initBarrier (o : Ops2) (x : Xbar) (f : Firing) : Prog := fun s =>
  issueOp f ⟨0xB0, o.ta, sideB s f o.sb, some 0, [], 0, .reply, false⟩
    (askBarrier x f s (.init (field (lowWord (sideA s f o.sa)) 15 0))) s

/-- BARA and BARD: A to D0 and D1 once the unit has applied the arrival (R340). -/
def arriveBarrier (o : Ops2) (x : Xbar) (opc : Nat) (q : BarOp) (f : Firing) : Prog := fun s =>
  issueOp f ⟨opc, o.ta, sideB s f o.sb, some 0, bothOuts o.d0 o.d1 (sideA s f o.sa) false, 0, .reply, false⟩ (askBarrier x f s q) s

/-- BAR and SSTEP: the frame is parked and A held until the wake (R73, R79, R340, R341); they do not fire while the store has
no place for the result. -/
def awaitBarrier (o : Ops2) (x : Xbar) (opc : Nat) (f : Firing) : Prog := fun s =>
  let c := (classOf f.pos).getD .s
  let k := keyOf c false f.entry 3 f.tag
  takingEntry f k (seqAll [
    touchEntry f.pos c k,
    updFrame (frameOf f.tag) (.pend true),
    parkFrame (frameOf f.tag) (.bwc true),
    issueOp f ⟨opc, .keep, 0, some 0, bothOuts o.d0 o.d1 (sideA s f o.sa) false, 0, .barrier, false⟩ (fun n =>
      andThen (updOp f.pos n fun y => { y with due := none }) (askBarrier x f s .await n))]) s

/-- BARI (R340). -/
def execBari (o : Ops2) (x : Xbar) (s : State) : Host.Outcome State Fault Refusal := onFiring (initBarrier o x) s
/-- BAR (R340). -/
def execBar (o : Ops2) (x : Xbar) (s : State) : Host.Outcome State Fault Refusal := onFiring (awaitBarrier o x 0xB1) s
/-- BARA (R340). -/
def execBara (o : Ops2) (x : Xbar) (s : State) : Host.Outcome State Fault Refusal := onFiring (arriveBarrier o x 0xB2 .arrive) s
/-- BARD (R340). -/
def execBard (o : Ops2) (x : Xbar) (s : State) : Host.Outcome State Fault Refusal := onFiring (arriveBarrier o x 0xB3 .drop) s
/-- SSTEP (R341). -/
def execSstep (o : Ops2) (x : Xbar) (s : State) : Host.Outcome State Fault Refusal := onFiring (awaitBarrier o x 0xAC) s
/-- BARRIER_OPERATION (R336). -/
def execBarrierOperation (m : Nat) (s : State) : Host.Outcome State Fault Refusal :=
  actWhen (barrierEnabled s m) "BARRIER_OPERATION" (barrierOperation m) s
/-- BARRIER_WAKE (R340). -/
def execBarrierWake (m : Nat) (s : State) : Host.Outcome State Fault Refusal :=
  actWhen (wakeEnabled s m) "BARRIER_WAKE" (barrierWake m) s

end Sys2Proof.Machine
end

