-- ==== Sys2Proof/Machine/Arith.lean ====
section
/-! DEFINITION. The arithmetic of the elements as functions of operand values: the integer instructions (spec/06 R147 to
R153), the FP32 instructions with fin and fout (R155 to R167), the seeds (spec/05 R136, R160), the lane reductions
(R139, spec/07 R182, R183) and the lane movements (R181). Each returns its result and its flags. -/

namespace Sys2Proof.Machine

open Sys2Proof

/-! ## Integers (R134, R147 to R153) -/

/-- 1 for true, 0 for false (R142). -/
def ofBool64 (b : Bool) : Word := if b then 1 else 0

/-- Bits [127:64] of the signed product (R147). -/
def mulhs (a b : Word) : Word := (truncBits (a.toInt * b.toInt) 128).extractLsb' 64 64

/-- Bits [127:64] of the unsigned product (R147). -/
def mulhu (a b : Word) : Word := (BitVec.ofNat 128 (a.toNat * b.toNat)).extractLsb' 64 64

/-- Signed quotient, rounded toward zero; by 0 it is -1; the least number by -1 is itself (R134, R148). -/
def divs (a b : Word) : Word :=
  if b = 0 then BitVec.allOnes 64
  else if a = 0x8000000000000000 ∧ b = BitVec.allOnes 64 then a
  else truncBits (a.toInt.tdiv b.toInt) 64

/-- Signed remainder, with the sign of the dividend (R134, R148). -/
def rems (a b : Word) : Word :=
  if b = 0 then a
  else if a = 0x8000000000000000 ∧ b = BitVec.allOnes 64 then 0
  else truncBits (a.toInt.tmod b.toInt) 64

/-- Unsigned quotient; by 0 it is all ones (R134, R148). -/
def divu (a b : Word) : Word := if b = 0 then BitVec.allOnes 64 else nat64 (a.toNat / b.toNat)

/-- Unsigned remainder; by 0 it is the dividend (R134, R148). -/
def remu (a b : Word) : Word := if b = 0 then a else nat64 (a.toNat % b.toNat)

/-- The amount of a shift or rotate: modulo 64 (R149). -/
def amount (b : Word) : Nat := b.toNat % 64

def shl (a b : Word) : Word := a <<< amount b
def shr (a b : Word) : Word := a >>> amount b
def sra (a b : Word) : Word := a.sshiftRight (amount b)
def rol (a b : Word) : Word := a.rotateLeft (amount b)

/-- Number of 0 bits above the highest 1 bit (R151). -/
def clz (a : Word) : Word := if a = 0 then 64 else nat64 (63 - Nat.log2 a.toNat)

/-- Number of 1 bits (R151). -/
def popc (a : Word) : Word := nat64 ((List.range 64).countP fun i => a.getLsbD i)

/-- The low n bits of a word, the rest 0; all of it when n is 64 or more. -/
def keepLow (a : Word) (n : Nat) : Word := if 64 ≤ n then a else nat64 (a.toNat % 2 ^ n)

/-- Bit field extract (R152). -/
def bfx (a b : Word) : Word := keepLow (a >>> field b 5 0) (min (field b 14 8) 64)

/-- Zero extension from a width (R153). -/
def zext (a b : Word) : Word := keepLow a (field b 6 0)

/-- Sign extension from a width (R153). -/
def sext (a b : Word) : Word :=
  let n := field b 6 0
  if n = 0 then 0
  else if 64 ≤ n then a
  else
    let low := keepLow a n
    if a.getLsbD (n - 1) then low ||| (BitVec.allOnes 64 <<< n) else low

def mins (a b : Word) : Word := if a.toInt ≤ b.toInt then a else b
def minu (a b : Word) : Word := if a.toNat ≤ b.toNat then a else b
def maxs (a b : Word) : Word := if a.toInt ≤ b.toInt then b else a
def maxu (a b : Word) : Word := if a.toNat ≤ b.toNat then b else a

/-! ## FP32 (R155 to R166) -/

/-- The operand helper fin: DAZ makes a subnormal a zero of its sign (R155). -/
def finBits (c : FpCtl) (x : BitVec 32) : BitVec 32 := if c.daz then flushSub x else x

/-- The value of an operand (R155). -/
def fin (c : FpCtl) (x : BitVec 32) : Num := fp32Value (finBits c x)

/-- A result flushed by FTZ (R130, R155). -/
def flushOut (c : FpCtl) (r : BitVec 32 × Flags) : BitVec 32 × Flags :=
  if c.ftz ∧ isSubnormal r.1 then (r.1 &&& 0x80000000, r.2 ||| flushFlags) else r

/-- The result helper fout for an exact value (R155). -/
def fout (c : FpCtl) (v : Num) : BitVec 32 × Flags :=
  match v with
  | .nan b => (quiet b, 0)
  | .inf neg => (fp32Inf neg, 0)
  | .fin neg num den => flushOut c (roundFp32 c.rm neg num den)

/-- The NaN an operation with NaN operands delivers: the first among its sides, quieted; NV when one is signalling
(R133). -/
def nanOf (xs : List Num) : Option (BitVec 32 × Flags) :=
  match xs.find? isNan with
  | some (.nan b) => some (quiet b, flagIf (xs.any isSnan) flagNV)
  | _ => none

/-- The result of an invalid operation (R133). -/
def invalid : BitVec 32 × Flags := (qnan, flagNV)

/-- Exact sum of signed rationals; an exact zero sum has the sign of R156. -/
def exactAdd (m : Mode) (n1 : Bool) (a1 d1 : Nat) (n2 : Bool) (a2 d2 : Nat) : Num :=
  let x : Int := (if n1 then -1 else 1) * (a1 * d2 : Nat)
  let y : Int := (if n2 then -1 else 1) * (a2 * d1 : Nat)
  let s := x + y
  if s = 0 then
    -- (+0) + (+0) and (-0) + (-0) keep their sign; another zero sum is -0 only under RDN
    .fin (if a1 = 0 ∧ a2 = 0 ∧ n1 = n2 then n1 else m == .rdn) 0 1
  else .fin (s < 0) s.natAbs (d1 * d2)

/-- Addition of two values (R156). -/
def addNum (m : Mode) (a b : Num) : Option Num :=
  match a, b with
  | .nan x, _ => some (.nan x)
  | _, .nan x => some (.nan x)
  | .inf x, .inf y => if x = y then some (.inf x) else none
  | .inf x, _ => some (.inf x)
  | _, .inf y => some (.inf y)
  | .fin n1 a1 d1, .fin n2 a2 d2 => some (exactAdd m n1 a1 d1 n2 a2 d2)

/-- Multiplication of two values (R156); none for 0 × ∞. -/
def mulNum (a b : Num) : Option Num :=
  match a, b with
  | .nan x, _ => some (.nan x)
  | _, .nan x => some (.nan x)
  | .inf x, .inf y => some (.inf (x != y))
  | .inf x, .fin y n _ => if n = 0 then none else some (.inf (x != y))
  | .fin x n _, .inf y => if n = 0 then none else some (.inf (x != y))
  | .fin n1 a1 d1, .fin n2 a2 d2 => some (.fin (n1 != n2) (a1 * a2) (d1 * d2))

/-- Deliver a value that may be invalid. -/
def deliver (c : FpCtl) (v : Option Num) : BitVec 32 × Flags :=
  match v with
  | none => invalid
  | some x => fout c x

/-- The sign of a value changed. -/
def negNum : Num → Num
  | .nan b => .nan b
  | .inf n => .inf (!n)
  | .fin n a d => .fin (!n) a d

def fadd (c : FpCtl) (x y : BitVec 32) : BitVec 32 × Flags :=
  let a := fin c x
  let b := fin c y
  (nanOf [a, b]).getD (deliver c (addNum c.rm a b))

def fsub (c : FpCtl) (x y : BitVec 32) : BitVec 32 × Flags :=
  let a := fin c x
  let b := fin c y
  (nanOf [a, b]).getD (deliver c (addNum c.rm a (negNum b)))

def fmul (c : FpCtl) (x y : BitVec 32) : BitVec 32 × Flags :=
  let a := fin c x
  let b := fin c y
  (nanOf [a, b]).getD (deliver c (mulNum a b))

/-- a × b + c with one rounding; 0 × ∞ is invalid whatever c is (R156). -/
def ffma (k : FpCtl) (x y z : BitVec 32) : BitVec 32 × Flags :=
  let a := fin k x
  let b := fin k y
  let c := fin k z
  if isNan a ∨ isNan b then (nanOf [a, b, c]).getD invalid
  else match mulNum a b with
    | none => invalid
    | some p => (nanOf [c]).getD (deliver k (addNum k.rm p c))

/-- a ≤ b of two values that are not NaN, with -0 below +0 when `signed` (R157). -/
def leNum (signed : Bool) (a b : Num) : Bool :=
  match a, b with
  | .inf true, _ => true
  | _, .inf false => true
  | .inf false, _ => false
  | _, .inf true => false
  | .fin n1 a1 d1, .fin n2 a2 d2 =>
    let x : Int := (if n1 then -1 else 1) * (a1 * d2 : Nat)
    let y : Int := (if n2 then -1 else 1) * (a2 * d1 : Nat)
    if x = 0 ∧ y = 0 ∧ signed then (n1 || !n2) else x ≤ y
  | _, _ => false

/-- FMIN and FMAX (R157). -/
def fminmax (isMax : Bool) (c : FpCtl) (x y : BitVec 32) : BitVec 32 × Flags :=
  let a := fin c x
  let b := fin c y
  match isNan a, isNan b with
  | true, true => (quiet x, flagIf (isSnan a || isSnan b) flagNV)
  | true, false => (finBits c y, flagIf (isSnan a) flagNV)
  | false, true => (finBits c x, flagIf (isSnan b) flagNV)
  | false, false =>
    let aFirst := if isMax then leNum true b a else leNum true a b
    (if aFirst then finBits c x else finBits c y, 0)

def fabsBits (c : FpCtl) (x : BitVec 32) : BitVec 32 := finBits c x &&& 0x7FFFFFFF
def fnegBits (c : FpCtl) (x : BitVec 32) : BitVec 32 := finBits c x ^^^ 0x80000000

/-- The comparisons of R159, as truth and flags. -/
def fceq (c : FpCtl) (x y : BitVec 32) : Bool × Flags :=
  let a := fin c x
  let b := fin c y
  (!(isNan a) && !(isNan b) && leNum false a b && leNum false b a, flagIf (isSnan a || isSnan b) flagNV)

def fclt (c : FpCtl) (x y : BitVec 32) : Bool × Flags :=
  let a := fin c x
  let b := fin c y
  let nan := isNan a || isNan b
  (!nan && leNum false a b && !(leNum false b a), flagIf nan flagNV)

def fcle (c : FpCtl) (x y : BitVec 32) : Bool × Flags :=
  let a := fin c x
  let b := fin c y
  let nan := isNan a || isNan b
  (!nan && leNum false a b, flagIf nan flagNV)

def fcun (c : FpCtl) (x y : BitVec 32) : Bool × Flags :=
  let a := fin c x
  let b := fin c y
  (isNan a || isNan b, flagIf (isSnan a || isSnan b) flagNV)

/-- The class word of R161: one bit. -/
def fclass (c : FpCtl) (x : BitVec 32) : BitVec 32 :=
  let b := finBits c x
  let neg := b.getLsbD 31
  match fp32Value b with
  | .nan v => if v.getLsbD 22 then 0x200 else 0x100
  | .inf n => if n then 0x1 else 0x80
  | .fin _ num _ =>
    if num = 0 then (if neg then 0x8 else 0x10)
    else if isSubnormal b then (if neg then 0x4 else 0x20)
    else (if neg then 0x2 else 0x40)

/-- Rounding to an integral value (R162): the mode is FPCTL.RM when bit 2 of the control is 1. -/
def frnd (c : FpCtl) (x : BitVec 32) (ctl : Nat) : BitVec 32 × Flags :=
  let m := if ctl / 4 % 2 = 1 then c.rm else modeOf ctl
  let b := finBits c x
  match fp32Value b with
  | .nan v => (quiet v, flagIf (!v.getLsbD 22) flagNV)
  | .inf _ => (b, 0)
  | .fin neg num den =>
    if num = 0 then (b, 0)
    else
      let r := roundInt m neg num den
      ((roundFp32 .rtz neg r.1 1).1, 0)

/-- FP32 to an integer of a range (R135, R163). -/
def fToInt (c : FpCtl) (x : BitVec 32) (m : Mode) (r : Int × Int) : Int × Flags := toIntClamped m r (fin c x)

/-- The targets of FCVTI (R163). -/
def cvtRange (t : Nat) : Int × Int :=
  match t % 4 with
  | 0 => (-(2 ^ 63), 2 ^ 63 - 1)
  | 1 => (0, 2 ^ 64 - 1)
  | 2 => (-(2 ^ 31), 2 ^ 31 - 1)
  | _ => (0, 2 ^ 32 - 1)

/-- FCVTI: a signed 32-bit result is sign-extended, an unsigned one zero-extended (R163). -/
def fcvti (c : FpCtl) (x : BitVec 32) (ctl : Word) : Word × Flags :=
  let m := if ctl.getLsbD 2 then c.rm else modeOf (field ctl 1 0)
  let r := fToInt c x m (cvtRange (field ctl 4 3))
  (truncBits r.1 64, r.2)

/-- An integer as FP32 by FPCTL.RM (R135, R164). -/
def intToF (c : FpCtl) (v : Int) : BitVec 32 × Flags :=
  flushOut c (roundFp32 c.rm (v < 0) v.natAbs 1)

/-- ICVTF (R164). -/
def icvtf (c : FpCtl) (a ctl : Word) : BitVec 32 × Flags :=
  let v : Int := match ctl.getLsbD 1, ctl.getLsbD 0 with
    | false, false => a.toInt
    | false, true => a.toNat
    | true, false => (a.extractLsb' 0 32).toInt
    | true, true => (a.extractLsb' 0 32).toNat
  intToF c v

/-- FSCALB: one rounding of a × 2^n (R166). An n beyond ±1000 rounds as ±1000 does. -/
def fscalb (c : FpCtl) (x : BitVec 32) (n : Word) : BitVec 32 × Flags :=
  let a := fin c x
  match a with
  | .nan _ => (nanOf [a]).getD invalid
  | .inf _ => (finBits c x, 0)
  | .fin neg num den =>
    if num = 0 then (finBits c x, 0)
    else
      let k : Int := if n.toInt < -1000 then -1000 else if 1000 < n.toInt then 1000 else n.toInt
      let s := scale2 num den k
      fout c (.fin neg s.1 s.2)

/-- FCVT between formats (R167). -/
def fcvt (c : FpCtl) (a ctl : Word) : Word × Flags :=
  match decodeFmt? (ctl.extractLsb' 0 4) with
  | none => (0, flagNV)
  | some f =>
    if ctl.getLsbD 7 then
      -- decode, with SEN 0
      if f = .raw then (a, 0)
      else if isIntFmt f then (intOfFmt f a, 0)
      else ((floatOfFmt f a).zeroExtend 64, 0)
    else if f = .fp32 then ((a.extractLsb' 0 32).zeroExtend 64, 0)
    else if f = .raw then (a, 0)
    else
      let m := if ctl.getLsbD 8 then c.rm else modeOf (field ctl 5 4)
      encodeNum f m (ctl.getLsbD 6) (fin c (a.extractLsb' 0 32))

/-! ## Seeds (R136, R160) -/

/-- A magnitude truncated to 13 significant bits and to the subnormal grid, given by a function that truncates y to a
multiple of 2^q; `e` is floor(log2 y) and `exact` whether y is a dyadic the grid holds. -/
def seedPack (c : FpCtl) (neg : Bool) (e : Int) (cut : Int → Nat × Bool) : BitVec 32 × Flags :=
  if 128 ≤ e then (if neg then 0xFF7FF800 else 0x7F7FF800, flagOF ||| flagNX)
  else
    let q := if e - 12 < -149 then -149 else e - 12
    let r := cut q
    let b := BitVec.ofNat 32 (packBits 8 23 127 neg r.1 q)
    flushOut c (b, roundFlags false (e < -126) (!r.2))

/-- Truncation of a rational to a multiple of 2^q. -/
def cutRat (num den : Nat) (q : Int) : Nat × Bool :=
  let x := scale2 num den (-q)
  (x.1 / x.2, x.1 % x.2 == 0)

/-- The largest m below 2^bits with m² × num ≤ den, by bits from the top. -/
def rootBelow (num den : Nat) : Nat → Nat → Nat
  | 0, m => m
  | k + 1, m =>
    let t := m + 2 ^ k
    rootBelow num den k (if t * t * num ≤ den then t else m)

/-- Truncation of 1/√(num/den) to a multiple of 2^q. -/
def cutRsq (num den : Nat) (q : Int) : Nat × Bool :=
  -- m × 2^q ≤ √(den/num)  iff  m² × num × 2^(2q) ≤ den
  let x := scale2 num 1 (2 * q)
  let m := rootBelow x.1 (den * x.2) 26 0
  (m, m * m * x.1 == den * x.2)

/-- Fraction bits of a binary logarithm: of y in [1, 2) held as y × 2^prec, by squaring. -/
def log2Bits (prec : Nat) : Nat → Nat → Nat → Nat
  | 0, _, acc => acc
  | k + 1, y, acc =>
    let s := y * y / 2 ^ prec
    if 2 ^ (prec + 1) ≤ s then log2Bits prec k (s / 2) (2 * acc + 1) else log2Bits prec k s (2 * acc)

/-- Bits of precision kept of a logarithm. -/
def logPrec : Nat := 96

/-- floor(log2(num/den) × 2^96) for 1 ≤ num/den < 2. -/
def logFrac (num den : Nat) : Nat := log2Bits 256 logPrec (num * 2 ^ 256 / den) 0

/-- The largest m in [base, base + 2^k) with log2(m / 4096) ≤ frac, frac = fn/fd in [0, 1), by bits from the top; an
irrational logarithm is compared by its truncated value, which its 96 bits decide. -/
def expBelow (fn fd : Nat) : Nat → Nat → Nat
  | 0, m => m
  | k + 1, m =>
    let t := m + 2 ^ k
    expBelow fn fd k (if logFrac t 4096 * fd < fn * 2 ^ logPrec then t else m)

/-- FRCP of a value (R136, R160). -/
def frcp (c : FpCtl) (x : BitVec 32) : BitVec 32 × Flags :=
  let a := fin c x
  match a with
  | .nan _ => (nanOf [a]).getD invalid
  | .inf neg => (fp32Zero neg, 0)
  | .fin neg num den =>
    if num = 0 then (fp32Inf neg, flagDZ)
    else seedPack c neg (floorLog2 den num) (cutRat den num)

/-- FRSQ of a value (R136, R160). -/
def frsq (c : FpCtl) (x : BitVec 32) : BitVec 32 × Flags :=
  let a := fin c x
  match a with
  | .nan _ => (nanOf [a]).getD invalid
  | .inf neg => if neg then invalid else (0, 0)
  | .fin neg num den =>
    if num = 0 then (fp32Inf neg, flagDZ)
    else if neg then invalid
    else
      -- floor(log2 √z) is floor(floor(log2 z) / 2)
      seedPack c false ((floorLog2 den num) / 2) (cutRsq num den)

/-- FEXP2 of a value (R136, R160). -/
def fexp2 (c : FpCtl) (x : BitVec 32) : BitVec 32 × Flags :=
  let a := fin c x
  match a with
  | .nan _ => (nanOf [a]).getD invalid
  | .inf neg => if neg then (0, 0) else (fp32Inf false, 0)
  | .fin neg num den =>
    if num = 0 then (0x3F800000, 0)
    else
      let k := num / den
      let f := num % den
      -- 2^x = 2^n × 2^(fn/den) with 0 ≤ fn < den
      let n : Int := if neg then (if f = 0 then -(k : Int) else -(k : Int) - 1) else (k : Int)
      let fn := if neg ∧ f ≠ 0 then den - f else f
      if n < -149 then flushOut c (0, flagUF ||| flagNX)
      else
        let m := expBelow fn den 12 4096
        seedPack c false n fun q =>
          let s := scale2 m 1 (n - 12 - q)
          (s.1 / s.2, fn == 0 && s.1 % s.2 == 0)

/-- FLOG2 of a value (R136, R160). -/
def flog2 (c : FpCtl) (x : BitVec 32) : BitVec 32 × Flags :=
  let a := fin c x
  match a with
  | .nan _ => (nanOf [a]).getD invalid
  | .inf neg => if neg then invalid else (fp32Inf false, 0)
  | .fin neg num den =>
    if num = 0 then (fp32Inf true, flagDZ)
    else if neg then invalid
    else
      let e := floorLog2 num den
      let y := scale2 num den (-e)
      if y.1 = y.2 then
        -- an exact power of two
        (if e = 0 then (0, 0) else flushOut c (roundFp32 .rtz (e < 0) e.natAbs 1))
      else
        let fl := logFrac y.1 y.2
        -- the magnitude of e + fraction, truncated at 96 bits below the point
        let mag := if 0 ≤ e then e.toNat * 2 ^ logPrec + fl else e.natAbs * 2 ^ logPrec - fl - 1
        let r := seedPack c (e < 0) (floorLog2 mag (2 ^ logPrec)) (cutRat mag (2 ^ logPrec))
        (r.1, r.2 ||| flagNX)

/-! ## Lanes (R170, R174 to R183) -/

/-- Apply an FP32 operation in each lane; the flags of the lanes are ORed (R170). -/
def mapLanes2 (f : BitVec 32 → BitVec 32 → BitVec 32 × Flags) (a b : Wide) : Wide × Flags :=
  let r := (List.range 16).map fun i => f (lane a i) (lane b i)
  (ofLanes (r.map (·.1)), r.foldl (fun g x => g ||| x.2) 0)

def mapLanes1 (f : BitVec 32 → BitVec 32 × Flags) (a : Wide) : Wide × Flags := mapLanes2 (fun x _ => f x) a 0

def mapLanes3 (f : BitVec 32 → BitVec 32 → BitVec 32 → BitVec 32 × Flags) (a b c : Wide) : Wide × Flags :=
  let r := (List.range 16).map fun i => f (lane a i) (lane b i) (lane c i)
  (ofLanes (r.map (·.1)), r.foldl (fun g x => g ||| x.2) 0)

/-- An operation that raises no flag. -/
def plain (x : BitVec 32) : BitVec 32 × Flags := (x, 0)

/-- A lane comparison: all ones or zero (R177). -/
def maskOf (r : Bool × Flags) : BitVec 32 × Flags := (if r.1 then BitVec.allOnes 32 else 0, r.2)

/-- The amount of a lane shift: modulo 32 (R179). -/
def laneAmount (b : BitVec 32) : Nat := b.toNat % 32

/-- VCVTI in a lane (R180). -/
def vcvti (c : FpCtl) (ctl : BitVec 32) (x : BitVec 32) : BitVec 32 × Flags :=
  let m := if ctl.getLsbD 2 then c.rm else modeOf (ctl.extractLsb' 0 2).toNat
  let r := fToInt c x m (cvtRange (if ctl.getLsbD 3 then 3 else 2))
  (truncBits r.1 32, r.2)

/-- VCVTF in a lane (R180). -/
def vcvtf (c : FpCtl) (ctl : BitVec 32) (x : BitVec 32) : BitVec 32 × Flags :=
  intToF c (if ctl.getLsbD 0 then (x.toNat : Int) else x.toInt)

/-- The fixed pairwise tree of R139. -/
def tree16 (op : BitVec 32 → BitVec 32 → BitVec 32 × Flags) (xs : List (BitVec 32)) : BitVec 32 × Flags :=
  let pairUp := fun (l : List (BitVec 32 × Flags)) =>
    (List.range (l.length / 2)).map fun i =>
      let a := l.getD (2 * i) (0, 0)
      let b := l.getD (2 * i + 1) (0, 0)
      let r := op a.1 b.1
      (r.1, a.2 ||| b.2 ||| r.2)
  (pairUp (pairUp (pairUp (pairUp (xs.map fun x => (x, 0)))))).headD (0, 0)

/-- One pass of VSCAN at distance d (R183). -/
def scanPass (op : BitVec 32 → BitVec 32 → BitVec 32 × Flags) (d : Nat) (y : List (BitVec 32)) (g : Flags) :
    List (BitVec 32) × Flags :=
  let r := (List.range 16).map fun i =>
    if i < d then (y.getD i 0, 0) else op (y.getD (i - d) 0) (y.getD i 0)
  (r.map (·.1), r.foldl (fun g x => g ||| x.2) g)

/-- VSCAN (R183). -/
def vscan (c : FpCtl) (a : Wide) (ctl : BitVec 32) : Wide × Flags :=
  let op := if ctl.getLsbD 0 then fminmax true c else fadd c
  let y := lanes a
  let y := if ctl.getLsbD 1 then (if ctl.getLsbD 0 then 0xFF800000 else 0) :: y.take 15 else y
  let r := [1, 2, 4, 8].foldl (fun x d => scanPass op d x.1 x.2) (y, (0 : Flags))
  (ofLanes r.1, r.2)

/-- Lane movements (R181). -/
def vshuf (a b : Wide) : Wide :=
  ofLanes ((lanes b).map fun i => if i.getLsbD 31 then 0 else lane a (i.extractLsb' 0 4).toNat)
def vbcast (a b : Wide) : Wide := ofLanes (List.replicate 16 (lane a ((lane b 0).extractLsb' 0 4).toNat))
def vsplat (a b : Wide) : Wide :=
  ofLanes ((List.range 16).map fun i => BitVec.ofNat 32 ((lane a 0).toNat + i * (lane b 0).toNat))
def vins (a b c : Wide) : Wide :=
  let k := ((lane c 0).extractLsb' 0 4).toNat
  ofLanes ((List.range 16).map fun i => if i = k then lane b 0 else lane a i)
def vext (a b : Wide) : Word :=
  let x := lane a ((lane b 0).extractLsb' 0 4).toNat
  if (lane b 0).getLsbD 4 then x.signExtend 64 else x.zeroExtend 64

end Sys2Proof.Machine
end

