-- ==== Sys2Proof/Machine/Cipher.lean ====
section
/-! DEFINITION. SM4-XTS (spec/11 R293): the block cipher, and a 64-byte block of HBM as one data unit of four cipher blocks. The cipher
and the mode are the published standards that the rule names (assumption 100). -/

namespace Sys2Proof.Machine

open Sys2Proof

/-- The substitution of SM4, by value. -/
def sm4Box : List Nat :=
  [0xd6, 0x90, 0xe9, 0xfe, 0xcc, 0xe1, 0x3d, 0xb7, 0x16, 0xb6, 0x14, 0xc2, 0x28, 0xfb, 0x2c, 0x05,
   0x2b, 0x67, 0x9a, 0x76, 0x2a, 0xbe, 0x04, 0xc3, 0xaa, 0x44, 0x13, 0x26, 0x49, 0x86, 0x06, 0x99,
   0x9c, 0x42, 0x50, 0xf4, 0x91, 0xef, 0x98, 0x7a, 0x33, 0x54, 0x0b, 0x43, 0xed, 0xcf, 0xac, 0x62,
   0xe4, 0xb3, 0x1c, 0xa9, 0xc9, 0x08, 0xe8, 0x95, 0x80, 0xdf, 0x94, 0xfa, 0x75, 0x8f, 0x3f, 0xa6] ++
  [0x47, 0x07, 0xa7, 0xfc, 0xf3, 0x73, 0x17, 0xba, 0x83, 0x59, 0x3c, 0x19, 0xe6, 0x85, 0x4f, 0xa8,
   0x68, 0x6b, 0x81, 0xb2, 0x71, 0x64, 0xda, 0x8b, 0xf8, 0xeb, 0x0f, 0x4b, 0x70, 0x56, 0x9d, 0x35,
   0x1e, 0x24, 0x0e, 0x5e, 0x63, 0x58, 0xd1, 0xa2, 0x25, 0x22, 0x7c, 0x3b, 0x01, 0x21, 0x78, 0x87,
   0xd4, 0x00, 0x46, 0x57, 0x9f, 0xd3, 0x27, 0x52, 0x4c, 0x36, 0x02, 0xe7, 0xa0, 0xc4, 0xc8, 0x9e] ++
  [0xea, 0xbf, 0x8a, 0xd2, 0x40, 0xc7, 0x38, 0xb5, 0xa3, 0xf7, 0xf2, 0xce, 0xf9, 0x61, 0x15, 0xa1,
   0xe0, 0xae, 0x5d, 0xa4, 0x9b, 0x34, 0x1a, 0x55, 0xad, 0x93, 0x32, 0x30, 0xf5, 0x8c, 0xb1, 0xe3,
   0x1d, 0xf6, 0xe2, 0x2e, 0x82, 0x66, 0xca, 0x60, 0xc0, 0x29, 0x23, 0xab, 0x0d, 0x53, 0x4e, 0x6f,
   0xd5, 0xdb, 0x37, 0x45, 0xde, 0xfd, 0x8e, 0x2f, 0x03, 0xff, 0x6a, 0x72, 0x6d, 0x6c, 0x5b, 0x51] ++
  [0x8d, 0x1b, 0xaf, 0x92, 0xbb, 0xdd, 0xbc, 0x7f, 0x11, 0xd9, 0x5c, 0x41, 0x1f, 0x10, 0x5a, 0xd8,
   0x0a, 0xc1, 0x31, 0x88, 0xa5, 0xcd, 0x7b, 0xbd, 0x2d, 0x74, 0xd0, 0x12, 0xb8, 0xe5, 0xb4, 0xb0,
   0x89, 0x69, 0x97, 0x4a, 0x0c, 0x96, 0x77, 0x7e, 0x65, 0xb9, 0xf1, 0x09, 0xc5, 0x6e, 0xc6, 0x84,
   0x18, 0xf0, 0x7d, 0xec, 0x3a, 0xdc, 0x4d, 0x20, 0x79, 0xee, 0x5f, 0x3e, 0xd7, 0xcb, 0x39, 0x48]

/-- The substitution on each byte of a word. -/
def sm4Sub (w : Word32) : Word32 :=
  (List.range 4).foldl (fun a i => a ||| (BitVec.ofNat 32 (sm4Box.getD ((w >>> (8 * i)).toNat % 256) 0) <<< (8 * i))) 0

/-- The mixing of a round, and of a round of the key schedule. -/
def sm4Mix (w : Word32) : Word32 :=
  let b := sm4Sub w
  b ^^^ b.rotateLeft 2 ^^^ b.rotateLeft 10 ^^^ b.rotateLeft 18 ^^^ b.rotateLeft 24
def sm4KeyMix (w : Word32) : Word32 :=
  let b := sm4Sub w
  b ^^^ b.rotateLeft 13 ^^^ b.rotateLeft 23

/-- The constant of round i of the key schedule: bytes (4i + j) × 7 mod 256, the first uppermost. -/
def sm4Const (i : Nat) : Word32 :=
  (List.range 4).foldl (fun a j => (a <<< 8) ||| BitVec.ofNat 32 ((4 * i + j) * 7 % 256)) 0

/-- The four words of a cipher block, the first uppermost. -/
def sm4Words (x : BitVec 128) : Word32 × Word32 × Word32 × Word32 :=
  (x.extractLsb' 96 32, x.extractLsb' 64 32, x.extractLsb' 32 32, x.extractLsb' 0 32)

/-- The 32 round keys of a key. -/
def sm4Keys (k : BitVec 128) : List Word32 :=
  let step := fun (y : List Word32 × (Word32 × Word32 × Word32 × Word32)) i =>
    let (a, b, c, d) := y.2
    let e := a ^^^ sm4KeyMix (b ^^^ c ^^^ d ^^^ sm4Const i)
    (y.1 ++ [e], b, c, d, e)
  ((List.range 32).foldl step ([], sm4Words (k ^^^ 0xa3b1bac656aa3350677d9197b27022dc#128))).1

/-- One cipher block through the rounds of some round keys: encryption; decryption with the keys in reverse. -/
def sm4Block (keys : List Word32) (x : BitVec 128) : BitVec 128 :=
  let step := fun (y : Word32 × Word32 × Word32 × Word32) r =>
    let (a, b, c, d) := y
    (b, c, d, a ^^^ sm4Mix (b ^^^ c ^^^ d ^^^ r))
  let (a, b, c, d) := keys.foldl step (sm4Words x)
  d ++ c ++ b ++ a

/-- A number of 16 bytes, lowest byte first, as a cipher block, whose first byte is uppermost; and back. -/
def swap128 (x : BitVec 128) : BitVec 128 :=
  (List.range 16).foldl (fun a i => (a <<< 8) ||| (x.extractLsb' (8 * i) 8).zeroExtend 128) 0

/-- The tweak of the j-th cipher block of a data unit: multiplied j times by x in the field of the mode. -/
def xtsTweak (t : BitVec 128) : Nat → BitVec 128
  | 0 => t
  | j + 1 => let u := xtsTweak t j; (u <<< 1) ^^^ (if u.msb then 0x87#128 else 0)

/-- A 64-byte block of HBM under a key pair (the data key uppermost, then the tweak key): the tweak is its block number PA[51:6], read
lowest byte first (R293). -/
def xtsBlock (enc : Bool) (pair : BitVec 256) (block : Nat) (w : BitVec 512) : BitVec 512 :=
  let keys := sm4Keys (pair.extractLsb' 128 128)
  let t := swap128 (sm4Block (sm4Keys (pair.extractLsb' 0 128)) (swap128 (BitVec.ofNat 128 block)))
  (List.range 4).foldl (fun a j =>
    let u := xtsTweak t j
    let y := swap128 (sm4Block (if enc then keys else keys.reverse) (swap128 (w.extractLsb' (128 * j) 128 ^^^ u))) ^^^ u
    a ||| (y.zeroExtend 512 <<< (128 * j))) 0

end Sys2Proof.Machine
end

