-- ==== Sys2Proof/Machine/Translate.lean ====
section
/-! DEFINITION. HBM and virtual memory (spec/11 R280 to R293, spec/16 R387, R397): the bytes of HBM under a key, the place of an address
among controllers, banks and rows, page tables and TLBs, and a partition's memory as the part's own engines read and write it. -/

namespace Sys2Proof.Machine

open Sys2Proof

/-! ## The outside world behind a window (R387, assumption 22) -/

/-- Bytes the module does not hold, at the n-th read. -/
def outsideBytes (n a len : Nat) : List Byte := (List.range len).map fun i => Config.outsideByte n (a + i)

/-! ## Encryption (R293) -/

/-- Keys are named by numbers: those of the 64 identifiers by the identifier, a table key by 64 more than its pair (R293). -/
def keyPair (k : Nat) : BitVec 256 := if k < 64 then Config.keyPair k else BitVec.ofNat 256 (k - 64)

/-- The key of a partition's page tables, which PSETUP sets together with the root (R293, R385). -/
def tableKey (s : State) (part : Nat) : Nat := 64 + (((partAt s part).map fun x => x.setup.tkey.toNat).getD 0)

/-- A 64-byte block that stands encrypted under one key, as an access under another, or under none, finds it (R293): deciphered under that
key, or as it stands. -/
def recrypt (k : Nat) (key : Option Nat) (b : Nat) (w : Wide) : Wide :=
  let stands := xtsBlock true (keyPair k) b w
  match key with
  | some j => xtsBlock false (keyPair j) b stands
  | none => stands

/-- The key a block of HBM was last written under; none where no key has encrypted it. -/
def blockKey (s : State) (b : Nat) : Option Nat := lookupKey b s.chip.hbmKeys

/-- A byte of HBM as an access under a key finds it: what was written under that key, or under no key, as it stands (assumption 88);
what was written under another key deciphered under the access's own. -/
def hbmByte (s : State) (key : Option Nat) (a : Nat) : Byte :=
  match blockKey s (a / 64) with
  | none => s.hbm.read a
  | some k => if key = some k then s.hbm.read a
      else byteAt (recrypt k key (a / 64) (ofBytes (s.hbm.bytes (a / 64 * 64) 64))) (a % 64)

/-- Bytes of HBM under a key. -/
def hbmBytes (s : State) (key : Option Nat) (a n : Nat) : List Byte := (List.range n).map fun i => hbmByte s key (a + i)

/-- A block is from now on encrypted under a key: its bytes are those that an access under the key finds there. -/
def rekey (key : Option Nat) (b : Nat) : Prog := fun s =>
  if blockKey s b = key then []
  else (if (blockKey s b).isSome then [.hbm (64 * b) (hbmBytes s key (64 * b) 64)] else []) ++
    [.chip { s.chip with hbmKeys := match key with | some k => setKey b k s.chip.hbmKeys | none => delKey b s.chip.hbmKeys }]

/-- Write bytes of HBM under a key: each block it touches is read, changed and written as a whole (R275, R293). -/
def writeHbm (key : Option Nat) (a : Nat) (v : List Byte) : Prog :=
  andThen (forEach (distinct ((List.range v.length).map fun i => (a + i) / 64)) (rekey key)) (eff (.hbm a v))

/-- Some byte of a range lies in a block with an error that is not corrected (R370). -/
def badBlock (s : State) (a n : Nat) : Bool := (List.range n).any fun i => s.chip.bad.contains (.block ((a + i) / 64))

/-- Bytes at a physical address as a reader of the module finds them under a key. -/
def physBytes (s : State) (key : Option Nat) (a len : Nat) : List Byte :=
  if localHbm a then hbmBytes s key a len else outsideBytes s.free a len

/-- A 64-bit word at a physical address, lowest byte first (R7). -/
def physWord (s : State) (key : Option Nat) (a : Nat) : Word := lowWord (ofBytes (physBytes s key a 8))

/-! ## Banks and controllers (R282, R283) -/

/-- A bank at reset: no row open, nothing owed (R282, R283). -/
def Bank.reset : Bank := { row := none, owed := 0, lastRead := none, nextDue := none, refEnd := none }
def Ctrl.reset (c : Nat) : Ctrl := { id := c, banks := [], catchDue := false, catchEnd := none }
def ctrlAt (s : State) (c : Nat) : Ctrl := (s.chip.ctrls.find? fun x => x.id = c).getD (Ctrl.reset c)
def updCtrl (k : Nat) (f : Ctrl → Ctrl) : Prog := fun s =>
  [.chip { s.chip with ctrls := f (ctrlAt s k) :: s.chip.ctrls.filter fun x => x.id ≠ k }]
def bankAt (s : State) (c b : Nat) : Bank := getKey Bank.reset b (ctrlAt s c).banks
def updBank (c b : Nat) (f : Bank → Bank) : Prog :=
  updCtrl c fun x => { x with banks := modKey Bank.reset b f x.banks }

/-! ## Translation (R286 to R289) -/

/-- Bits of a page offset at a level (R286). -/
def pageBits (level : Nat) : Nat :=
  match level with
  | 0 => 14
  | 1 => 25
  | _ => 36

/-- The index into the table of a level (R286). -/
def tableIndex (level va : Nat) : Nat :=
  match level with
  | 3 => va / 2 ^ 47 % 1024
  | 2 => va / 2 ^ 36 % 2048
  | 1 => va / 2 ^ 25 % 2048
  | _ => va / 2 ^ 14 % 2048

/-- The address field of a table entry (R287). -/
def entryAddr (w : Word) : Nat := field w 51 14 * 2 ^ 14

/-- How a walk ends: at a leaf of a level, at an entry with V 0, or at a malformed entry (R287 to R289). -/
inductive WalkEnd | leaf (level : Nat) (w : Word) | absent (level : Nat) | malformed
  deriving DecidableEq, Repr

/-- Whether an entry with V 1 breaks the rules of R286 and R287 at its level. -/
def malformedEntry (level : Nat) (w : Word) : Bool :=
  field w 59 58 != 0 || field w 13 0 != 0 ||
    (if w.getLsbD 62 then level == 3 || entryAddr w % 2 ^ pageBits level != 0
     else level == 0 || w.getLsbD 61 || w.getLsbD 60 || field w 57 52 != 0)

/-- What an entry read at a level says: a leaf, an absent or a malformed entry, or none of them but the next table (R286 to R288). -/
def entryEnd (level : Nat) (w : Word) : Option WalkEnd :=
  if !w.getLsbD 63 then some (.absent level)
  else if malformedEntry level w then some .malformed
  else if w.getLsbD 62 || level == 0 then some (.leaf level w)
  else none

/-- Follow the table of a partition from a level downward (R286, R288); tables are read under the table key (R293). -/
def walkTable (s : State) (part va : Nat) : Nat → Nat → WalkEnd
  | 0, table => (entryEnd 0 (physWord s (some (tableKey s part)) (table + 8 * tableIndex 0 va))).getD .malformed
  | level + 1, table =>
    let w := physWord s (some (tableKey s part)) (table + 8 * tableIndex (level + 1) va)
    (entryEnd (level + 1) w).getD (walkTable s part va level (entryAddr w))

/-- The table root of a partition (R286, R382). -/
def rootOf (s : State) (part : Nat) : Nat := ((partAt s part).map fun x => x.setup.root).getD 0

/-- The physical address a leaf gives a virtual address (R286). -/
def leafAddr (level : Nat) (leaf : Word) (va : Nat) : Nat := entryAddr leaf + va % 2 ^ pageBits level

/-- A TLB's entry for an address of a partition (R288). -/
def tlbFind (l : List TlbEntry) (part va : Nat) : Option TlbEntry :=
  l.find? fun x => x.part = part ∧ x.page = va / 2 ^ pageBits x.level

/-- A TLB of a size with an entry added in place of the least recently used (R288). -/
def tlbAdd (size : Nat) (x : TlbEntry) (l : List TlbEntry) : List TlbEntry :=
  let l := l.filter fun y => !(y.part = x.part ∧ y.level = x.level ∧ y.page = x.page)
  let l := if l.length < size then l else
    match leastBy (fun y => y.used) l with
    | some y => l.filter fun z => !(z.part = y.part ∧ z.level = y.level ∧ z.page = y.page)
    | none => l
  x :: l

def cluTlbAt (s : State) (clu : Pos) : List TlbEntry := getKey [] (cluOf clu) s.chip.cluTlb
def dieTlbAt (s : State) (d : Nat) : List TlbEntry := getKey [] d s.chip.dieTlb
def fillCluTlb (clu : Pos) (x : TlbEntry) : Prog :=
  upd fun c => { c with cluTlb := modKey [] (cluOf clu) (tlbAdd 256 x) c.cluTlb }
def fillDieTlb (d : Nat) (x : TlbEntry) : Prog :=
  upd fun c => { c with dieTlb := modKey [] d (tlbAdd 16384 x) c.dieTlb }

/-- A leaf permits an access of a partition: RD for loads and engine reads, WR for stores, atomics and engine writes, and its KEY
owned (R287, R289, R293). -/
def leafPermits (s : State) (part : Nat) (leaf : Word) (reads writes : Bool) : Bool :=
  (!reads || leaf.getLsbD 61) && (!writes || leaf.getLsbD 60) &&
    (match partAt s part with
      | some p => p.setup.keys.contains (field leaf 57 52)
      | none => false)

/-- The key a leaf names. -/
def leafKey (leaf : Word) : Nat := field leaf 57 52

/-! ## A partition's memory as the engines use it (R286, R289, R319, R397) -/

/-- How an engine's translation ends: a physical address and the key of its page, a fault at a level, a protection violation. -/
inductive VaEnd | ok (pa key : Nat) | fault (level : Nat) | prot
  deriving DecidableEq, Repr

/-- Translate an address of a partition for an engine. -/
def translate (s : State) (part va : Nat) (reads writes : Bool) : VaEnd :=
  if 2 ^ 57 ≤ va then .prot
  else match walkTable s part va 3 (rootOf s part) with
    | .leaf level w => if leafPermits s part w reads writes then .ok (leafAddr level w va) (leafKey w) else .prot
    | .absent level => .fault level
    | .malformed => .prot

/-- The entry of a partition's window for the request of a name: the one that stood when the request was issued (R389). -/
def windowEntry (s : State) (part w id : Nat) : Word :=
  match partAt s part with
  | none => 0
  | some p => ((p.past.find? fun x => x.2.1 = w ∧ id < x.1).map fun x => x.2.2).getD (getKey 0 w p.windows)

/-- A physical address is local, of the host, or of a window whose entry permits the access (R387). -/
def windowLets (s : State) (part id pa : Nat) (writes : Bool) : Bool :=
  let e := windowEntry s part (pa / 2 ^ 40) id
  localHbm pa || pa / 2 ^ 40 == 0xFFF || (e.getLsbD 63 && (!writes || e.getLsbD 62))

/-- Where an address of a partition stands and the key it is accessed under, when its translation and its window let an access through;
partition 8 stands for the physical function, whose addresses are physical (R293, R383, R387, assumption 88). -/
def vaPlace (s : State) (part va : Nat) (writes : Bool) : Option (Nat × Option Nat) :=
  if part = 8 then (if localHbm va then some (va, none) else none)
  else match translate s part va (!writes) writes with
    | .ok pa key => if windowLets s part s.nextId pa writes then some (pa, some key) else none
    | _ => none

/-- The blocks of some bytes at an address: the first byte of each, counted from the address, and how many it has. -/
def blocksAt (va n : Nat) : List (Nat × Nat) :=
  (groupBlocks (va + ·) ((List.range n).map fun i => (i, i))).map fun l => ((l.headD (0, 0)).2, l.length)

/-- Every block of some bytes can be accessed; under reduced service they must be mapped (R397). -/
def rangeGood (s : State) (part va n : Nat) (writes : Bool) : Bool :=
  if s.chip.power.full then (blocksAt va n).all fun x => (vaPlace s part (va + x.1) writes).isSome
  else (List.range n).all fun i => (reducedAddr s (va + i)).isSome

/-- The module's HBM is active: boot has ended and the power state is DPS0 to DPS2 (R392, R397). -/
def hbmActive (s : State) : Bool := s.chip.power.dps ≤ 2

/-- Bytes that an engine finds while HBM is not active: under reduced service those of the handle partitions, a line of another
partition as zeros (R195) and none where a line holds an error (R370); in DPS3 those that HBM keeps. -/
def stillBytes (s : State) (part va n : Nat) : Option (List Byte) :=
  if s.chip.power.full then (blocksAt va n).foldr (fun x acc => acc.bind fun rest =>
    (vaPlace s part (va + x.1) false).bind fun y =>
      if badBlock s y.1 1 then none else some (physBytes s y.2 y.1 x.2 ++ rest)) (some [])
  else (List.range n).mapM fun i => (reducedAddr s (va + i)).bind fun x =>
    if s.chip.bad.contains (.sramLine (x.1 / 32)) then none
    else some (if part = 8 ∨ ownerOf s.chip.sramOwner (x.1 / 32) = part then s.sram.read x.1 else 0)

/-- What an engine finds that cannot be corrected while HBM is not active, and where: the memory port of an SRAM line's cluster, or the
die of a block (R370, R371). -/
def stillBad (s : State) (part va n : Nat) : Option (Pos × Word) :=
  if s.chip.power.full then (blocksAt va n).findSome? fun x => (vaPlace s part (va + x.1) false).bind fun y =>
    if badBlock s y.1 1 then some (dieUnit (ctrlDie (ctrlOf y.1)), nat64 (y.1 / 64 * 64)) else none
  else (List.range n).findSome? fun i => (reducedAddr s (va + i)).bind fun x =>
    if s.chip.bad.contains (.sramLine (x.1 / 32)) then
      let u := x.1 / sramBytes
      some (memoryPort (cluster (u / 20) (u % 20)), nat64 ((va + i) / 32 * 32))
    else none

/-! ## Reads and writes of the part's engines (R282, R319, R324, R402, assumption 101) -/

/-- A read of a graph engine begins: each range that translation and windows let it reach is read through the controllers, a request for
each of its blocks; one that they do not let it reach has no bytes. -/
def beginFetch (src : Pos) (part : Nat) (key : FetchKey) (ranges : List (Nat × Nat)) : Prog :=
  withId fun k => fun s =>
    if hbmActive s then
      let good := fun (r : Nat × Nat) => rangeGood s part r.1 r.2 false
      let blocks := (ranges.zipIdx.filter fun r => good r.1).flatMap fun r => (blocksAt r.1.1 r.1.2).map fun b => (r.2, r.1.1, b)
      andThen
        (upd fun c => { c with fetches := c.fetches ++
          [⟨k, key, blocks.length, ranges.map fun r => if good r then some (List.replicate r.2 0) else none⟩] })
        (forEach blocks fun b => forSome (vaPlace s part (b.2.1 + b.2.2.1) false) fun y =>
          systemReq src part .engRead (.fetch k b.1 b.2.2.1) 1 0 0 y.1 (bytesParts y.1 b.2.2.2 y.2) 138 138) s
    else andThen (upd fun c => { c with fetches := c.fetches ++ [⟨k, key, 0, ranges.map fun r => stillBytes s part r.1 r.2⟩] })
      (forEach ranges fun r => forSome (stillBad s part r.1 r.2) fun y => logHardware y.1.die 0 part false y.1 y.2 0 0) s

/-- Bytes that the part writes at an address of a partition, from a unit of its own; what cannot be written is left. -/
def writeRange (src : Pos) (part : Nat) (obs : Option Nat) (va : Nat) (v : List Byte) : Prog := fun s =>
  if s.chip.power.full then
    forEach (blocksAt va v.length) (fun x => forSome (vaPlace s part (va + x.1) true) fun y =>
      writeOut src part obs y.2 y.1 ((v.drop x.1).take x.2)) s
  else andThen (forEach v.zipIdx fun x => forSome (reducedAddr s (va + x.2)) fun y => writeSram part y.1 [x.1])
    (forSome obs fun k => markObs k .written) s

/-- The bytes of 64-bit words, lowest first (R7). -/
def wordBytes (l : List Word) : List Byte := l.flatMap fun w => bytesOf (ofWord w) 8

/-- Records already written to a queue of a partition. -/
def recordCount (s : State) (c : Record → Bool) : Nat := s.chip.records.countP c

/-- Append a record to a partition's queue: its bytes go from a unit to the next place of the queue (R290, R325, R362). -/
def appendRecord (src : Pos) (part : Nat) (q : PartSetup → QueueAt) (count : Nat) (r : Record) (ws : List Word) : Prog := fun s =>
  seqAll [
    addRecord r,
    forSome (partAt s part) fun p => onlyIf ((q p.setup).len != 0)
      (writeRange src part none ((q p.setup).base + 32 * (count % (q p.setup).len)) (wordBytes ws))] s

end Sys2Proof.Machine
end

