-- ==== Sys2Proof/Machine/Memory.lean ====
section
/-! DEFINITION. Memory requests (spec/08 R193, R195, R197, spec/11 R270 to R301, spec/12 R302 to R311, spec/16 R387, R388): issue,
the tile's buffer and forwarding, the cluster port, translation, the controllers and their refresh, performing an access,
replies and completions, and the fifteen memory instructions. -/

namespace Sys2Proof.Machine

open Sys2Proof

/-! ## Sizes, lanes, values -/

def sizeBytes : Size → Nat
  | .b1 => 1
  | .b2 => 2
  | .b4 => 4
  | .b8 => 8
  | .b64 => 64

/-- What a request does to its bytes: reads them, writes them, or both. -/
def ROp.reads : ROp → Bool
  | .load _ => true
  | .gather => true
  | .engRead => true
  | .atomic _ => true
  | _ => false
def ROp.writes : ROp → Bool
  | .store => true
  | .scatter => true
  | .engWrite => true
  | .atomic _ => true
  | _ => false

/-- The lowest bit, in a request's data, of the bytes of a lane. -/
def lanePos (op : ROp) (i : Nat) : Nat :=
  match op with
  | .gather => 32 * i
  | .scatter => 32 * i
  | .engRead => 8 * i
  | .engWrite => 8 * i
  | _ => 0

/-- A lane's bytes of a request's data. -/
def laneBytes (q : MemReq) (w : Wide) (i : Nat) : List Byte := bytesOf (w >>> lanePos q.op i) q.n

/-- The new value of an atomic and its flags (R300); n is 4 or 8. -/
def atomicNew (op : AtomicOp) (n : Nat) (old b c : Word) : Word × Flags :=
  let o := if n = 4 then (old.extractLsb' 0 32).toInt else old.toInt
  let x := if n = 4 then (b.extractLsb' 0 32).toInt else b.toInt
  match op with
  | .add => (keepLow (old + b) (8 * n), 0)
  | .fadd =>
    let r := fadd ⟨false, false, .rne⟩ (old.extractLsb' 0 32) (b.extractLsb' 0 32)
    (r.1.zeroExtend 64, r.2)
  | .min => (if o ≤ x then old else keepLow b (8 * n), 0)
  | .max => (if x ≤ o then old else keepLow b (8 * n), 0)
  | .xchg => (keepLow b (8 * n), 0)
  | .cas => (if old = keepLow b (8 * n) then keepLow c (8 * n) else old, 0)
  | .and => (old &&& keepLow b (8 * n), 0)
  | .or => (old ||| keepLow b (8 * n), 0)

/-! ## Parts (R272, R275) -/

/-- A part of a request. -/
def partAtReq (s : State) (q j : Nat) : Option (MemReq × Part) :=
  (reqAt s q).bind fun r => (r.parts[j]?).map fun p => (r, p)
def updPart (q j : Nat) (f : Part → Part) : Prog :=
  updReq q fun r => { r with parts := r.parts.mapIdx fun i p => if i = j then f p else p }

/-- The bytes of its 64-byte block that a part covers. -/
def covered (q : MemReq) (p : Part) : List Nat :=
  distinct (p.lanes.flatMap fun l => (List.range q.n).map fun i => ((if q.level = 2 then q.ent.va else 0) + l.2 + i) % 64)

/-- A part covers its whole 64-byte block. -/
def wholeBlock (q : MemReq) (p : Part) : Bool := 64 ≤ q.n * p.lanes.length && decide (64 ≤ (covered q p).length)

/-- A part counts as a read at its controller: a load, an atomic, or a write of less than a block (R282). -/
def readsBlock (q : MemReq) (p : Part) : Bool := q.op.reads || !wholeBlock q p

/-- A part has been performed: its value is taken, its bytes are written. -/
def partPerformed (p : Part) : Bool := p.st == .returning || p.st == .performed

/-- Where the die's request hub has let a part go on to its home (R307). -/
def pastHub (p : Part) : Bool := p.st == .queued || p.st == .serving || p.st == .outside || partPerformed p

/-- A part's reply is back, or will be discarded when it comes (R273, R364). -/
def partOver (s : State) (q : Nat) (j : Nat) (p : Part) : Bool :=
  p.st == .performed || s.chip.lostSlots.any fun x => x.2.2.1 == q && x.2.2.2 == j

/-- Nothing of a request is still on its way to its home or back, but what a timeout has lost. -/
def reqOver (s : State) (q : MemReq) : Bool := q.parts.zipIdx.all fun x => partOver s q.id x.2 x.1

/-! ## Who asks (R270, R271) -/

/-- The place a request's message leaves from: the mill for the mill's, else the issuing element. -/
def clientPlace (c : Client) (p : Pos) : Pos :=
  match c with
  | .mill _ _ => millUnit p
  | _ => p

/-- The tokens a request delivers (R70, R271). -/
def MemReq.tokens (q : MemReq) : List Word :=
  if q.out == noTag || !(q.op.reads || q.ack) then [] else q.t0 ++ q.t1

/-- A request that delivers no token ends with an internal completion (R272). -/
def MemReq.silent (q : MemReq) : Bool := q.tokens.isEmpty

/-! ## Pools (R244, R272) -/

/-- A memory instruction has fired and its request waits for the outgoing tag. -/
def defers (x : PipeOp) : Bool := x.defer.isSome && 0x90 ≤ x.op && x.op ≤ 0x9D

/-- The requests an element may have outstanding (R272). -/
def poolLimit (p : Pos) : Nat := if classOf p = some .a then 256 else 8

/-- The requests that count in an element's pool: those of its memory instructions, and firings that will make one when
their tag is known. -/
def poolUse (s : State) (p : Pos) : Nat :=
  (s.chip.reqs.countP fun q => q.p == p && outstanding q &&
    (q.client == .instr || (classOf p == some .a && (match q.client with | .walk _ _ => true | _ => false)))) +
    (elemAt s p).pipe.countP defers

/-- Transaction slots of a cluster that are taken or lost (R272, R364). -/
def slotsTaken (s : State) (clu : Pos) : List Nat :=
  (allParts s).filterMap (fun x => if cluOf x.1.p = cluOf clu then x.2.2.slot else none) ++
    s.chip.lostSlots.filterMap fun x => if x.1 = cluOf clu then some x.2.1 else none

/-- The first n free slots of a cluster's 1,024, when there are as many. -/
def takeSlots (s : State) (clu : Pos) (n : Nat) : Option (List Nat) :=
  let taken := slotsTaken s clu
  let free := ((List.range 1024).filter fun k => !taken.contains k).take n
  if free.length = n then some free else none

/-! ## Sending from a memory node (R271, R274) -/

/-- Put a reply token on the reply network at a place, to leave after a delay. -/
def replyToken (src : Pos) (route : Word) (pay : Wide) (tag : Tag) (delay req : Nat) : Prog :=
  withId fun k => fun s =>
    let p := if routeWide route then pay else ofWord (lowWord pay)
    [.chip { s.chip with net := s.chip.net ++
      [{ id := k, src := src, dst := routePos route, net := .reply, hdr := withRid (headerOf route 3 0 tag), pay := p,
         res := residues p, body := .token, col := (switchOf src).1, row := (switchOf src).2, due := s.fc + delay,
         look := .fresh, chan := some (req, 0) }] }]

/-- The bytes that a request's reply brings to what is no instruction: those an engine, a walk, a fill or the mill reads. -/
def MemReq.replyBytes (q : MemReq) : Nat :=
  if q.op.reads && q.client != .instr then (q.parts.flatMap (·.lanes)).length * q.n else 0

/-- The message that ends a request, of KIND 3 (R25, R272): an internal completion, or what the part's own machinery has read, WIDE when
that is more than 8 bytes and with the flits that follow the first in FLN (R22). -/
def doneMessage (src : Pos) (q : MemReq) (delay : Nat) : Prog :=
  withId fun k => fun s =>
    let dst := clientPlace q.client q.p
    let n := q.replyBytes
    let pay := if n = 0 then 0 else q.val
    let more := (n + 63) / 64 - 1
    [.chip { s.chip with net := s.chip.net ++
      [{ id := k, src := src, dst := dst, net := .reply, hdr := withRid (headerOf (routeTo dst 0 0 0 (decide (8 < n))) 3 more 0),
         pay := pay, res := residues pay, body := .done q.id, col := (switchOf src).1, row := (switchOf src).2, due := s.fc + delay,
         look := .fresh, chan := some (q.id, 1), more := List.replicate more (pay, residues pay) }] }]

/-- The delay of the i-th of a request's tokens after the first: one leaves per fc to one element (R425, assumption 28). -/
def tokenDelay (l : List Word) (i : Nat) : Nat :=
  (l.take i).countP fun y => some (routePos y) = (l[i]?).map routePos

/-- A tag is released when the last of some tokens leaves (R70). -/
def releaseLater (src : Pos) (tag : Tag) (delay : Nat) : Prog :=
  let t := frameTable ⟨frameDie (frameOf tag), frameClu (frameOf tag), 0, 0⟩
  post src t .control (withRid (headerOf (routeTo t 0 0 0 false) 4 0 0)) 0 (.frame (.release (frameOf tag) (iterOf tag))) delay none

/-- Tokens of a reply or of a completion leave a place, to D0 and then D1 (R271); a FREE is released with the last (R70). -/
def sendReply (q : MemReq) (place : Pos) (pay : Wide) (delay : Nat) : Prog :=
  let l := q.tokens
  onlyIf (!q.dead && !l.isEmpty) (seqAll [
    forEach l.zipIdx (fun w => replyToken place w.1 pay q.out (delay + tokenDelay l w.2) q.id),
    updReq q.id (fun x => { x with left := l.length }),
    onlyIf q.rel (releaseLater place q.tag (delay + ((List.range l.length).map (tokenDelay l)).foldl max 0))])

/-- The completion token of a store with ACK, once, from the ordering point that has been reached (R276, R277). -/
def ackFrom (q : MemReq) (place : Pos) (delay : Nat) : Prog :=
  onlyIf (q.ack && !q.acked && !q.silent && !q.dead) (seqAll [sendReply q place (ofWord q.idx) delay,
    updReq q.id fun x => { x with acked := true }])

/-- MEMOUT of the issuing frame falls when the operation is performed (R65). -/
def memoutDown (q : MemReq) : Prog := onlyIf (q.client == .instr && !q.dead) (updFrame (frameOf q.tag) (.memout false))

/-! ## Requests of the part's own machinery and from outside (R288, R383, R389) -/

/-- Change a pending miss. -/
def updMiss (k : Nat) (f : Miss → Miss) : Prog :=
  upd fun c => { c with misses := replaceIf (fun y => y.id = k) f c.misses }
def missAt (s : State) (k : Nat) : Option Miss := s.chip.misses.find? fun m => m.id = k

/-- A walk reads one entry, an HBM read from the walker's die (R282, R288). -/
def readEntry (k level table : Nat) : Prog :=
  reading (fun s => (s, missAt s k)) fun x => forSome x.2 fun m => andThen
    (updMiss k fun y => { y with level := level, table := table })
    (systemReq (dieUnit m.die) m.part (.load false) (.walker k) 8 0 0 (table + 8 * tableIndex level m.va)
      [([(0, 0)], table + 8 * tableIndex level m.va, some (tableKey x.1 m.part))] 138 138)

/-- An entry has come: the walk goes on to the next table, or has come to its end (R288). -/
def walkerRead (k : Nat) (w : Word) : Prog :=
  reading (missAt · k) fun x => forSome x fun m =>
    match m.level, entryEnd m.level w with
    | level + 1, none => readEntry k level (entryAddr w)
    | _, _ => updMiss k fun y => { y with got := some w }

/-- An access of a function through BAR1 has been performed for one block: what it read is kept (R383). -/
def hostRead (fn off : Nat) (v : List Byte) : Prog :=
  updFn fn fun y => { y with bar1 := y.bar1.take off ++ v ++ y.bar1.drop (off + v.length) }

/-- A peer's request is answered (R389, R390). -/
def answerPeer (k : Nat) (v : Option (List Byte)) : Prog := upd fun c => { c with
  peerIn := c.peerIn.filter (fun x => x.1 ≠ k),
  peerOut := c.peerOut ++ (c.peerIn.filter fun x => x.1 = k).map fun x => ⟨k, .answer, x.2, v⟩ }

/-! ## The end of a request (R272, R273, R278) -/

/-- Bytes a request of byte lanes has read. -/
def readBytes (q : MemReq) : List Byte := bytesOf q.val ((q.parts.flatMap (·.lanes)).length * q.n)

/-- Every part is over: replies leave a place, or the message that ends the request. One of a stopped region ends with no reply (R278). -/
def finishReq (k : Nat) (place : Pos) (delay : Nat) : Prog :=
  reading (reqAt · k) fun x => forSome x fun q =>
    if q.dead then dropReq k
    else match q.client with
      | .instr =>
        if q.silent then doneMessage place q delay
        else if q.acked then onlyIf (q.left == 0) (dropReq k)
        else sendReply q place (if q.ack then ofWord q.idx else q.val) delay
      | .walk _ _ => doneMessage place q delay
      | .condw _ _ => doneMessage place q delay
      | .eng _ _ _ => doneMessage place q delay
      | .fill _ _ => doneMessage place q delay
      | .mill _ _ => doneMessage place q delay
      | .record obs => andThen (dropReq k) (forSome obs fun i => markObs i .written)
      | .fetch f i off => andThen (dropReq k) (fetchGot f i off (readBytes q))
      | .walker m => andThen (dropReq k) (walkerRead m (lowWord q.val))
      | .host fn off => andThen (dropReq k) (onlyIf q.op.reads (hostRead fn off (readBytes q)))
      | .peer i => andThen (dropReq k) (answerPeer i (some (match q.op with
          | .engRead => readBytes q
          | .atomic _ => bytesOf q.val q.n
          | _ => [])))

/-! ## Errors of a request -/

/-- The error that a failing request raises: an adjunct fill's is EADJ (R231). -/
def reqCode (q : MemReq) (code : Nat) : Nat := match q.client with | .fill _ _ => codeEadj | _ => code

/-- The ENTRY an error record names for a request: 0 where an engine or the mill made it (R362). -/
def reqEntryNo (q : MemReq) : Nat :=
  match q.client with
  | .eng _ _ _ => 0
  | .mill _ _ => 0
  | _ => q.entry

/-- The source of a request's error: the mill for a request the mill made, else the issuing element (R362). -/
def reqSource (q : MemReq) : Pos := clientPlace q.client q.p

/-- What had a region error raised for it goes no further (R10): an engine operation, an access processor's walk, a mill context's
request, and the matrix instructions of a region that wait for a fill, which are abandoned (R231). -/
def stopEng (p : Pos) (k : Nat) : Prog :=
  updQ p fun x => { x with engs := replaceIf (fun e => e.id = k) (fun e => { e with win := 0 }) x.engs }
def dropWalk (p : Pos) (op : Nat) : Prog := upd fun c => { c with walks := c.walks.filter fun w => !(w.p = p ∧ w.op = op) }
def stopWalk (p : Pos) (op : Nat) : Prog := andThen (dropWalk p op) (dropOp p op)
def stopMill (u : Pos) (k : Nat) : Prog := updMill u k fun z => { z with failed := true }
def MatState.fail (m : MatState) : MatState := { m with abandon := true, run := m.run.map fun x => { x with failed := true } }
def MatState.waitsFill (m : MatState) (k : Nat) : Bool := m.run.any fun r => r.deferred.any fun d => d.asks.any fun y => y.1 == k
def stopFill (r : Region) (k : Nat) : Prog := upd fun c =>
  { c with mats := c.mats.map fun x => if r.holds x.1 && x.2.waitsFill k then (x.1, x.2.fail) else x }
def stopEngine (r : Region) (c : Client) : Prog :=
  match c with
  | .eng p k _ => stopEng p k
  | .walk p op => stopWalk p op
  | .mill u k => stopMill u (k / 2)
  | .fill k _ => stopFill r k
  | _ => skip

/-- The region error of a request that is not performed. -/
def errReq (q : MemReq) (code : Nat) (value : Word) : Prog :=
  reading (regionAt · q.r) fun r => forSome r fun r =>
    onlyIf (!q.dead) (andThen (raiseAt r (reqSource q) (reqCode q code) (reqEntryNo q) q.tag value) (stopEngine r q.client))

/-- A request that raises a region error where it is validated is not performed (R185, R289). -/
def failReq (q : MemReq) (code : Nat) (value : Word) : Prog :=
  seqAll [errReq q code value, memoutDown q, dropReq q.id]

/-- The replies of a request are discarded from now on, and it counts no more; what of it is on its way is performed (R278). -/
def killReq (k : Nat) : Prog :=
  reading (reqAt · k) fun x => forSome x fun q =>
    andThen (onlyIf (q.silent || !(q.parts.all partPerformed)) (memoutDown q)) (updReq k fun y => { y with dead := true })

/-- A part is over without having been performed, and the request with it when no other is on its way. -/
def endPart (k j : Nat) : Prog :=
  andThen (updPart k j fun p => { p with st := .performed, timer := none, slot := none })
    (reading (reqAt · k) fun x => forSome x fun q => onlyIf (reqDone q) (dropReq k))

/-- A request of the part's own engines cannot be performed: the record is lost, the bytes cannot be had (R319, R324, R402). -/
def clientLost (c : Client) : Prog :=
  match c with
  | .record obs => forSome obs fun i => markObs i .lost
  | .fetch f i _ => fetchLost f i
  | _ => skip

/-- A part that raises a region error is not performed (R289). -/
def failPart (k j code : Nat) : Prog :=
  reading (reqAt · k) fun x => forSome x fun q => seqAll [errReq q code 0, clientLost q.client, killReq k, endPart k j]

/-! ## Issue (R271, R295) -/

/-- The entry an access of LD, LDW and the like uses: the handle's own, or for a load of a csr handle its VALS sub-handle's (R294). -/
def dataEntry (r : Region) (place : Pos) (h : Nat) (load : Bool) : HandleEntry :=
  let e := handleAt r place h
  if load ∧ e.valid ∧ e.kind = 2 then handleAt r place e.vals else e

/-- The graph handle of a run as a view of its partition's memory (R320, R339). -/
def graphEntry (s : State) (r : Region) (h : Nat) : HandleEntry :=
  match (runAt s r.run).bind fun x => x.handles.find? fun y => y.1 = h with
  | some y => ⟨handleW0 true 2 0 (encodeFmt .raw).toNat false false r.part ⟨0, 0, 0, 0⟩ 1 1, nat64 y.2.1, nat64 y.2.2, 0⟩
  | none => HandleEntry.reset

/-- The entry a request uses at a place: a condition word's is its run's, and only an instruction's own load of a csr handle goes to
VALS (R294). -/
def reqEntry (s : State) (r : Region) (c : Client) (place : Pos) (h : Nat) (load : Bool) : HandleEntry :=
  match c with
  | .condw _ _ => graphEntry s r h
  | .instr => dataEntry r place h load
  | _ => handleAt r place h

/-- An engine that checked its offsets against one entry is served by that entry only (R185, R193). -/
def checkedClient (c : Client) : Bool := match c with | .eng _ _ _ => true | _ => false

/-- Whether an entry can serve a request at the place that validates it: valid, of a kind it accepts, at the level and the home the
request was sent to, and for an engine the entry its range was checked against (R185, R294). -/
def entryServes (r : Region) (q : MemReq) (e : HandleEntry) : Bool :=
  e.valid && (q.client != .instr || e.kind ≤ 1 || q.op.reads) && e.level == q.level &&
    (if q.level = 0 then spadHome r e q.p == q.home else q.level != 1 || memoryPort (cluHome e q.p) == q.home) &&
    (!checkedClient q.client || e == q.ent)

/-- What an issuer gives a request; `id` is the name it has already when its firing waited for a tag. -/
structure ReqSpec where
  p : Pos
  r : Nat
  entry : Nat
  op : ROp
  client : Client
  h : Nat
  n : Nat
  lanes : List (Nat × Nat)
  b : Wide
  c : Wide
  idx : Word
  scope : Scope
  str : Bool
  ack : Bool
  tag : Tag
  out : Tag
  t0 : List Word
  t1 : List Word
  rel : Bool
  id : Option Nat := none
  deriving DecidableEq, Repr

/-- The weak stores, and strong ones of tile scope, that stand in the outgoing buffer of a tile, the youngest first (R305). -/
def bufferedStores (s : State) (x : ReqSpec) : List MemReq :=
  (s.chip.reqs.filter fun q => unitOf q.p == unitOf x.p && q.r == x.r && q.client == .instr && q.level == 2 &&
    q.op.writes && !q.op.reads && (!q.str || q.scope == .tile) && q.parts.any fun y => y.st == .tile).reverse

/-- The byte a store writes at a virtual address: that of its highest lane (R299). -/
def storedByte (q : MemReq) (a : Nat) : Option Byte :=
  (q.parts.flatMap (·.lanes)).reverse.findSome? fun m =>
    let base := q.ent.va + m.2
    if base ≤ a ∧ a < base + q.n then (laneBytes q q.b m.1)[a - base]? else none

/-- Bytes that the stores in the issuing tile's outgoing buffer give a weak or tile-scope load, the youngest store of each byte first; by
virtual address (R305). -/
def forwarded (s : State) (x : ReqSpec) (base : Nat) : List (Nat × Byte) :=
  if !(x.op == .load true || x.op == .load false || x.op == .gather) || x.client != .instr || (x.str && x.scope != .tile) then []
  else
    let stores := bufferedStores s x
    x.lanes.flatMap fun l => (List.range x.n).filterMap fun i =>
      let a := base + l.2 + i
      (stores.findSome? fun q => storedByte q a).map fun v => (a, v)

/-- Every byte of a load is forwarded: it is served in the tile's buffer. A load of which only some bytes stand there takes none of them,
and reads all of them at their home after those stores, so that it sees no part of a write (R304, R305, R311, assumption 102). -/
def allForwarded (x : ReqSpec) (base : Nat) (fwd : List (Nat × Byte)) : Bool :=
  !fwd.isEmpty && x.lanes.all fun l => (List.range x.n).all fun i => (lookupKey (base + l.2 + i) fwd).isSome

/-- The stores of the buffer that give a load its bytes: of each byte the youngest (R305). -/
def suppliers (s : State) (x : ReqSpec) (base : Nat) : List Nat :=
  distinct (x.lanes.flatMap fun l => (List.range x.n).filterMap fun i =>
    ((bufferedStores s x).find? fun q => (storedByte q (base + l.2 + i)).isSome).map (·.id))

/-- A load has taken bytes of some stores that have not left their buffer; of each the first such load is noted (R306). -/
def markSeen (load : Nat) (stores : List Nat) : Prog := upd fun c =>
  { c with reqs := c.reqs.map fun q => if stores.contains q.id then { q with seen := some (q.seen.getD load) } else q }

/-- The flits that follow the first of a request's message: one for data of more than 64 bits, two for the offsets of 16 lanes
(R22, assumption 85). -/
def moreFlits (x : ReqSpec) : Nat :=
  let wide : Bool := match x.op with
    | .store => decide (8 < x.n)
    | .scatter => true
    | .engWrite => true
    | .atomic .cas => decide (4 < x.n)
    | _ => false
  (if wide then 1 else 0) + (if x.op = .gather ∨ x.op = .scatter then 2 else 0)

/-- A request's message of KIND 2 stands in its unit's outgoing buffer, all of its flits together (R22, R25, R271), WIDE; the contents of
its payload are the request itself, and their bits are free (assumption 85). -/
def requestMessage (src dst : Pos) (tag : Tag) (req n delay i : Nat) : Prog :=
  withId fun k => fun s =>
    let pay := Config.word i
    [.chip { s.chip with net := s.chip.net ++
      [{ id := k, src := src, dst := dst, net := .request, hdr := withRid (headerOf (routeTo dst 0 0 0 true) 2 n tag), pay := pay,
         res := residues pay, body := .request req, col := (switchOf src).1, row := (switchOf src).2, due := s.fc + delay,
         look := .fresh, chan := none, more := List.replicate n (pay, residues pay) }] }]

/-- Other requests of a unit are on their way: its buffer and links are loaded (assumption 5). -/
def unitLoaded (s : State) (p : Pos) : Bool := s.chip.reqs.any fun q => unitOf q.p == unitOf p && !(q.parts.all partPerformed)

/-- The leaves that translate the bytes of a store, by 16 KiB page with their levels, as the tables stand; none unless every page has one.
The store keeps them to its home, so that its completion token may leave before it has got there: a page that the host unmaps
meanwhile no longer faults it (R290, R292, R308, assumption 86). -/
def pinsOf (s : State) (q : MemReq) : List (Nat × Nat × Word) :=
  let pages := distinct (q.parts.flatMap fun p => p.lanes.map fun l => (q.ent.va + l.2) / 2 ^ 14)
  let l := pages.filterMap fun pg =>
    if 2 ^ 57 ≤ pg * 2 ^ 14 then none
    else match walkTable s q.part (pg * 2 ^ 14) 3 (rootOf s q.part) with
      | .leaf level w => some (pg, level, w)
      | _ => none
  if q.op.reads || !q.op.writes || q.client != .instr || l.length < pages.length then [] else l

/-- A store that will meet no page fault any more, and has met none (R308). -/
def settled (q : MemReq) : Bool := !q.pins.isEmpty && !q.faulted

/-- A fresh name, or the one an operation has already. -/
def withName (id : Option Nat) (p : Nat → Prog) : Prog :=
  match id with
  | some k => p k
  | none => withId p

/-- The tile, node or port a request is sent to (R270): a handle that is not valid in the issuer's copy is looked for at the level it is
declared at. -/
def requestHome (r : Region) (src p : Pos) (e : HandleEntry) (level : Nat) : Pos :=
  if level = 0 then (if e.valid then spadHome r e p else unitOf src)
  else if level = 1 then memoryPort (if e.valid then cluHome e p else src)
  else memoryPort src

/-- Issue a request: its message enters the buffer of its unit (R270, R271, R307). An HBM request takes 138 fc to its controller's queue
and its reply 138 fc from the bank, 12 more each way for a die crossed (R425), the hops to the cluster port among them; the division
of the on-chip latencies of R282 between the way out and the way back is free (assumption 24). A load whose bytes all
stand in the buffer is served there (R305). -/
def issueReq (x : ReqSpec) : Prog :=
  withFree fun i => withFree fun j => withName x.id fun k => fun s =>
    match regionAt s x.r with
    | none => []
    | some r =>
      let src := clientPlace x.client x.p
      let e := reqEntry s r x.client x.p x.h x.op.reads
      let level := if e.valid then e.level else ((declOf r x.h).map fun d => levelNum d.level).getD 0
      let far := latency src (memoryPort src)
      let total := if level = 0 then 6 else if level = 1 then 20 - 2 * far else 276 - 2 * far
      let outward := if level = 2 then 138 - far else 1 + Config.delay i % (total - 1)
      let fwd := if level = 2 then forwarded s x e.va else []
      let here := allForwarded x e.va fwd
      let home := requestHome r src x.p e level
      let q : MemReq :=
        { id := k, p := x.p, r := x.r, part := r.part, entry := x.entry, op := x.op, client := x.client, h := x.h, n := x.n,
          parts := if here then [] else [⟨x.lanes, e.va + (x.lanes.headD (0, 0)).2, none, .tile, s.fc, k, 0, none, none, 0, none, false⟩],
          b := x.b, c := x.c, idx := x.idx, scope := x.scope, str := x.str, ack := x.ack, acked := false,
          tag := x.tag, out := x.out, t0 := x.t0, t1 := x.t1, rel := x.rel, fwd := if here then fwd else [], val := 0, flags := 0,
          out' := outward, back := total - outward, doneAt := none, dead := false, level := level, ent := e, home := home }
      let taken := fun (l : Nat × Nat) => (List.range x.n).map fun b => (lookupKey (e.va + l.2 + b) fwd).getD 0
      let value := x.lanes.foldl (fun v l => v ||| (ofBytes (taken l) <<< lanePos x.op l.1)) 0
      let q' := if here then { q with val := value } else { q with pins := if level = 2 then pinsOf s q else [] }
      seqAll [
        upd (fun c => { c with reqs := c.reqs ++ [q'] }),
        onlyIf here (markSeen k (suppliers s x e.va)),
        onlyIf (!here) (requestMessage src home x.tag k (moreFlits x) (if unitLoaded s src then Config.delay j else 0) j),
        onlyIf (x.client == .instr && !(here && !q.silent)) (updFrame (frameOf x.tag) (.memout true)),
        onlyIf (level == 2 && x.op.writes && (x.client == .instr || (match x.client with | .condw _ _ => true | _ => false)))
          (updRegion x.r fun y => { y with nr := true }),
        onlyIf (x.scope == .tile && settled q') (ackFrom q' (unitOf src) 0),
        onlyIf here (finishReq k (unitOf src) (1 + Config.delay i))] s

/-! ## The message (R22, R25, R271) -/

/-- The request that a message brings. -/
def requestIn (s : State) (m : Msg) : Option MemReq :=
  match m.body with
  | .request q => reqAt s q
  | _ => none

/-- The message of a request. -/
def requestMsg (s : State) (q : Nat) : Option Msg := s.chip.net.find? fun m => m.body = .request q

/-- A request's message still stands in its unit's outgoing buffer. -/
def unsent (s : State) (m : Msg) : Bool := (requestIn s m).any fun q => q.parts.any fun p => p.st == .tile

/-- The 64-byte blocks of its pages that an hbm request may touch. -/
def blockPlaces (q : MemReq) : List Nat :=
  distinct (q.parts.flatMap fun p => p.lanes.flatMap fun l => [(q.ent.va + l.2) % 2 ^ 14 / 64, (q.ent.va + l.2 + q.n - 1) % 2 ^ 14 / 64])

/-- A request of another tile waits for a store whose bytes a load has taken from its tile's buffer before the request was issued, and which
it may meet at its home: it may follow that load through tokens, and then comes after the store in home order (R306, assumption 103). -/
def awaitsSeen (s : State) (q : MemReq) : Bool :=
  q.level == 2 && s.chip.reqs.any fun x => (x.seen.any fun l => decide (l < q.id)) && x.part == q.part && unitOf x.p != unitOf q.p &&
    !(x.parts.all fun p => partPerformed p || p.st == .aborted) && (blockPlaces x).any (blockPlaces q).contains

/-- A request's message may leave its buffer: it is the first there for its destination (R22, R307), and waits for no store (R306). -/
def sendable (s : State) (m : Msg) : Bool :=
  unsent s m && m.due ≤ s.fc && !((requestIn s m).any (awaitsSeen s)) && s.chip.net.all fun x => !(unsent s x && unitOf x.src == unitOf m.src && x.dst == m.dst && x.id < m.id)

/-- The message leaves the buffer (R22). -/
def sendMessage (m : Msg) : Prog :=
  reading (requestIn · m) fun x => forSome x fun q =>
    updReq q.id fun y => { y with parts := y.parts.map fun p => if p.st = .tile then { p with st := .sent } else p }

/-- The messages of one unit to one place are taken there in the order in which they left its buffer (R307). -/
def firstSent (s : State) (m : Msg) : Bool :=
  s.chip.net.all fun x => !((requestIn s x).isSome && unitOf x.src == unitOf m.src && x.dst == m.dst && x.id < m.id)

/-- The first of the messages of requests that have reached a place: by fc of arrival, those of one fc by source (R272, R275). -/
def takenNext (s : State) (m : Msg) : Bool :=
  let ok := fun x => (requestIn s x).isSome && !unsent s x && x.dst == m.dst && arrived s x && firstSent s x
  ok m && s.chip.net.all fun x => !(ok x && arrivalKey x < arrivalKey m)

/-- The message of a request has reached the place that validates it, and it is its turn. -/
def requestHere (s : State) (q : Nat) : Bool := (requestMsg s q).any (takenNext s)

/-! ## The cluster port and translation (R272, R288, R307) -/

/-- The 64-byte blocks of an hbm request (R272). -/
def blocksOf (e : HandleEntry) (q : MemReq) : List (List (Nat × Nat)) :=
  groupBlocks (fun o => e.va + o) (q.parts.flatMap (·.lanes))

/-- An offset range breaks the bounds or the alignment of an hbm handle (R295). -/
def outOfRange (e : HandleEntry) (n x : Nat) : Bool := e.ext < x + n || (n ≤ 64 && (e.va + x) % n != 0)

/-- A request waits at its port for slots. -/
def awaitsSlots (q : MemReq) : Bool := q.parts.any fun p => p.st == .port

/-- The place of a request in the order of arrival at its port. -/
def portOrder (q : MemReq) : Nat := (q.parts.headD ⟨[], 0, none, .tile, 0, 0, 0, none, none, 0, none, false⟩).arrived

/-- TRANSACTION_ACQUIRE may be made: the request has come to its port and is taken in, or it is the first that waits there and as many
slots are free as it needs (R272, R307). -/
def acquireEnabled (s : State) (k : Nat) : Bool :=
  match reqAt s k with
  | none => false
  | some q =>
    (q.level == 2 && requestHere s k) ||
      (awaitsSlots q && (s.chip.reqs.all fun x => !(cluOf x.p == cluOf q.p && awaitsSlots x && portOrder x < portOrder q)) &&
        (takeSlots s q.p q.parts.length).isSome)

/-- A request without a lane has nothing to perform: it ends where it has been taken in (R299). -/
def endEmpty (k : Nat) (place : Pos) (delay : Nat) : Prog :=
  reading (reqAt · k) fun x => forSome x fun q => andThen (onlyIf (!q.silent) (memoutDown q)) (finishReq k place delay)

/-- The request enters the port: validated against the port's copy and divided into blocks (R185, R272); a store acknowledged at
cluster scope has been performed there (R276). -/
def enterPort (k : Nat) : Prog :=
  withId fun seq => reading (fun s => (s, reqAt s k, requestMsg s k)) fun x => forSome x.2.1 fun q =>
    let s := x.1
    andThen (forSome x.2.2 fun m => dropMsg m.id)
      (match (regionAt s q.r).map fun r => (r, reqEntry s r q.client (memoryPort q.p) q.h q.op.reads) with
        | none => failReq q codeEhandle 0
        | some (r, e) =>
          if !entryServes r q e then failReq q codeEhandle 0
          else if q.parts.any fun p => p.lanes.any fun l => outOfRange e q.n l.2 then failReq q codeEprot 0
          else
            let q1 : MemReq := { q with ent := e, parts := (blocksOf e q).map fun l =>
              ⟨l, e.va + (l.headD (0, 0)).2, none, .port, s.fc, seq, 0, none, none, 0, none, false⟩ }
            let q' := { q1 with pins := if q.pins.isEmpty || e != q.ent then pinsOf s q1 else q.pins }
            seqAll [
              updReq k fun _ => q',
              onlyIf (q.scope == .cluster && settled q') (ackFrom q' (memoryPort q.p) 0),
              onlyIf q'.parts.isEmpty (endEmpty k (memoryPort q.p) 0)])

/-- A leaf, and the window that its address lies in, permit a request's access (R281, R287, R289, R387). -/
def permitted (s : State) (q : MemReq) (level : Nat) (leaf : Word) (va : Nat) : Bool :=
  leafPermits s q.part leaf (q.op.reads && !q.op.writes) q.op.writes && windowLets s q.part q.id (leafAddr level leaf va) q.op.writes

/-- A part has its translation: its physical address and its key; the permission of the leaf, or of the window, may fail it
(R281, R287, R289, R387). One whose fault was resumed no longer faults: its frame's PFC falls (R290, R359, assumption 119). -/
def translated (k j level : Nat) (leaf : Word) (extra : Nat) : Prog :=
  reading (fun s => (s, partAtReq s k j)) fun x => forSome x.2 fun y =>
    let pa := leafAddr level leaf y.2.va
    andThen (onlyIf y.2.owes (andThen (updPart k j fun p => { p with owes := false }) (parkFrame (frameOf y.1.tag) (.pfc false)))) <|
    if permitted x.1 y.1 level leaf y.2.va then
      updPart k j fun p => { p with pa := some pa, key := some (leafKey leaf), st := .hub, due := x.1.fc + extra }
    else failPart k j codeEprot

/-- A part seeks its translation in the cluster TLB and then the die TLB, 16 fc more (R282, R288); else it waits. -/
def seekPart (k j : Nat) : Prog :=
  reading (fun s => (s, partAtReq s k j)) fun x => forSome x.2 fun y =>
    let s := x.1
    let q := y.1
    let miss := forSome (regionAt s q.r) fun r => countFor r q.p false 0x09
    match tlbFind (cluTlbAt s q.p) q.part y.2.va with
    | some t => seqAll [fillCluTlb q.p { t with used := s.fc }, translated k j t.level t.leaf 0]
    | none =>
      match tlbFind (dieTlbAt s q.p.die) q.part y.2.va with
      | some t => seqAll [miss, fillCluTlb q.p { t with used := s.fc }, fillDieTlb q.p.die { t with used := s.fc },
          translated k j t.level t.leaf 16]
      | none => seqAll [miss, (forSome (regionAt s q.r) fun r => countFor r q.p true 0x11),
          updPart k j fun p => { p with st := .hub, pa := none }]

/-- The request leaves the port: each block has its slot and its timer runs, and their translations are sought (R272, R288, R364). -/
def leavePort (k : Nat) : Prog :=
  reading (fun s => (s, reqAt s k)) fun x => forSome x.2 fun q =>
    match takeSlots x.1 q.p q.parts.length with
    | none => skip
    | some slots => seqAll [
        updReq k (fun y => { y with parts := (y.parts.zip slots).map fun z =>
          { z.1 with st := .hub, slot := some z.2, timer := some x.1.fc } }),
        countEvent q.part q.p false 0x0A q.parts.length,
        forEach (List.range q.parts.length) (seekPart k)]

/-- TRANSACTION_ACQUIRE: the port takes a request in, and gives the blocks of the first that waits their slots (R272). -/
def acquire (k : Nat) : Prog :=
  reading (reqAt · k) fun x => forSome x fun q => if awaitsSlots q then leavePort k else enterPort k

/-! ## The die's request hub (R307, R308) -/

/-- A part has passed its cluster port and not yet the die's hub; one that a page fault holds passes no ordering point beyond the port
(R308, assumption 86). -/
def beforeHub (p : Part) : Bool := p.st == .port || p.st == .hub || p.st == .miss

/-- Two parts may be bound for one home: that of an untranslated one is any. -/
def mayMeet (x p : Part) : Bool := x.pa.isNone || x.pa.map homeOf == p.pa.map homeOf

/-- A part may pass the hub: no part that reached the port before it and may be bound for the same home is still before the hub (R307,
assumption 87). -/
def hubTurn (s : State) (q : MemReq) (j : Nat) (p : Part) : Bool :=
  (allParts s).all fun x => !(cluOf x.1.p == cluOf q.p && beforeHub x.2.2 &&
    (x.2.2.arrived < p.arrived || (x.1.id == q.id && x.2.1 < j)) && mayMeet x.2.2 p)

/-- Other requests of a die are between their ports and their homes: its links are loaded (assumption 5). -/
def dieLoaded (s : State) (die k : Nat) : Bool :=
  (allParts s).any fun x => x.1.id != k && x.1.p.die == die && (beforeHub x.2.2 || x.2.2.st == .queued || x.2.2.st == .serving)

/-- A part passes the hub toward its home: to a controller's queue, or out through a window's port; it arrives after every part that
passed before it (R307, R388). A store acknowledged at die scope has been performed when all of it has passed (R276), but after a page
fault only when it has been performed at its home (R308). -/
def passHub (k j : Nat) : Prog :=
  withId fun seq => withFree fun i => reading (fun s => (s, partAtReq s k j)) fun x => forSome x.2 fun y => forSome y.2.pa fun pa =>
    let s := x.1
    let q := y.1
    let far := if localHbm pa then 12 * diesCrossed q.p.die (ctrlDie (ctrlOf pa)) else Config.delay i
    let wait := if dieLoaded s q.p.die k then Config.delay (i + 1) else 0
    seqAll [
      updPart k j (fun p => { p with
        st := if localHbm pa then .queued else .outside,
        due := max (s.fc + q.out' + far + wait) (lastDueTo s q.p.die (homeOf pa)), arrived := seq }),
      onlyIf (localHbm pa) (countLinks q.part q.p.die (ctrlDie (ctrlOf pa)) 1),
      reading (reqAt · k) fun z => forSome z fun q' =>
        onlyIf (q'.scope == .die && q'.parts.all pastHub && !q'.faulted) (ackFrom q' (dieUnit q'.p.die) 0)]

/-! ## Misses and walks (R288 to R291) -/

/-- A miss that waits for a part's page: of 16 KiB, since the size of a page is not known before its walk has ended (assumption 104). -/
def missFor (s : State) (q : MemReq) (p : Part) : Option Miss :=
  s.chip.misses.find? fun m => m.die = q.p.die ∧ m.part = q.part ∧ m.va / 2 ^ 14 = p.va / 2 ^ 14

/-- A part has found no translation and no place among the pending misses yet. -/
def unsought (p : Part) : Bool := p.st == .hub && p.pa.isNone

/-- PENDING_MISS may be made: the part found no translation, and its page has a pending miss or fewer than 512 stand. -/
def missEnabled (s : State) (k j : Nat) : Bool :=
  match partAtReq s k j with
  | none => false
  | some (q, p) => unsought p && ((missFor s q p).isSome || decide ((s.chip.misses.countP fun m => m.die = q.p.die) < 512))

/-- The number of walks of a die that are running. -/
def walksOn (s : State) (d : Nat) : Nat := s.chip.misses.countP fun m => m.die = d ∧ m.walking

/-- Change the log ring of a die. -/
def updLog (d : Nat) (f : LogRing → LogRing) : Prog :=
  upd fun c => { c with logs := replaceIf (fun l => l.die = d) f c.logs }

/-- A walker takes a miss: it reads one entry a level, from level 3 downward (R288). -/
def startWalk (k : Nat) : Prog :=
  reading (fun s => (s, missAt s k)) fun x => forSome x.2 fun m => seqAll [
    updMiss k (fun y => { y with walking := true, got := none }),
    countEvent m.part (dieUnit m.die) true 0x12 1,
    readEntry k 3 (rootOf x.1 m.part)]

/-- PENDING_MISS: the part joins its page's miss, or a new one is made and waits for a walker (R288). -/
def pendingMiss (k j : Nat) : Prog :=
  reading (fun s => (s, partAtReq s k j)) fun x => forSome x.2 fun y =>
    let s := x.1
    andThen (updPart k j fun p => { p with st := .miss })
      (match missFor s y.1 y.2 with
        | some m => updMiss m.id fun z => { z with waiters := z.waiters ++ [(k, j)] }
        | none => withId fun id => andThen
            (upd fun c => { c with misses := c.misses ++ [⟨id, y.1.p.die, y.1.part, y.2.va, [(k, j)], false, false, 3, 0, none⟩] })
            (onlyIf (decide (walksOn s y.1.p.die < 64)) (startWalk id)))

/-- ACC of a fault record (R291). -/
def faultAcc (q : MemReq) : Nat :=
  match q.op, q.client with
  | .atomic _, _ => 2
  | .engWrite, _ => 4
  | .engRead, _ => 3
  | _, .condw _ _ => 1
  | op, .instr => if op.writes then 1 else 0
  | op, _ => if op.writes then 4 else 3

/-- The faults of a partition that wait for an answer fill its queue (R290). -/
def faultQueueFull (s : State) (part : Nat) : Bool :=
  match partAt s part with
  | some p => decide (p.setup.faultQ.len ≤ s.chip.faults.countP fun f => f.part = part)
  | none => true

/-- A part's timer stops at a fault and keeps what it has counted (R290, R364); it goes on when the fault is resumed. -/
def stopTimer (fc : Nat) (p : Part) : Part :=
  match p.timer with
  | some t => { p with spent := p.spent + (fc - t), timer := none }
  | none => p

/-- A fault record is written, with the time at which the fault was met, and the host interrupted (R290, R291). -/
def writeFault (k j level : Nat) (t : Word) (q : MemReq) (va : Nat) : Prog :=
  reading id fun s =>
    let fid := s.chip.nextFid
    let w1 := place q.h 56 ||| place (faultAcc q) 53 ||| place level 51 ||| place q.part 48 ||| q.tag.zeroExtend 64
    let w2 : Word := fid.zeroExtend 64
    seqAll [
      upd (fun c => { c with
        nextFid := fid + 1,
        faults := c.faults ++ [⟨fid.toNat, q.part, k, j, va, level, [nat64 va, w1, w2, t], none⟩] }),
      updPart k j fun p => { stopTimer s.fc p with st := .fault fid.toNat },
      appendRecord (dieUnit q.p.die) q.part (·.faultQ)
        (recordCount s fun x => match x with | .fault p _ _ _ _ => p == q.part | _ => false)
        (.fault q.part (nat64 va) w1 w2 t) [nat64 va, w1, w2, t],
      interrupt (.fault q.part),
      countEvent q.part (dieUnit q.p.die) true 0x13 1]

/-- A page fault of a part (R290): the frame is parked and a record written, a replay that faults again keeping what it has
raised; at PFC 63 the request is held without one,
and while the queue is full it is held with its frame parked. An adjunct fill raises EADJ instead (R231, R291). -/
def pageFault (k j level : Nat) : Prog :=
  reading (fun s => (s, partAtReq s k j)) fun x => forSome x.2 fun y =>
    let s := x.1
    let q := y.1
    let f := frameOf q.tag
    let t := nat64 (timeNs s)
    match q.client with
    | .fill _ _ => failPart k j codeEprot
    | _ => andThen (updReq k fun z => { z with faulted := true })
        (if y.2.owes then andThen (updPart k j fun p => { p with owes := false })
          (if faultQueueFull s q.part then updPart k j fun p => { stopTimer s.fc p with st := .held (some (level, t)) }
           else writeFault k j level t q y.2.va)
         else if !q.dead ∧ (frameAt s f).pfc ≥ 63 then updPart k j fun p => { stopTimer s.fc p with st := .held none }
         else andThen (onlyIf (!q.dead) (parkFrame f (.pfc true)))
          (if faultQueueFull s q.part then updPart k j fun p => { stopTimer s.fc p with st := .held (some (level, t)) }
           else writeFault k j level t q y.2.va))

/-- The leaf that a part's request keeps for its page. -/
def pinnedLeaf (s : State) (k j : Nat) : Option (Nat × Word) :=
  (partAtReq s k j).bind fun y => (y.1.pins.find? fun x => x.1 = y.2.va / 2 ^ 14).map (·.2)

/-- A walk's end for one part that waited for it. -/
def endWait (e : WalkEnd) (k j : Nat) : Prog :=
  match e with
  | .leaf level w => translated k j level w 0
  | .absent level => reading (pinnedLeaf · k j) fun x => match x with
    | some y => translated k j y.1 y.2 0
    | none => pageFault k j level
  | .malformed => failPart k j codeEprot

/-- WALK_COMPLETE may be made: the walk has read its last entry. -/
def walkEnabled (s : State) (k : Nat) : Bool := s.chip.misses.any fun m => m.id == k && m.walking && m.got.isSome

/-- The clusters that wait for a miss. -/
def missClusters (s : State) (m : Miss) : List Pos := distinct (m.waiters.filterMap fun w => (reqAt s w.1).map fun q => cluOf q.p)

/-- The oldest miss of a die that no walker has. -/
def nextMiss (s : State) (d : Nat) : Option Nat := (s.chip.misses.find? fun m => m.die = d ∧ !m.walking).map (·.id)

/-- A miss is over, and its walker takes the next one. -/
def endMiss (m : Miss) (waiters : Prog) : Prog :=
  seqAll [
    upd (fun c => { c with misses := c.misses.filter fun y => y.id ≠ m.id }),
    waiters,
    reading (nextMiss · m.die) fun n => forSome n startWalk]

/-- WALK_COMPLETE (R288 to R290): the leaf enters the TLBs and the parts go on, or they fault; a walk that an invalidation
met is repeated (R292). A freed walker takes the next miss. -/
def walkComplete (k : Nat) : Prog :=
  reading (fun s => (s, missAt s k)) fun x => forSome x.2 fun m =>
    let s := x.1
    if m.again then andThen (updMiss k fun y => { y with again := false }) (startWalk k)
    else
      let e := (entryEnd m.level (m.got.getD 0)).getD .malformed
      endMiss m (andThen
        (match e with
          | .leaf level w =>
            let t : TlbEntry := ⟨m.part, level, m.va / 2 ^ pageBits level, w, s.fc⟩
            andThen (fillDieTlb m.die t) (forEach (missClusters s m) fun c => fillCluTlb c t)
          | _ => skip)
        (forEach m.waiters fun w => endWait e w.1 w.2))

/-- A part held without a record. -/
def partHeld (p : Part) : Bool := match p.st with | .held _ => true | _ => false

/-- FAULT_RETRY may be made for a held part: its frame's PFC has fallen below 63, or a record can be written; oldest
first (R290). -/
def retryEnabled (s : State) (k j : Nat) : Bool :=
  match partAtReq s k j with
  | none => false
  | some (q, p) =>
    match p.st with
    | .held counted =>
      (if counted.isSome then !faultQueueFull s q.part else q.dead || decide ((frameAt s (frameOf q.tag)).pfc < 63)) &&
        s.chip.reqs.all fun x => !(frameOf x.tag == frameOf q.tag && x.id < q.id && x.parts.any fun y => match y.st with
          | .held c => c.isSome == counted.isSome
          | _ => false)
    | _ => false

/-- A part is translated anew, and its timer goes on (R290, R364). -/
def retranslate (k j : Nat) : Prog := fun s =>
  andThen (updPart k j fun p => { p with st := .hub, pa := none, timer := some s.fc }) (seekPart k j) s

/-- FAULT_RETRY: a fault that waited for the queue writes its record; a request held at PFC 63 is translated again (R290). -/
def faultRetry (k j : Nat) : Prog :=
  reading (partAtReq · k j) fun x => forSome x fun y =>
    match y.2.st with
    | .held (some x) => writeFault k j x.1 x.2 y.1 y.2.va
    | _ => retranslate k j

/-! ## The controllers (R282 to R285) -/

/-- A refresh or a catch-up holds a bank (R283). -/
def bankHeld (s : State) (c b : Nat) : Bool := (bankAt s c b).refEnd.isSome || (ctrlAt s c).catchEnd.isSome || (ctrlAt s c).catchDue

/-- Parts queued at a controller that have arrived there, and those of them for one bank. -/
def ctrlQueue (s : State) (c : Nat) : List (MemReq × Nat × Part) :=
  (allParts s).filter fun x => x.2.2.st = .queued && x.2.2.due ≤ s.fc && (x.2.2.pa.map ctrlOf) == some c
def bankQueue (s : State) (c b : Nat) : List (MemReq × Nat × Part) :=
  (ctrlQueue s c).filter fun x => (x.2.2.pa.map bankNo) == some b

/-- The 64-byte block of a part. -/
def partBlock (p : Part) : Nat := p.pa.getD 0 / 64

/-- The order of arrival at a controller: by fc, then by source (R275); those of one die arrive in different fc (R307). -/
def arrivedKey (x : MemReq × Nat × Part) : Nat := (x.2.2.due * 2 ^ 25 + posKey (clientPlace x.1.client x.1.p)) * 2 ^ 32 + x.2.2.arrived % 2 ^ 32

/-- Two parts at one controller that are performed in the order of their arrival: of one block (R275), or past one die's hub (R307,
assumption 87). -/
def related (x y : MemReq × Nat × Part) : Bool :=
  partBlock x.2.2 == partBlock y.2.2 || ((hubDie x.1).isSome && hubDie x.1 == hubDie y.1)

/-- No related part has arrived before this one. -/
def headOf (l : List (MemReq × Nat × Part)) (x : MemReq × Nat × Part) : Bool :=
  l.all fun y => !(related x y && arrivedKey y < arrivedKey x)

/-- The part a bank serves next of those that may be served: one passed over 16 times, before which only older ones are, else a read to
the open row, else the oldest (R282). -/
def nextServed (s : State) (c b : Nat) : Option (MemReq × Nat × Part) :=
  let l := bankQueue s c b
  let ok := l.filter (headOf (ctrlQueue s c))
  match leastBy arrivedKey (l.filter fun x => x.2.2.passed ≥ 16) with
  | some x => leastBy arrivedKey (ok.filter fun y => arrivedKey y ≤ arrivedKey x && (!ok.contains x || y == x))
  | none =>
    let hit := ok.filter fun x => readsBlock x.1 x.2.2 && (bankAt s c b).row == (x.2.2.pa.map rowNo)
    (leastBy arrivedKey hit).orElse fun _ => leastBy arrivedKey ok

/-- A bank has no read queued or in flight and has returned none in the last 320 fc (R283). -/
def readIdle (s : State) (c b : Nat) : Bool :=
  ((allParts s).all fun x => !(readsBlock x.1 x.2.2 && (x.2.2.st == .serving || (x.2.2.st == .queued && x.2.2.due ≤ s.fc)) &&
    (x.2.2.pa.map fun a => (ctrlOf a, bankNo a)) == some (c, b))) &&
  (match (bankAt s c b).lastRead with
    | some t => t + 320 ≤ s.fc
    | none => true)

/-- A command is in flight in a bank, or in any bank of a pseudo-channel. -/
def inFlight (s : State) (c : Nat) (b : Option Nat) : Bool :=
  (allParts s).any fun x => x.2.2.st == .serving &&
    (match x.2.2.pa with | some a => ctrlOf a == c && (b.isNone || b == some (bankNo a)) | none => false)

/-- A bank's refresh is the next of its pseudo-channel, and only a command in flight may hold it off: the lowest bank that owes one and
is read-idle, none running (R283). -/
def refreshWants (s : State) (c b : Nat) : Bool :=
  hbmActive s && !(ctrlAt s c).catchDue && (ctrlAt s c).catchEnd.isNone &&
    ((List.range 16).all fun x => (bankAt s c x).refEnd.isNone) &&
    ((List.range 16).find? fun x => (bankAt s c x).owed != 0 && readIdle s c x) == some b

/-- HBM_SERVE may be made for a part; a write waits behind a refresh that can be issued (R283). -/
def serveEnabled (s : State) (k j : Nat) : Bool :=
  match partAtReq s k j with
  | none => false
  | some (q, p) =>
    match p.pa with
    | none => false
    | some a =>
      p.st == .queued && p.due ≤ s.fc && !bankHeld s (ctrlOf a) (bankNo a) &&
        (readsBlock q p || !refreshWants s (ctrlOf a) (bankNo a)) &&
        ((nextServed s (ctrlOf a) (bankNo a)).map fun x => (x.1.id, x.2.1)) == some (k, j)

/-- The latest fc at which a part being served in a bank, or related to one, is performed. -/
def lastServed (s : State) (x : MemReq × Nat × Part) (c b : Nat) : Nat :=
  (allParts s).foldl (fun m y =>
    if y.2.2.st = .serving ∧ (y.2.2.pa.map ctrlOf) = some c ∧ ((y.2.2.pa.map bankNo) = some b ∨ related x y) then max m y.2.2.due
    else m) 0

/-- HBM_SERVE (R282, R425): the bank takes 24, 54 or 84 fc as the row is open, the bank closed or another row open, and 24
more for the write of an atomic or a partial write; the row stays open, and what arrived earlier has been passed over. -/
def serve (k j : Nat) : Prog :=
  withId fun seq => reading (fun s => (s, partAtReq s k j)) fun x => forSome x.2 fun y =>
    forSome y.2.pa fun a =>
      let s := x.1
      let q := y.1
      let c := ctrlOf a
      let b := bankNo a
      let bank := bankAt s c b
      let row := if bank.row = some (rowNo a) then 0 else if bank.row.isNone then 30 else 60
      let wr := if q.op.writes ∧ readsBlock q y.2 then 24 else 0
      let due := max (s.fc + 24 + row + wr) (lastServed s (q, j, y.2) c b)
      seqAll [
        updPart k j fun p => { p with st := .serving, due := due, arrived := seq },
        forEach ((bankQueue s c b).filter fun z => arrivedKey z < arrivedKey (q, j, y.2)) (fun z =>
          updPart z.1.id z.2.1 fun p => { p with passed := p.passed + 1 }),
        updBank c b fun z => { z with row := some (rowNo a),
                                      lastRead := if readsBlock q y.2 then some due else z.lastRead }]

/-- The first fc of a bank's refresh due, in 1/18 ns (R283, assumption 21). -/
def firstRefresh (c b : Nat) : Nat := (Config.refreshPhase c % 3900 + 244 * b) * 18

/-- The stack of a controller is hot (R284). -/
def stackHot (s : State) (c : Nat) : Bool := s.chip.power.hot.contains (c / 64)

/-- When a bank next comes due. -/
def refreshAt (s : State) (c b : Nat) : Nat := (bankAt s c b).nextDue.getD (s.chip.power.refFrom + firstRefresh c b)

/-- REFRESH_DUE may be made. -/
def refreshDueEnabled (s : State) (c b : Nat) : Bool :=
  c < 1024 && b < 16 && hbmActive s && refreshAt s c b ≤ s.t18

/-- When a bank comes due after the present due: after the interval; where the stagger between banks changes from 244 to 122 ns or back,
earlier or later by 122 ns for each bank before it (R283, R284). -/
def nextRefresh (s : State) (c b : Nat) : Nat :=
  let was := (bankAt s c b).hot
  let is := stackHot s c
  let step := if is then 1950 * 18 else 3900 * 18
  let shift := 122 * b * 18
  refreshAt s c b + step + (if was && !is then shift else 0) - (if is && !was then shift else 0)

/-- REFRESH_DUE (R283, R284): the count rises and the next due follows after the interval; a ninth starts a catch-up. -/
def refreshDue (c b : Nat) : Prog := fun s =>
  let next := nextRefresh s c b
  let hot := stackHot s c
  let full := (bankAt s c b).owed ≥ 8
  andThen (updBank c b fun z => { z with owed := z.owed + 1, nextDue := some next, hot := hot })
    (onlyIf full (updCtrl c fun z => { z with catchDue := true })) s

/-- REFRESH_ISSUE may be made: nothing is in flight in the bank either. -/
def refreshIssueEnabled (s : State) (c b : Nat) : Bool := refreshWants s c b && !inFlight s c (some b)

/-- REFRESH_ISSUE: the count falls, the bank closes and is held for tRFCpb (R283). -/
def refreshIssue (c b : Nat) : Prog := fun s =>
  updBank c b (fun z => { z with owed := z.owed - 1, row := none, refEnd := some (s.t18 + 160 * 18) }) s

def refreshEndEnabled (s : State) (c b : Nat) : Bool :=
  match (bankAt s c b).refEnd with
  | some t => t ≤ s.t18
  | none => false

/-- REFRESH_END. -/
def refreshEnd (c b : Nat) : Prog := updBank c b fun z => { z with refEnd := none }

/-- CATCH_UP may be made: commands in flight have finished. -/
def catchUpEnabled (s : State) (c : Nat) : Bool :=
  (ctrlAt s c).catchDue && (ctrlAt s c).catchEnd.isNone && !inFlight s c none &&
    (List.range 16).all fun x => (bankAt s c x).refEnd.isNone

/-- CATCH_UP: eight all-bank refreshes back to back, 3,280 ns (R283); every bank closes. -/
def catchUp (c : Nat) : Prog := fun s =>
  updCtrl c (fun z => { z with catchEnd := some (s.t18 + 3280 * 18),
                               banks := z.banks.map fun x => (x.1, { x.2 with row := none }) }) s

def catchUpEndEnabled (s : State) (c : Nat) : Bool :=
  match (ctrlAt s c).catchEnd with
  | some t => t ≤ s.t18
  | none => false

/-- CATCH_UP_END: every count becomes 0 (R283). -/
def catchUpEnd (c : Nat) : Prog :=
  updCtrl c fun z => { z with catchDue := false, catchEnd := none, banks := z.banks.map fun x => (x.1, { x.2 with owed := 0 }) }

/-- TEMPERATURE_READING: above 85 °C the short interval, below 83 °C the normal one, from the next due (R284). -/
def temperature (g : Nat) (t : Int) : Prog :=
  upd fun c => { c with power := { c.power with
    hot := if 85 < t then insertNew g c.power.hot else if t < 83 then c.power.hot.filter (· ≠ g) else c.power.hot } }

/-! ## The banks of on-chip memory (R189, R197, R275) -/

/-- The address of byte o of a request's handle among all scratchpads, or among all SRAMs; wrapped by the extent, which an engine's
offsets lie within (R193). -/
def chipAddr (q : MemReq) (o : Nat) : Nat :=
  let x := o % q.ent.ext
  if q.level = 0 then spadAddr q.ent q.home x else sramAddr q.ent (cluOf q.home) x

/-- The places that serve accesses one after another: the scratchpad banks of some addresses (R197), by number. -/
def spadBanks (l : List Nat) : List Nat := distinct (l.map (· / 2048))

/-- The addresses of a part's bytes. -/
def partAddrs (q : MemReq) (p : Part) : List Nat := p.lanes.flatMap fun l => (List.range q.n).map fun i => chipAddr q (l.2 + i)

/-- The scratchpad banks a part uses; none in cluster SRAM. -/
def partBanks (q : MemReq) (p : Part) : List Nat := if q.level = 0 then spadBanks (partAddrs q p) else []

/-- The 64-byte blocks of cluster SRAM a part touches; none in a scratchpad. -/
def partSram (q : MemReq) (p : Part) : List Nat := if q.level = 1 then distinct ((partAddrs q p).map (· / 64)) else []

/-- The place of an access in a bank's order: by fc of arrival, then by source (R197, R275). -/
def bankKey (due : Nat) (src : Pos) : Nat := due * 2 ^ 25 + posKey src

/-- The scratchpad banks of the slots a push writes. -/
def pushBanks (s : State) (x : Push) : List Nat :=
  match ringAt s x.tile x.q with
  | some g => match ringEntry s g with
    | some y => spadBanks ((List.range x.data.length).flatMap fun i => (List.range g.size).map fun b =>
        spadAddr y.2 g.tile ((g.tpos + i) % max 1 g.count * g.size + b))
    | none => []
  | none => []

/-- A push is at its ring, none before it waits, and there is room, or the ring's handle has gone and the push fails (R200). -/
def pushReady (s : State) (x : Push) : Bool :=
  x.due ≤ s.fc && s.chip.pushes.all (fun y => !pushBefore y x) &&
    (match ringAt s x.tile x.q with
      | none => true
      | some g => (ringEntry s g).isNone || ringRoom g x.data.length)

/-- Two lists have a member in common. -/
def meets (a b : List Nat) : Bool := a.any b.contains

/-- A matrix instruction with an adapter pass: an MMA with AL and AD (R234). -/
def MatOp.al (o : MatOp) : Bool := o.op == 0xB9 && o.a.getLsbD 26 && o.x.ad

/-- A deferred row has every line that it needs (R230). -/
def DeferRow.complete (d : DeferRow) (al : Bool) : Bool := d.ent.isSome && d.a.isSome && (!al || d.b.isSome)

/-- The ring that a stream's replay window is (R198, R214). -/
def windowRing (s : State) (p : Pos) (e : EngOp) : Option Ring :=
  s.chip.rings.find? fun g => g.tile = unitOf p ∧ g.handle = e.h2 ∧ g.size = 64 ∧ (ringEntry s g).isSome

/-- A stream's next block can be sent: it has arrived, and with a window stands in it. -/
def blockReady (e : EngOp) : Bool :=
  e.kind == .strmi && e.win != 0 && (if e.h2 = 0 then e.got.any fun x => x.1 == e.sent else e.open'.contains e.sent)

/-- A stream would send its next block in this fc: there is one, none has been sent in this fc, and there is room (R213). -/
def blockAsks (s : State) (p : Pos) (e : EngOp) : Bool :=
  blockReady e && (e.lastSend != s.fc || e.sent == e.b) && !halted s p && roomFor s p (outOf e.d0 0 true true)

/-- The scratchpad banks that a stream's next block is read from: those of its window's slot (R189, R214). -/
def windowBanks (s : State) (p : Pos) (e : EngOp) : List Nat :=
  if e.h2 = 0 then [] else match windowRing s p e with
  | some g => spadBanks ((slotLines s g g.rpos).map (· * 32))
  | none => []

/-- The place of a stream's read of its window in the banks' order: it arrived in the fc in which the block could first be sent. -/
def streamKey (s : State) (p : Pos) (e : EngOp) : Nat := bankKey (e.ask.getD s.fc) p

/-- The ring slot that a running matrix instruction reads now: the next of its B ring in a load, the next row of its A ring, or the slot
of the first deferred row, from the fc after its last line came on (R223, R230, R231); none while it is not there. -/
def matrixSlot (s : State) (p : Pos) : Option (Ring × Nat) :=
  let m := matAt s p
  m.run.bind fun r => m.queue.head?.bind fun o =>
    let next := fun (q : Nat) => (ringAt s p q).bind fun g => if ringUnread s g = 0 then none else some (g, g.rpos)
    if s.fc < r.due then none
    else match r.phase with
      | .load => next o.x.qb.toNat
      | .rows => next o.x.qa.toNat
      | .replay => (ringAt s p o.x.qa.toNat).bind fun g => r.deferred.head?.bind fun d =>
          if d.complete o.al ∧ d.seen ≤ s.fc then some (g, d.pos) else none
      | _ => none

/-- The scratchpad banks of the slot that a matrix instruction reads. -/
def matrixBanks (s : State) (p : Pos) : List Nat :=
  match matrixSlot s p with
  | some (g, j) => spadBanks ((slotLines s g j).map (· * 32))
  | none => []

/-- Nothing that comes before a place in their order waits at some banks (R197): neither the part of a request nor a push, nor a
stream's read of its window, nor the read of a matrix element. -/
def banksFirst (s : State) (banks sram : List Nat) (key id : Nat) : Bool :=
  let before := fun (k i : Nat) => k < key || (k == key && i < id)
  ((allParts s).all fun x => !(x.2.2.st == .bank && x.2.2.due ≤ s.fc &&
    before (bankKey x.2.2.due (clientPlace x.1.client x.1.p)) (x.1.id * 2 ^ 11 + x.2.1) &&
    (meets (partBanks x.1 x.2.2) banks || meets (partSram x.1 x.2.2) sram))) &&
  (s.chip.pushes.all fun x => !(pushReady s x && before (bankKey x.due x.src) (x.id * 2 ^ 11) && meets (pushBanks s x) banks)) &&
  (s.chip.qs.all fun x => x.2.engs.all fun e => !(e.kind == .strmi && blockAsks s x.1 e && before (streamKey s x.1 e) (e.id * 2 ^ 11) &&
    meets (windowBanks s x.1 e) banks)) &&
  s.chip.mats.all fun x => !(before (bankKey s.fc x.1) 0 && meets (matrixBanks s x.1) banks)

/-- It is an access's turn at some banks, each of which is free in this fc (R189, R197). -/
def banksTurn (s : State) (banks sram : List Nat) (key id : Nat) : Bool :=
  banksFirst s banks sram key id && banks.all fun b => lookupKey b s.chip.bankFc != some s.fc

/-- A matrix instruction's slot is there and its turn at the slot's banks has come. Its reads go by the banks' order and do not take a
bank's access of the fc: a load takes three slots in two fc (R223, assumption 72). -/
def slotTurn (s : State) (p : Pos) : Bool :=
  (matrixSlot s p).isSome && banksFirst s (matrixBanks s p) [] (bankKey s.fc p) 0

/-- Banks serve an access in this fc. -/
def useBanks (banks : List Nat) : Prog := fun s =>
  if banks.isEmpty then [] else [.chip { s.chip with bankFc := banks.foldl (fun m b => setKey b s.fc m) s.chip.bankFc }]

/-- RING_PUSH may be made: the push is ready and it is its turn at the banks of its slots. -/
def pushEnabled (s : State) (k : Nat) : Bool :=
  match pushAt s k with
  | none => false
  | some x => pushReady s x && banksTurn s (pushBanks s x) [] (bankKey x.due x.src) (x.id * 2 ^ 11)

/-! ## Performing an access (R275, R279, R304) -/

/-- The lanes of a part performed one by one on bytes of one space: `rd` reads and `wr` writes at a lane's offset. -/
def performLanes (q : MemReq) (lanes : List (Nat × Nat)) (rd : State → Nat → List Byte) (wr : Nat → List Byte → Prog)
    (k : Nat) : Prog :=
  forEach lanes fun l =>
    reading (fun s => rd s l.2) fun bytes =>
      let old := lowWord (ofBytes bytes)
      let taken := updReq k fun y => { y with val := y.val ||| (ofBytes bytes <<< lanePos q.op l.1) }
      match q.op with
      | .atomic op =>
        let r := atomicNew op q.n old (lowWord q.b) (lowWord q.c)
        seqAll [wr l.2 (bytesOf (ofWord r.1) q.n), taken, updReq k fun y => { y with flags := y.flags ||| r.2 }]
      | op => if op.writes then wr l.2 (laneBytes q q.b l.1) else taken

/-- The lines of on-chip memory, or the block of HBM, that a part meets, as they may hold an error. -/
def partCells (q : MemReq) (p : Part) : List BadData :=
  match q.level with
  | 0 => (distinct ((partAddrs q p).map (· / 32))).map .spadLine
  | 1 => (distinct ((partAddrs q p).map (· / 32))).map .sramLine
  | _ => [.block (partBlock p)]

/-- A part meets data that cannot be corrected; a write of the whole block replaces it (R370). -/
def partBad (s : State) (q : MemReq) (p : Part) : Bool := readsBlock q p && (partCells q p).any s.chip.bad.contains

/-- Being served, a part is the first of its block and of its die in the order of service. -/
def serveTurn (s : State) (q : MemReq) (j : Nat) (p : Part) : Bool :=
  (allParts s).all fun x => !(x.2.2.st == .serving && (x.2.2.pa.map ctrlOf) == (p.pa.map ctrlOf) && related (q, j, p) x &&
    (x.2.2.due < p.due || (x.2.2.due == p.due && x.2.2.arrived < p.arrived)))

/-- The requests of a die leave through a window in the order in which they passed its hub (R307). -/
def outsideTurn (s : State) (q : MemReq) (p : Part) : Bool :=
  (allParts s).all fun x => !(x.2.2.st == .outside && hubDie x.1 == hubDie q && (x.2.2.pa.map homeOf) == (p.pa.map homeOf) &&
    x.2.2.arrived < p.arrived)

/-- A part is about to be performed: it is at its node, its time has come, and it is its turn (R197, R275, R307). -/
def partTurn (s : State) (q : MemReq) (j : Nat) (p : Part) : Bool :=
  p.due ≤ s.fc && (match p.st with
    | .bank => banksTurn s (partBanks q p) (partSram q p) (bankKey p.due (clientPlace q.client q.p)) (q.id * 2 ^ 11 + j)
    | .serving => serveTurn s q j p
    | .outside => outsideTurn s q p
    | _ => false)

/-- A transaction whose reply is lost to a timeout (R364). -/
def partLost (s : State) (k j : Nat) : Bool := s.chip.lostSlots.any fun x => x.2.2.1 == k && x.2.2.2 == j

/-- MEMORY_REQUEST may be made: the request is taken in at its node on the chip; a part passes the die's request hub; it is performed
where its data is; or its reply reaches the cluster port (R273, R275, R307). -/
def performEnabled (s : State) (k j : Nat) : Bool :=
  match partAtReq s k j with
  | none => false
  | some (q, p) =>
    match p.st with
    | .sent => q.level != 2 && requestHere s k
    | .hub => p.pa.isSome && p.due ≤ s.fc && hubTurn s q j p
    | .returning => p.due ≤ s.fc && !partLost s k j
    | _ => partTurn s q j p

/-- The request is taken in at the tile or SRAM that serves it: validated against that place's copy, and put in the order of its
banks (R185, R197, R275). -/
def takeIn (k : Nat) : Prog :=
  withId fun seq => reading (fun s => (s, reqAt s k, requestMsg s k)) fun x => forSome x.2.1 fun q =>
    let s := x.1
    andThen (forSome x.2.2 fun m => dropMsg m.id)
      (match (regionAt s q.r).map fun r => (r, reqEntry s r q.client q.home q.h q.op.reads) with
        | none => failReq q codeEhandle 0
        | some (r, e) =>
          if !entryServes r q e then failReq q codeEhandle 0
          else
            let blocks := groupBlocks (· % e.ext) (q.parts.flatMap (·.lanes))
            andThen
              (updReq k fun y => { y with ent := e, parts := blocks.map fun l =>
                ⟨l, (l.headD (0, 0)).2, none, .bank, s.fc + q.out', seq, 0, none, none, 0, none, false⟩ })
              (onlyIf blocks.isEmpty (endEmpty k q.home (q.out' + q.back))))

/-- A part has been performed; the issuing frame's operation is when all are, unless it ends with a message (R65, R272). -/
def partIs (k j : Nat) (st : PartStage) (due : Nat) : Prog :=
  andThen (updPart k j fun p => { p with st := st, due := due })
    (reading (reqAt · k) fun x => forSome x fun q => onlyIf (!q.silent && q.parts.all partPerformed) (memoutDown q))

/-- An engine's read is one access: zeros throughout where one of its lines belongs to another partition (R195). -/
def wholeRead (c : Client) : Bool :=
  match c with
  | .eng _ _ _ => true
  | .walk _ _ => true
  | _ => false

/-- The bytes an on-chip read finds: zeros for the whole access where a line is another partition's (R195). -/
def chipRead (s : State) (q : MemReq) (o : Nat) : List Byte :=
  let own := fun a => ownerOf (if q.level = 0 then s.chip.spadOwner else s.chip.sramOwner) (a / 32) == q.part
  let l := (List.range q.n).map fun i => chipAddr q (o + i)
  if (if wholeRead q.client then q.parts.flatMap (partAddrs q) else l).all own then
    l.map fun a => if q.level = 0 then s.spad.read a else s.sram.read a
  else List.replicate q.n 0

/-- An on-chip write, line by line (R191, R195). -/
def chipWrite (q : MemReq) (o : Nat) (v : List Byte) : Prog :=
  seqAll ((List.range ((v.length + 31) / 32)).map fun i =>
    (if q.level = 0 then writeSpad else writeSram) q.part (chipAddr q (o + 32 * i)) ((v.drop (32 * i)).take 32))

/-- What a write of a whole block covers is free of errors again (R370). -/
def replaceBad (q : MemReq) (p : Part) : Prog :=
  onlyIf (!readsBlock q p) (upd fun c => { c with bad := c.bad.filter fun b => !(partCells q p).contains b })

/-- MEMORY_REQUEST at its bank: the access is performed, wrapped by the extent; engine offsets were checked before (R193, R195). -/
def performChip (k j : Nat) (q : MemReq) (p : Part) : Prog :=
  seqAll [
    useBanks (partBanks q p),
    performLanes q p.lanes (fun s o => chipRead s q o) (chipWrite q) k,
    replaceBad q p,
    partIs k j .performed 0,
    reading (reqAt · k) fun x => forSome x fun y => onlyIf (y.parts.all fun z => z.st == .performed) (finishReq k y.home y.back)]

/-- The key an access is performed under: its leaf's; a peer's is that of the block (R293, assumption 88). -/
def partKey (s : State) (q : MemReq) (p : Part) : Option Nat :=
  match q.client with
  | .peer _ => blockKey s (partBlock p)
  | _ => p.key

/-- MEMORY_REQUEST at a controller (R275): performed on the block under its key; the reply starts on its way to the port (R273). -/
def performHbm (k j : Nat) (q : MemReq) (p : Part) : Prog :=
  forSome p.pa fun a =>
    let at' := fun o => a / 64 * 64 + (q.ent.va + o) % 64
    let die := ctrlDie (ctrlOf a)
    seqAll [
      reading (partKey · q p) fun key => performLanes q p.lanes (fun s o => hbmBytes s key (at' o) q.n) (fun o v => writeHbm key (at' o) v) k,
      replaceBad q p,
      onlyIf (readsBlock q p) (countEvent q.part (dieUnit die) true 0x14 1),
      onlyIf q.op.writes (countEvent q.part (dieUnit die) true 0x15 1),
      countLinks q.part die q.p.die 1,
      reading (·.fc) fun fc => partIs k j .returning (fc + 12 * diesCrossed q.p.die die + q.back)]

/-- A request beyond a window may be refused by the peer; the reads of a page walk are not (R387). -/
def refusable (c : Client) : Bool :=
  match c with
  | .walker _ => false
  | _ => true

/-- How a physical address leaves the module, and the address there: PA[39:0] of the peer through the port of the window's entry, or for the
host window a bus address from HBASE up (R387, R388). -/
def outAddr (s : State) (part pa : Nat) (e : Word) : OutWay × Nat :=
  if pa / 2 ^ 40 = 0xFFF then (.pcie, ((partAt s part).map fun x => x.setup.hbase).getD 0 + pa % 2 ^ 40)
  else (.port (field e 14 10), pa % 2 ^ 40)

/-- What a request does beyond a window: an engine's bytes in one access, else one access for each lane (R390). -/
def outAccesses (q : MemReq) (p : Part) : List (Nat × PeerOp) :=
  let first := (p.lanes.headD (0, 0)).2
  match q.op with
  | .engRead => [(first, .read p.lanes.length)]
  | .engWrite => [(first, .write (p.lanes.flatMap fun l => laneBytes q q.b l.1))]
  | .atomic op => p.lanes.map fun l => (l.2, .atomic op q.n (lowWord q.b) (lowWord q.c))
  | op => p.lanes.map fun l => (l.2, if op.writes then .write (laneBytes q q.b l.1) else .read q.n)

/-- A lane of a request beyond a window: what it reads is free, and so are the flags of an atomic (R131, R300, assumption 22). -/
def takeOutside (k i : Nat) (q : MemReq) (a : Nat) (l : Nat × Nat) : Prog :=
  let bytes := outsideBytes i a q.n
  let old := lowWord (ofBytes bytes)
  let flags := match q.op with | .atomic op => (atomicNew op q.n old (lowWord q.b) (lowWord q.c)).2 | _ => 0
  onlyIf q.op.reads (updReq k fun y => { y with val := y.val ||| (ofBytes bytes <<< lanePos q.op l.1), flags := y.flags ||| flags })

/-- MEMORY_REQUEST beyond a window: its accesses go out, what they read is free, and a peer may refuse (R279, R316, R387, R388,
assumption 22). -/
def performOutside (k j : Nat) (q : MemReq) (p : Part) : Prog :=
  withFree fun i => forSome p.pa fun a =>
    let at' := fun o => a / 64 * 64 + (q.ent.va + o) % 64
    if a / 2 ^ 40 ≠ 0xFFF ∧ refusable q.client ∧ Config.peerRefuses i then failPart k j codeEprot
    else reading (fun s => (s, windowEntry s q.part (a / 2 ^ 40) q.id)) fun x => seqAll [
      upd (fun c => { c with peerOut := c.peerOut ++ (outAccesses q p).map fun y =>
        let w := outAddr x.1 q.part (at' y.1) x.2
        ⟨i, w.1, ⟨field x.2 31 18, field x.2 17 15, q.part, w.2, y.2⟩, none⟩ }),
      forEach p.lanes (fun l => takeOutside k i q (at' l.2) l),
      partIs k j .returning (x.1.fc + Config.delay i + q.back)]

/-- A request of the kind whose slots stay taken until its internal completion has arrived (R272). -/
def keepsSlots (q : MemReq) : Bool :=
  match q.client with
  | .instr => q.silent
  | .condw _ _ => true
  | .eng _ _ _ => q.op == .engWrite
  | _ => false

/-- The reply of a part has come back to the cluster port: its slot is free and its timer over; the last one ends the request (R273). -/
def returnPart (k j : Nat) : Prog :=
  reading (reqAt · k) fun x => forSome x fun q => andThen
    (updPart k j fun p => { p with st := .performed, timer := none, slot := if keepsSlots q && !q.dead then p.slot else none })
    (reading (reqAt · k) fun y => forSome y fun q' => onlyIf (reqDone q') (finishReq k (memoryPort (clientPlace q.client q.p)) 0))

/-! ## Timeouts and errors of memory (R364, R370) -/

/-- The transaction tag of a part (R273). -/
def transTag (q : MemReq) (p : Part) : Nat := (q.p.die * 32 + q.p.clu) * 1024 + p.slot.getD 0

/-- TRANSACTION_TIMEOUT may be made: the timer, with what it had counted before a fault, has reached 2^26 fc. -/
def timeoutEnabled (s : State) (k j : Nat) : Bool :=
  match partAtReq s k j with
  | none => false
  | some (_, p) => match p.timer with
    | some t => t + 2 ^ 26 ≤ s.fc + p.spent
    | none => false

/-- How a controller is named in an error record: its number in the stack in UNIT, the local stack in ELEM (R371). -/
def ctrlName (p : Pos) (pa : Option Nat) : Pos :=
  match pa with
  | some a => if localHbm a then { p with unit := ctrlOf a % 64, elem := ctrlOf a / 64 % 4 } else { p with unit := 0, elem := 0 }
  | none => { p with unit := 0, elem := 0 }

/-- TRANSACTION_TIMEOUT: ETIMEOUT with the transaction tag; the slot is unavailable until the reply comes, and the reply will be
discarded (R364, R371). -/
def timeout (k j : Nat) : Prog :=
  reading (fun s => (s, partAtReq s k j)) fun x => forSome x.2 fun y =>
    let q := y.1
    let r := regionAt x.1 q.r
    seqAll [
      forSome r (fun r => onlyIf (!q.dead)
        (raiseAt r (memoryPort q.p) (reqCode q codeEtimeout) (reqEntryNo q) q.tag (nat64 (transTag q y.2)))),
      killReq k,
      updPart k j fun p => { p with timer := none, slot := none },
      upd (fun c => { c with lostSlots := c.lostSlots ++ [(cluOf q.p, y.2.slot.getD 0, k, j)] }),
      updLog q.p.die (fun l => { l with lost := l.lost + 1 }),
      logHardware q.p.die 5 q.part r.isSome (ctrlName (cluOf q.p) y.2.pa) 0 ((r.map (·.run)).getD 0) q.tag]

/-- LATE_REPLY may be made: the reply of a timed-out transaction is back. -/
def lateEnabled (s : State) (k j : Nat) : Bool :=
  partLost s k j && (match partAtReq s k j with
    | some (_, p) => p.st == .performed || p.st == .aborted || (p.st == .returning && p.due ≤ s.fc)
    | none => true)

/-- LATE_REPLY: it is discarded and its slot is free (R364). -/
def lateReply (k j : Nat) : Prog :=
  seqAll [
    (reading (fun s => (s.chip.lostSlots.find? fun x => x.2.2.1 = k ∧ x.2.2.2 = j)) fun x => forSome x fun y =>
      andThen (upd fun c => { c with lostSlots := c.lostSlots.filter fun z => !(z.2.2.1 = k ∧ z.2.2.2 = j) })
        (updLog y.1.die fun l => { l with lost := l.lost - 1 })),
    reading (partAtReq · k j) fun x => forSome x fun y => onlyIf (y.2.st == .returning) (endPart k j)]

/-- UNCORRECTABLE_DATA may be found by a part that is about to be performed and reads its block (R370). -/
def uncorrectableAt (s : State) (k j : Nat) : Bool :=
  match partAtReq s k j with
  | none => false
  | some (q, p) => (p.st == .serving || p.st == .bank) && partTurn s q j p && readsBlock q p

/-- The cell in which a part finds an error: one that is known to hold it, else its first. -/
def foundCell (s : State) (q : MemReq) (p : Part) : Option BadData :=
  ((partCells q p).find? s.chip.bad.contains).orElse fun _ => (partCells q p).head?

/-- Where an error record places an error a part finds: the detecting unit, and the block or the line (R371); the line's byte offset is
that of the first lane that meets it. -/
def foundPlace (q : MemReq) (p : Part) (c : BadData) : Pos × Word :=
  match p.pa with
  | some a => (ctrlName (dieUnit (ctrlDie (ctrlOf a))) p.pa, nat64 (a / 64 * 64))
  | none =>
    let hit := fun (l : Nat × Nat) => (partCells q { p with lanes := [l] }).contains c
    (q.home, place q.h 56 ||| place ((((p.lanes.find? hit).getD (0, 0)).2 % q.ent.ext / 32 * 32) % 2 ^ 48) 0)

/-- The abort completion of a request, from where its data was to a region's control point (R370). -/
def sendAbort (r : Region) (src : Pos) (q : MemReq) : Prog :=
  control src (controlPoint r.homeClu) (.abort r.id ⟨true, some q.id, reqSource q, reqEntryNo q, q.tag, none⟩)

/-- A controller, as the sender of its abort completions. -/
def ctrlUnit (c : Nat) : Pos := ⟨ctrlDie c, 0, 67, c % 256⟩

/-- What becomes of a request whose data is withheld (R370): an abort completion for its region; a page walk's read aborts every request
that waits for the walk; what the host reads instead is free, and a peer is refused (assumption 89). -/
def withhold (src : Pos) (k j : Nat) : Prog :=
  reading (fun s => (s, reqAt s k)) fun x => forSome x.2 fun q =>
    let abortFor := fun (i n : Nat) => reading (fun s => (reqAt s i).bind fun y => (regionAt s y.r).map fun r => (y, r)) fun z =>
      seqAll [
        updPart i n (fun p => { p with st := .aborted, timer := none }),
        killReq i,
        forSome z fun w => sendAbort w.2 src w.1]
    match q.client with
    | .walker m => andThen (dropReq k) (forSome (missAt x.1 m) fun y => endMiss y (forEach y.waiters fun w => abortFor w.1 w.2))
    | .host fn off => withFree fun i => andThen (dropReq k)
        (onlyIf q.op.reads (hostRead fn off (outsideBytes i 0 (readBytes q).length)))
    | .peer i => andThen (dropReq k) (answerPeer i none)
    | .record _ => andThen (dropReq k) (clientLost q.client)
    | .fetch _ _ _ => andThen (dropReq k) (clientLost q.client)
    | _ => abortFor k j

/-- UNCORRECTABLE_DATA at a part: the data is withheld, the error logged and kept; a partial write is not performed (R370, R371). -/
def uncorrectable (k j : Nat) : Prog :=
  reading (fun s => (s, partAtReq s k j)) fun x => forSome x.2 fun y =>
    let s := x.1
    let q := y.1
    let r := match q.client with
      | .walker m => ((missAt s m).bind fun z => (z.waiters.head?).bind fun w => reqAt s w.1).bind fun z => regionAt s z.r
      | _ => regionAt s q.r
    forSome (foundCell s q y.2) fun c =>
      let at' := foundPlace q y.2 c
      seqAll [
        upd (fun ch => { ch with bad := insertNew c ch.bad }),
        logHardware at'.1.die (if q.op.writes && !q.op.reads then 1 else 0) q.part r.isSome at'.1 at'.2 ((r.map (·.run)).getD 0) q.tag,
        withhold (match y.2.pa with | some a => ctrlUnit (ctrlOf a) | none => q.home) k j]

/-! ## MEMORY_REQUEST -/

/-- MEMORY_REQUEST: a block or line that is known to hold an error is met where it would be read (R370). -/
def performPart (k j : Nat) : Prog :=
  reading (fun s => (s, partAtReq s k j)) fun x => forSome x.2 fun y =>
    if (y.2.st == .bank || y.2.st == .serving) && partBad x.1 y.1 y.2 then uncorrectable k j
    else match y.2.st with
    | .sent => takeIn k
    | .hub => passHub k j
    | .bank => performChip k j y.1 y.2
    | .serving => performHbm k j y.1 y.2
    | .outside => performOutside k j y.1 y.2
    | .returning => returnPart k j
    | _ => skip

/-! ## The instructions (R294 to R301) -/

/-- The lanes an instruction accesses, as byte offsets of any sign (R295, R299). -/
def accessLanes (s : State) (f : Firing) (sa : Src) (x : Xm) (gather : Bool) : List (Nat × Int) :=
  let a := sideA s f sa
  let n := sizeBytes x.sz
  let off := x.off.toInt
  let isV := classOf f.pos == some .v
  if gather then
    if isV then
      (List.range 16).filterMap fun i =>
        if lane a i = 0x80000000 then none else some (i, ((lane a i).toInt + off) * n)
    else
      (List.range 16).map fun i => (i, ((lane a 0).toInt + i * (lane a 1).toInt + off) * n)
  else
    let e := (if isV then (lane a 0).toInt else (lowWord a).toInt) + off
    [(0, e * n)]

/-- The element index of R295: what a store's completion token carries. -/
def accessIndex (s : State) (f : Firing) (sa : Src) (x : Xm) : Word :=
  let a := sideA s f sa
  truncBits ((if classOf f.pos = some .v then (lane a 0).toInt else (lowWord a).toInt) + x.off.toInt) 64

/-- A lane that fails the bounds or the alignment of an hbm handle (R295). -/
def laneFails (e : HandleEntry) (n : Nat) (x : Int) : Bool :=
  x < 0 || (e.ext : Int) < x + n || ((e.va : Int) + x) % n != 0

/-- What an opcode asks of memory. -/
structure Access where
  opc : Nat
  op : ROp
  ta : TagAction
  sa : Src
  sb : Src
  sc : Src
  d0 : Dst
  d1 : Dst
  x : Xm
  deriving DecidableEq, Repr

def Access.gather (a : Access) : Bool := a.op == .gather || a.op == .scatter

/-- The request of a firing whose outgoing tag is known (R271), under the name its pending operation had. -/
def requestOf (s : State) (f : Firing) (a : Access) (out : Tag) (id : Option Nat) : ReqSpec :=
  let t := tablesAt s f.pos
  { p := f.pos, r := regionId s f.pos, entry := f.entry, op := a.op, client := .instr, h := a.x.h.toNat,
    n := sizeBytes a.x.sz,
    lanes := (accessLanes s f a.sa a.x a.gather).map fun l => (l.1, (l.2 % (2 ^ 64 : Int)).toNat),
    b := sideB s f a.sb, c := sideC s f a.sc,
    idx := if a.op = .scatter then 16 else accessIndex s f a.sa a.x,
    scope := a.x.sc, str := a.x.str, ack := a.x.ack, tag := f.tag, out := out,
    t0 := if a.op.reads || a.x.ack then routesOf t (dstNat a.d0) else [],
    t1 := if a.op.reads || a.x.ack then routesOf t (dstNat a.d1) else [],
    rel := a.ta == .free, id := id }

/-- The element's copy of the handle an access uses. -/
def ownEntry (s : State) (f : Firing) (a : Access) : Option HandleEntry :=
  (regionOf s f.pos).map fun r => dataEntry r f.pos a.x.h.toNat a.op.reads

/-- A memory instruction fires (R271, R272, R295): not while its pool is full; with EPROT when an hbm lane is out of range
or misaligned; else its request leaves, at once or when its outgoing tag is known. -/
def accessMemory (a : Access) (f : Firing) : Prog := fun s =>
  if poolLimit f.pos ≤ poolUse s f.pos then holdBack f s
  else
    let lanes := accessLanes s f a.sa a.x a.gather
    let bad := match ownEntry s f a with
      | some e => e.valid && e.level == 2 && lanes.any fun l => laneFails e (sizeBytes a.x.sz) l.2
      | none => false
    if bad then failFiring f codeEprot 0 s
    else match outTag a.ta (sideB s f a.sb) f.tag with
      | .known t =>
        seqAll [
          (fun s' => updElem f.pos (fun e => { e with lastFire := some s'.fc }) s'),
          issueReq (requestOf s f a t none), endFiring] s
      | _ => issueOp { f with a := sideA s f a.sa, b := sideB s f a.sb, c := sideC s f a.sc }
          ⟨a.opc, a.ta, sideB s f a.sb, some 0, [], 0, .none, true⟩ (fun _ => skip) s

def accessOf (opc : Nat) (op : ROp) (o : Ops2) (x : Xm) : Access := ⟨opc, op, o.ta, o.sa, o.sb, .n, o.d0, o.d1, x⟩

/-- A request has been performed at a scope (R276), one that meets a page fault only when it has been at its home (R308); for a load its value has been taken, by forwarding at every scope (R311). -/
def performedAt (s : State) (k : Nat) (sc : Scope) : Bool :=
  match reqAt s k with
  | none => s.chip.elems.all fun e => e.2.pipe.all fun x => !(x.id == k && defers x)
  | some q =>
    q.parts.all fun p => partPerformed p || (q.level == 2 && !q.op.reads && !q.faulted && (match sc with
      | .tile => settled q
      | .cluster => settled q && p.st != .tile && p.st != .sent
      | .die => pastHub p
      | _ => false))

/-- The outstanding accesses of a frame's memory instructions, by name: issued, or fired and waiting for their tag (R301). -/
def frameAccesses (s : State) (f : Nat) : List Nat :=
  ((s.chip.reqs.filter fun q => q.client == .instr && frameOf q.tag == f).map (·.id)) ++
    s.chip.elems.flatMap fun e => (e.2.pipe.filter fun x => defers x && frameOf x.tag == f).map (·.id)

/-- FENCE: A goes on once every outstanding request of the frame's memory instructions has been performed at the scope
(R301, R311). -/
def fenceFrame (o : Ops2) (x : Xm) (f : Firing) : Prog := fun s =>
  let reqs := (frameAccesses s (frameOf f.tag)).map fun k => (k, 0)
  issueOp f ⟨0x9E, o.ta, sideB s f o.sb, none, bothOuts o.d0 o.d1 (sideA s f o.sa) (classOf f.pos == some .v), 0,
    if reqs.isEmpty then .none else .fence reqs x.sc, false⟩ (fun _ => skip) s

/-- LD (R296). -/
def execLd (o : Ops2) (x : Xm) (s : State) : Host.Outcome State Fault Refusal := onFiring (accessMemory (accessOf 0x90 (.load false) o x)) s
/-- ST (R297). -/
def execSt (o : Ops2) (x : Xm) (s : State) : Host.Outcome State Fault Refusal := onFiring (accessMemory (accessOf 0x91 .store o x)) s
/-- LDW (R296). -/
def execLdw (o : Ops2) (x : Xm) (s : State) : Host.Outcome State Fault Refusal := onFiring (accessMemory (accessOf 0x92 (.load true) o x)) s
/-- STW (R297). -/
def execStw (o : Ops2) (x : Xm) (s : State) : Host.Outcome State Fault Refusal := onFiring (accessMemory (accessOf 0x93 .store o x)) s
/-- LDG (R299). -/
def execLdg (o : Ops2) (x : Xm) (s : State) : Host.Outcome State Fault Refusal := onFiring (accessMemory (accessOf 0x94 .gather o x)) s
/-- STS (R299). -/
def execSts (o : Ops2) (x : Xm) (s : State) : Host.Outcome State Fault Refusal := onFiring (accessMemory (accessOf 0x95 .scatter o x)) s
/-- AADD (R300). -/
def execAadd (o : Ops2) (x : Xm) (s : State) : Host.Outcome State Fault Refusal := onFiring (accessMemory (accessOf 0x96 (.atomic .add) o x)) s
/-- AFADD (R300). -/
def execAfadd (o : Ops2) (x : Xm) (s : State) : Host.Outcome State Fault Refusal := onFiring (accessMemory (accessOf 0x97 (.atomic .fadd) o x)) s
/-- AMIN (R300). -/
def execAmin (o : Ops2) (x : Xm) (s : State) : Host.Outcome State Fault Refusal := onFiring (accessMemory (accessOf 0x98 (.atomic .min) o x)) s
/-- AMAX (R300). -/
def execAmax (o : Ops2) (x : Xm) (s : State) : Host.Outcome State Fault Refusal := onFiring (accessMemory (accessOf 0x99 (.atomic .max) o x)) s
/-- AXCHG (R300). -/
def execAxchg (o : Ops2) (x : Xm) (s : State) : Host.Outcome State Fault Refusal := onFiring (accessMemory (accessOf 0x9A (.atomic .xchg) o x)) s
/-- ACAS, with the new value on side C and D0 only (R38, R300). -/
def execAcas (o : Ops3) (x : Xm) (s : State) : Host.Outcome State Fault Refusal :=
  onFiring (accessMemory ⟨0x9B, .atomic .cas, o.ta, o.sa, o.sb, o.sc, o.d0, none, x⟩) s
/-- AAND (R300). -/
def execAand (o : Ops2) (x : Xm) (s : State) : Host.Outcome State Fault Refusal := onFiring (accessMemory (accessOf 0x9C (.atomic .and) o x)) s
/-- AOR (R300). -/
def execAor (o : Ops2) (x : Xm) (s : State) : Host.Outcome State Fault Refusal := onFiring (accessMemory (accessOf 0x9D (.atomic .or) o x)) s
/-- FENCE (R301). -/
def execFence (o : Ops2) (x : Xm) (s : State) : Host.Outcome State Fault Refusal := onFiring (fenceFrame o x) s

/-! ## The steps of memory -/

/-- TRANSACTION_ACQUIRE (R272). -/
def execTransactionAcquire (q : Nat) (s : State) : Host.Outcome State Fault Refusal :=
  actWhen (acquireEnabled s q) "TRANSACTION_ACQUIRE" (acquire q) s
/-- MEMORY_REQUEST (R275). -/
def execMemoryRequest (q j : Nat) (s : State) : Host.Outcome State Fault Refusal :=
  actWhen (performEnabled s q j) "MEMORY_REQUEST" (performPart q j) s
/-- HBM_SERVE (R282). -/
def execHbmServe (q j : Nat) (s : State) : Host.Outcome State Fault Refusal :=
  actWhen (serveEnabled s q j) "HBM_SERVE" (serve q j) s
/-- REFRESH_DUE (R283). -/
def execRefreshDue (c b : Nat) (s : State) : Host.Outcome State Fault Refusal :=
  actWhen (refreshDueEnabled s c b) "REFRESH_DUE" (refreshDue c b) s
/-- REFRESH_ISSUE (R283). -/
def execRefreshIssue (c b : Nat) (s : State) : Host.Outcome State Fault Refusal :=
  actWhen (refreshIssueEnabled s c b) "REFRESH_ISSUE" (refreshIssue c b) s
/-- REFRESH_END (R283). -/
def execRefreshEnd (c b : Nat) (s : State) : Host.Outcome State Fault Refusal :=
  actWhen (refreshEndEnabled s c b) "REFRESH_END" (refreshEnd c b) s
/-- CATCH_UP (R283). -/
def execCatchUp (c : Nat) (s : State) : Host.Outcome State Fault Refusal :=
  actWhen (catchUpEnabled s c) "CATCH_UP" (catchUp c) s
/-- CATCH_UP_END (R283). -/
def execCatchUpEnd (c : Nat) (s : State) : Host.Outcome State Fault Refusal :=
  actWhen (catchUpEndEnabled s c) "CATCH_UP_END" (catchUpEnd c) s
/-- TEMPERATURE_READING (R284): the sensor of a stack gives its reading. -/
def execTemperatureReading (g : Nat) (t : Int) (s : State) : Host.Outcome State Fault Refusal :=
  actWhen (decide (g < 16)) "TEMPERATURE_READING" (temperature g t) s
/-- PENDING_MISS (R288). -/
def execPendingMiss (q j : Nat) (s : State) : Host.Outcome State Fault Refusal :=
  actWhen (missEnabled s q j) "PENDING_MISS" (pendingMiss q j) s
/-- WALK_COMPLETE (R288). -/
def execWalkComplete (k : Nat) (s : State) : Host.Outcome State Fault Refusal :=
  actWhen (walkEnabled s k) "WALK_COMPLETE" (walkComplete k) s
/-- FAULT_RETRY (R290). -/
def execFaultRetry (q j : Nat) (s : State) : Host.Outcome State Fault Refusal :=
  actWhen (retryEnabled s q j) "FAULT_RETRY" (faultRetry q j) s
/-- TRANSACTION_TIMEOUT (R364). -/
def execTransactionTimeout (q j : Nat) (s : State) : Host.Outcome State Fault Refusal :=
  actWhen (timeoutEnabled s q j) "TRANSACTION_TIMEOUT" (timeout q j) s
/-- LATE_REPLY (R364). -/
def execLateReply (q j : Nat) (s : State) : Host.Outcome State Fault Refusal :=
  actWhen (lateEnabled s q j) "LATE_REPLY" (lateReply q j) s

end Sys2Proof.Machine
end

