-- ==== Sys2Proof/Machine/Engines.lean ====
section
/-! DEFINITION. The handle instructions and the engines of a Q element (spec/08 R198 to R216, spec/10 R254 to R257): HALLOC,
HFREE, HMAP, HFMT and HDESC, rings, COPY, STRMI, STRMO, RELM and RPUSH with their units, and the merge unit. -/

namespace Sys2Proof.Machine

open Sys2Proof

/-! ## Handle instructions (R205 to R210) -/

/-- The status word of a handle instruction (R205). -/
def statusWord (st h : Nat) : Wide := ofWord (nat64 st ||| place h 8)

/-- An engine operation of a region names a handle (R207, R209). -/
def engUses (s : State) (r : Region) (h : Nat) : Bool :=
  s.chip.qs.any fun q => (unitAt s q.1).region == some r.id && q.2.engs.any fun e => e.h1 == h || e.h2 == h

/-- A status that leaves the table unchanged. -/
def sendStatus (f : Firing) (opc : Nat) (o : Ops2) (b : Wide) (st h : Nat) : Prog :=
  sendAfter f opc o.ta b none (bothOuts o.d0 o.d1 (statusWord st h) false) 0

/-- An entry changes; status 0 leaves when every copy has the change (R185, R205). -/
def changeThenSend (f : Firing) (opc : Nat) (o : Ops2) (b : Wide) (r : Region) (h : Nat) (e : HandleEntry) (cost : Nat) : Prog :=
  issueOp f ⟨opc, o.ta, b, some cost, bothOuts o.d0 o.d1 (statusWord 0 h) false, 0, .reply, false⟩
    (fun k => changeHandle r h e f.pos k)

/-- W3 as a declaration gives it (R187, R188). -/
def declW3 (d : HandleDecl) : Word :=
  place d.ptr 56 ||| place d.idx 48 ||| place d.vals 40 ||| place d.meta' 32 ||| place d.pat 27

/-- Where storage for a declaration is placed in one unit or cluster: the first byte among all scratchpads or SRAMs, the
extent, and W1 (R190, R192). -/
def placeStorage (s : State) (p : Pos) (d : HandleDecl) (size : Nat) : Option (Nat × Nat × Word) :=
  if d.level = .spad then
    let j := bankLog size d.banks
    (findBanks [spadHolders s p] j).map fun b => (tileNo p * spadBytes + b * 2048, 2 ^ j * 2048, place b 0 ||| place j 8)
  else
    let block := cluBlock size
    (findBlock s [cluOf p] block).map fun b => (cluNo p * sramBytes + b, block, nat64 b)

/-- Lines of a range of scratchpad take an owner and become dirty or clean (R195, R196). -/
def tagSpad (a n : Nat) (owner : Option Nat) (dirty : Bool) : Prog := upd fun c =>
  let ls := linesOf a n
  { c with
    spadOwner := (match owner with | some o => tagRange a n o c.spadOwner | none => c.spadOwner),
    spadDirty := (c.spadDirty.filter fun l => !(a / 32 ≤ l && l * 32 < a + n)) ++ if dirty then ls else [] }
def tagSram (a n owner : Nat) : Prog := upd fun c =>
  { c with sramOwner := tagRange a n owner c.sramOwner }

/-- Write zeros over a handle's storage (R206): the fc it takes. -/
def zeroStorage (level : HLevel) (a n owner : Nat) : Prog :=
  if level = .spad then andThen (eff (.clearSpad a n)) (tagSpad a n (some owner) true)
  else andThen (eff (.clearSram a n)) (tagSram a n owner)
def zeroCost (level : HLevel) (n : Nat) : Nat := if level = .spad then 64 else n / 64

/-- HALLOC (R206): statuses in the order valid already, bad argument, no space (assumption 25). -/
def allocHandle (o : Ops2) (x : Xh) (f : Firing) : Prog := fun s =>
  let b := sideB s f o.sb
  let h := x.h1.toNat
  let fail := fun st => sendStatus f 0xA0 o b st h s
  match regionOf s f.pos with
  | none => endFiring s
  | some r =>
    match declOf r h with
    | none => failFiring f codeEhandle 0 s
    | some d =>
      let asked := (lowWord (sideA s f o.sa)).toNat % 2 ^ 32
      let size := if asked = 0 then declSize d else asked
      if (handleHome r h).valid then fail 2
      else if (if d.level = .spad then 262144 else handlePartition s f.pos) < size then fail 4
      else match placeStorage s f.pos d size with
        | none => fail 1
        | some (a, n, w1) =>
          let home := if d.level = .spad then unitOf f.pos else cluOf f.pos
          let e : HandleEntry :=
            ⟨handleW0 true (levelNum d.level) (kindNum d.kind) (encodeFmt d.fmt).toNat true false r.part home d.rows d.cols, w1,
              nat64 n, declW3 d⟩
          let zero := x.f.getLsbD 0
          seqAll [
            onlyIf (d.level == .spad) (tagSpad a n none false),
            onlyIf zero (zeroStorage d.level a n r.part),
            changeThenSend f 0xA0 o b r h e (if zero then zeroCost d.level n else 0)] s

/-- HFREE (R207): waits while an engine operation names the handle. -/
def freeHandle (o : Ops2) (x : Xh) (f : Firing) : Prog := fun s =>
  let b := sideB s f o.sb
  let h := x.h1.toNat
  match regionOf s f.pos with
  | none => endFiring s
  | some r =>
    let e := handleHome r h
    if engUses s r h then holdBack f s
    else if ((declOf r h).map (·.dyn)) != some true then sendStatus f 0xA1 o b 5 h s
    else if !e.valid then sendStatus f 0xA1 o b 3 h s
    else changeThenSend f 0xA1 o b r h { e with w0 := putBit e.w0 63 false } 0 s

/-- HMAP (R208). -/
def mapHandle (o : Ops2) (x : Xh) (f : Firing) : Prog := fun s =>
  let a := lowWord (sideA s f o.sa)
  let b := lowWord (sideB s f o.sb)
  let h := x.h1.toNat
  match regionOf s f.pos with
  | none => endFiring s
  | some r =>
    match declOf r h with
    | none => failFiring f codeEhandle 0 s
    | some d =>
      if (handleHome r h).valid then sendStatus f 0xA2 o (sideB s f o.sb) 2 h s
      else if field a 63 57 != 0 || field b 63 48 != 0 || b == 0 || 2 ^ 57 < field a 56 0 + field b 47 0 then
        sendStatus f 0xA2 o (sideB s f o.sb) 4 h s
      else changeThenSend f 0xA2 o (sideB s f o.sb) r h
        ⟨handleW0 true 2 (kindNum d.kind) (encodeFmt d.fmt).toNat true false r.part ⟨0, 0, 0, 0⟩ d.rows d.cols, a, b, declW3 d⟩ 0 s

/-- The kinds of H1 that a role accepts (R209). -/
def roleKinds (role : Nat) : List Nat :=
  match role with
  | 0 => [2]
  | 1 => [2]
  | 2 => [2, 3, 4]
  | 3 => [3]
  | 4 => [4]
  | _ => [0, 1, 2, 3, 4]

/-- An entry with one field written by a role (R209). -/
def withRole (role : Nat) (h2 : Nat) (a : Word) (e : HandleEntry) : HandleEntry :=
  match role with
  | 0 => { e with w3 := putField e.w3 63 56 h2 }
  | 1 => { e with w3 := putField e.w3 55 48 h2 }
  | 2 => { e with w3 := putField e.w3 47 40 h2 }
  | 3 => { e with w3 := putField e.w3 39 32 h2 }
  | 4 => { e with w3 := putField e.w3 31 27 (field a 4 0) }
  | _ => { e with w0 := putField e.w0 57 54 (field a 3 0) }

/-- HFMT (R209): statuses 3, then 6, then 4. -/
def formatHandle (o : Ops2) (x : Xh) (f : Firing) : Prog := fun s =>
  let a := lowWord (sideA s f o.sa)
  let b := sideB s f o.sb
  let h := x.h1.toNat
  let h2 := x.h2.toNat
  let role := (x.f.extractLsb' 0 3).toNat
  match regionOf s f.pos with
  | none => endFiring s
  | some r =>
    let e := handleHome r h
    let e2 := handleHome r h2
    let bad2 := role ≤ 3 && (!e2.valid || e2.part != e.part)
    let badA := (role == 4 && field a 63 5 != 0) ||
      (role == 5 && (field a 63 4 != 0 || (decodeFmt? (a.extractLsb' 0 4)).isNone))
    if engUses s r h then holdBack f s
    else if !e.valid then sendStatus f 0xA3 o b 3 h s
    else if bad2 || !(roleKinds role).contains e.kind then sendStatus f 0xA3 o b 6 h s
    else if badA then sendStatus f 0xA3 o b 4 h s
    else changeThenSend f 0xA3 o b r h (withRole role h2 a e) 0 s

/-- HDESC (R210): a word of the entry in the executor's copy. -/
def readHandle (o : Ops2) (x : Xh) (f : Firing) : Prog := fun s =>
  let e := ((regionOf s f.pos).map fun r => handleAt r f.pos x.h1.toNat).getD HandleEntry.reset
  let w := match (x.f.extractLsb' 0 2).toNat with
    | 0 => e.w0
    | 1 => e.w1
    | 2 => e.w2
    | _ => e.w3
  sendAfter f 0xA4 o.ta (sideB s f o.sb) none (bothOuts o.d0 o.d1 (ofWord w) false) 0 s

/-! ## Copies of the table (R185) -/

/-- A message's change of an entry. -/
def handleMsgOf (b : Body) : Option (Nat × Nat × HandleEntry) :=
  match b with
  | .handle r h e => some (r, h, e)
  | _ => none
def copyReached (s : State) (m : Nat) : Bool := delivered s m fun b => (handleMsgOf b).isSome

/-- The waits for a change of an entry after one more copy has it, and the operation whose wait has ended. -/
def copyDone (h : Nat) (place : Pos) :
    List (Nat × List Pos × Pos × Nat) → List (Nat × List Pos × Pos × Nat) × Option (Pos × Nat)
  | [] => ([], none)
  | w :: rest =>
    if w.1 = h ∧ w.2.1.contains place then
      let left := w.2.1.filter fun q => q ≠ place
      if left.isEmpty then (rest, some w.2.2) else ((w.1, left, w.2.2) :: rest, none)
    else
      let y := copyDone h place rest
      (w :: y.1, y.2)

/-- HANDLE_COPY_UPDATE: the copy takes the entry; the last one lets the status leave. -/
def copyUpdate (m : Nat) : Prog :=
  reading (fun s => (s, msgAt s m)) fun x => forSome x.2 fun y => forSome (handleMsgOf y.body) fun c =>
    andThen (dropMsg m) (forSome (regionAt x.1 c.1) fun r =>
      let w := copyDone c.2.1 y.dst r.hwait
      let others := r.stale.filter fun z => !(z.1 = unitOf y.dst ∧ z.2.1 = c.2.1)
      let stale := if handleHome r c.2.1 = c.2.2 then others else others ++ [(unitOf y.dst, c.2.1, c.2.2)]
      andThen (updRegion r.id fun z => { z with stale := stale, hwait := w.1 })
        (forSome w.2 fun q => answerOp (controlPoint r.homeClu) q.1 q.2 fun o => { o with wait := .none }))

/-! ## Checked access (R193, R194) -/

/-- The lowest byte of an access that lies beyond an extent. -/
def beyond (e : HandleEntry) (off len : Nat) : Option Nat :=
  if e.valid ∧ e.ext < off + len then some (max off e.ext) else none

/-- CHKV is set, and CHKADDR records the access when CHKV was clear; of those of one fc the lowest source stays. -/
def chkMark (r : Nat) (src : Pos) (eng : Nat) (wr : Bool) (h off : Nat) : Prog := fun s =>
  updRegion r (fun x =>
    let first := !x.rflags.getLsbD 0 || (x.chkBy.1 == s.fc && posKey src < x.chkBy.2)
    let y := if first then
        { x with chkaddr := place h 56 ||| place eng 53 ||| placeBit wr 52 ||| place (off % 2 ^ 48) 0, chkBy := (s.fc, posKey src) }
      else x
    { y with rflags := putBit y.rflags 0 true, rfNew := putBit y.rfNew 0 true }) s

/-! ## Rings (R198 to R200) -/

/-- Bytes of a ring read as one access: zeros throughout where one of its lines is another partition's (R195). -/
def ringRead (s : State) (r : Region) (e : HandleEntry) (g : Ring) (l : List Nat) : List Byte :=
  let a := l.map (spadAddr e g.tile)
  if a.all fun x => ownerOf s.chip.spadOwner (x / 32) == r.part then a.map s.spad.read else List.replicate l.length 0

/-- The bytes of slot position j as a matrix element reads them: offsets wrap at the extent (R193). -/
def slotBytes (s : State) (g : Ring) (j : Nat) : List Byte :=
  match ringEntry s g with
  | none => List.replicate g.size 0
  | some (r, e) => ringRead s r e g ((slotOffsets g j).map (· % e.ext))

/-- The bytes of slot position j as a stream's engine reads them: those beyond the extent are 0 (R193, R214). -/
def windowBytes (s : State) (g : Ring) (j : Nat) : List Byte :=
  match ringEntry s g with
  | none => List.replicate g.size 0
  | some (r, e) =>
    let l := (slotOffsets g j).filter (· < e.ext)
    let b := ringRead s r e g l
    b ++ List.replicate (g.size - b.length) 0

/-- A line of slot position j holds an error that cannot be corrected (R370). -/
def slotBad (s : State) (g : Ring) (j : Nat) : Bool := (slotLines s g j).any fun l => s.chip.bad.contains (.spadLine l)

/-- A ring is the replay window of a stream of its tile (R214). -/
def isWindow (s : State) (g : Ring) : Bool :=
  s.chip.qs.any fun q => unitOf q.1 == g.tile && q.2.streams.any fun x => x.input && x.h2 == g.handle

/-- A read of a ring meets data that cannot be corrected (R370, R371): a record of its line, and an abort completion. -/
def slotAbort (src : Pos) (g : Ring) (j entry : Nat) (tag : Tag) : Prog :=
  reading (fun s => (s, regionOf s g.tile)) fun x => forSome x.2 fun r => andThen
    (logHardware g.tile.die 0 r.part true g.tile (place g.handle 56 ||| place (j * g.size / 32 * 32) 0) r.run tag)
    (control src (controlPoint r.homeClu) (.abort r.id ⟨true, none, src, entry, tag,
      if isWindow x.1 g then some (g.tile, g.handle) else none⟩))

/-- The sideband of slot position j. -/
def slotSide (g : Ring) (j : Nat) : BitVec 40 := getKey 0 j g.side

/-- A slot's bytes in range, written line by line (R193, R195, R211). -/
def writeSlot (r : Region) (g : Ring) (e : HandleEntry) (j : Nat) (v : List Byte) : Prog :=
  let base := j * g.size
  let kept := v.take (e.ext - base)
  seqAll ((List.range ((kept.length + 15) / 16)).map fun i =>
    writeSpad r.part (spadAddr e g.tile (base + 16 * i)) ((kept.drop (16 * i)).take 16))

/-- The engine that CHKADDR names for a push: STRMI for a push into its replay window, else RPUSH (R194). -/
def PushFor.code (w : PushFor) : Nat :=
  match w with
  | .window _ _ _ => 1
  | _ => 3

/-- One slot and its sideband are appended; TAIL passes the slot (R200). -/
def appendSlot (src : Pos) (who : PushFor) (tile : Pos) (q : Nat) (v : Wide) (side : BitVec 40) : Prog :=
  reading (fun s => (ringAt s tile q).bind fun g => (ringEntry s g).map fun x => (g, x.1, x.2)) fun x => forSome x fun y =>
    let g := y.1
    seqAll [
      forSome (beyond y.2.2 (g.tpos * g.size) g.size) (fun b => chkMark y.2.1.id src who.code true g.handle b),
      writeSlot y.2.1 g y.2.2 g.tpos (bytesOf v g.size),
      updRing tile q fun z => { z with
        tail := z.tail + 1,
        tpos := (z.tpos + 1) % max 1 z.count,
        side := setKey z.tpos side z.side }]

/-- The consumer has read one slot: RDP advances. -/
def advanceRdp (tile : Pos) (q : Nat) : Prog :=
  updRing tile q fun z => { z with rdp := z.rdp + 1, rpos := (z.rpos + 1) % max 1 z.count }

/-- Retire and abandon (R199). -/
def retireRing (tile : Pos) (q : Nat) : Prog := updRing tile q fun z => { z with head := z.rdp, hpos := z.rpos }
def rewindRing (tile : Pos) (q : Nat) : Prog := updRing tile q fun z => { z with rdp := z.head, rpos := z.hpos }

/-- A push leaves for a ring, over a latency the spec does not state (assumption 5); the pushes of one source arrive in the order in
which they left. -/
def sendPush (src tile : Pos) (q : Nat) (data : List Wide) (side : BitVec 40) (who : PushFor) : Prog :=
  withFree fun i => withId fun k => fun s =>
    let last := (s.chip.pushes.filter fun x => x.tile = unitOf tile ∧ x.q = q ∧ x.src = src).foldl (fun t x => max t x.due) 0
    [.chip { s.chip with pushes := s.chip.pushes ++ [⟨k, unitOf tile, q, data, side, who, src, max last (s.fc + 1 + Config.delay i)⟩] }]
def dropPush (k : Nat) : Prog := upd fun c => { c with pushes := c.pushes.filter fun x => x.id ≠ k }

/-! ## Engine operations (R201) -/

def engFull (s : State) (p : Pos) : Bool := 8 ≤ (qAt s p).engs.length
def engAt (s : State) (p : Pos) (k : Nat) : Option EngOp := (qAt s p).engs.find? fun e => e.id = k
def addEng (p : Pos) (e : EngOp) : Prog := updQ p fun q => { q with engs := q.engs ++ [e] }
def updEng (p : Pos) (k : Nat) (f : EngOp → EngOp) : Prog :=
  updQ p fun q => { q with engs := replaceIf (fun e => e.id = k) f q.engs }
def dropEng (p : Pos) (k : Nat) : Prog := updQ p fun q => { q with engs := q.engs.filter fun e => e.id ≠ k }

/-- An engine operation as a firing begins it. -/
def newEng (f : Firing) (o : Ops2) (k : Nat) (kind : EngKind) : EngOp :=
  { id := k, kind := kind, entry := f.entry, op := 0, tag := f.tag, out := f.tag, d0 := dstNat o.d0, d1 := dstNat o.d1,
    rel := o.ta == .free, h1 := 0, h2 := 0, stream := 8, a := 0, b := 0, n := 0, next := 0, sent := 0, desc := false,
    win := 64, ss := none, got := [], open' := [], lastSend := 0 }

/-- The superstep an operation with SS belongs to (R315). -/
def stepOf (r : Region) (ss : Bool) : Option Nat := if ss then some r.ssn.toNat else none

/-- A stream's record, and its change. -/
def streamAt (s : State) (p : Pos) (n : Nat) : Option Stream := (qAt s p).streams.find? fun x => x.no = n
def putStream (p : Pos) (x : Stream) : Prog :=
  updQ p fun q => { q with streams := x :: q.streams.filter fun y => y.no ≠ x.no }
def updStream (p : Pos) (n : Nat) (f : Stream → Stream) : Prog :=
  updQ p fun q => { q with streams := replaceIf (fun x => x.no = n) f q.streams }

/-- The engine operation of an open stream. -/
def streamEng (s : State) (p : Pos) (n : Nat) : Option EngOp :=
  (qAt s p).engs.find? fun e => e.stream = n ∧ (e.kind = .strmi ∨ e.kind = .strmo)

/-- Units of 64 bytes of an operation, and the unit that stands at a place of its order (R212). -/
def EngOp.units (e : EngOp) : Nat := if e.kind = .copy then (e.n + 63) / 64 else e.n
def EngOp.unitNo (e : EngOp) (k : Nat) : Nat := if e.desc then e.units - 1 - k else k
/-- The bytes of a unit. -/
def EngOp.unitLen (e : EngOp) (u : Nat) : Nat := if e.kind = .copy then min 64 (e.n - 64 * u) else 64
/-- The offset a unit is read at, and written at. -/
def EngOp.readOff (e : EngOp) (k : Nat) : Nat :=
  if e.kind = .copy then e.b + 64 * e.unitNo k else (e.a + k) * 64
def EngOp.writeOff (e : EngOp) (k : Nat) : Nat :=
  if e.kind = .copy then e.a + 64 * e.unitNo k else (e.a + k) * 64
/-- The handle an operation reads, and writes. -/
def EngOp.readH (e : EngOp) : Nat := if e.kind = .copy then e.h2 else e.h1
def EngOp.code (e : EngOp) : Nat :=
  match e.kind with
  | .copy => 0
  | .strmi => 1
  | .strmo => 2
  | .rpush => 3

/-- The bytes of an access that are in range; all of it when the entry is not valid, so that the request fails (R185). -/
def engLanes (e : HandleEntry) (off len : Nat) : List (Nat × Nat) :=
  ((List.range len).filter fun i => !e.valid || off + i < e.ext).map fun i => (i, off + i)

/-- The first access out of range in a COPY's own order among those not yet made: reads from `next` on, writes from
`sent` on, a unit's read before its write (R193). -/
def firstBeyond (e : EngOp) (hs hd : HandleEntry) : Option (Bool × Nat × Nat) :=
  (List.range e.units).findSome? fun k =>
    let len := e.unitLen (e.unitNo k)
    let rd := if e.next ≤ k then (beyond hs (e.readOff k) len).map fun b => (false, e.h2, b) else none
    rd.orElse fun _ => if e.sent ≤ k then (beyond hd (e.writeOff k) len).map fun b => (true, e.h1, b) else none

/-- An engine access out of range is recorded: the first in the engine's own order (R193). -/
def engMark (r : Region) (p : Pos) (e : EngOp) (wr : Bool) (h off len : Nat) : Prog :=
  let own := handleAt r p h
  forSome (beyond own off len) fun b =>
    let x := if e.kind = .copy then (firstBeyond e (handleAt r p e.h2) (handleAt r p e.h1)).getD (wr, h, b) else (wr, h, b)
    chkMark r.id p e.code x.1 x.2.1 x.2.2

/-- The request of an engine for one unit. -/
def engSpec (r : Region) (p : Pos) (e : EngOp) (k h : Nat) (wr : Bool) (lanes : List (Nat × Nat)) (v : Wide) : ReqSpec :=
  { p := p, r := r.id, entry := e.entry, op := if wr then .engWrite else .engRead, client := .eng p e.id k, h := h, n := 1,
    lanes := lanes, b := v, c := 0, idx := 0, scope := .package, str := false, ack := false, tag := e.tag, out := e.out,
    t0 := [], t1 := [], rel := false }

/-- The next unit is requested (R212, R213). -/
def requestUnit (p : Pos) (k : Nat) : Prog :=
  reading (fun s => (regionOf s p, engAt s p k)) fun x => forSome x.1 fun r => forSome x.2 fun e =>
    let i := e.next
    let h := e.readH
    let off := e.readOff i
    let len := e.unitLen (e.unitNo i)
    let lanes := engLanes (handleAt r p h) off len
    seqAll [
      engMark r p e false h off len,
      updEng p k (fun z => { z with next := i + 1 }),
      if lanes.isEmpty then updEng p k fun z => { z with got := z.got ++ [(i, 0)] }
      else issueReq (engSpec r p e i h false lanes 0)]

/-- A unit is written (R212, R215). -/
def writeUnit (p : Pos) (k i : Nat) (v : Wide) : Prog :=
  reading (fun s => (regionOf s p, engAt s p k)) fun x => forSome x.1 fun r => forSome x.2 fun e =>
    let off := e.writeOff i
    let len := e.unitLen (e.unitNo i)
    let lanes := engLanes (handleAt r p e.h1) off len
    seqAll [
      engMark r p e true e.h1 off len,
      onlyIf (!lanes.isEmpty) (andThen (updEng p k fun z => { z with open' := z.open' ++ [i] })
        (issueReq (engSpec r p e i e.h1 true lanes v)))]

/-- Pushes of a stream's blocks that are on their way. -/
def windowPushes (s : State) (p : Pos) (k : Nat) : Nat :=
  s.chip.pushes.countP fun x => match x.who with | .window q e _ => q == p && e == k | _ => false

/-- An engine may request its next unit in this fc: within its window, and within the room of its replay window (R213,
R214). A COPY has one read on its way at a time, so that its units are read in order wherever they lie (R212, assumption 90). -/
def mayRequest (s : State) (p : Pos) (e : EngOp) : Bool :=
  match e.kind with
  | .copy => e.next < e.units && e.next - e.sent < e.win && e.next == e.sent + e.got.length
  | .strmi =>
    e.next < e.n && e.next - e.sent < e.win &&
      (e.h2 == 0 || (match windowRing s p e with
        | some g => decide (g.held + (e.next - (e.sent + e.open'.length)) < g.count)
        | none => false))
  | _ => false

/-- The next block of an output stream goes on its way when the one before has been performed, so that blocks reach memory in cursor
order (R215, assumption 90). -/
def writeNext (p : Pos) (k : Nat) : Prog :=
  reading (engAt · p k) fun x => forSome x fun e =>
    onlyIf (e.kind == .strmo && e.win != 0 && e.open'.isEmpty) (forSome e.got.head? fun b =>
      andThen (updEng p k fun z => { z with got := z.got.drop 1 }) (writeUnit p k b.1 b.2))

/-- A stream whose block could have been sent in this fc, and was not, goes on waiting from that fc (R197). -/
def noteAsk (p : Pos) (e : EngOp) : Prog := fun s =>
  let ask := if e.h2 ≠ 0 ∧ blockAsks s p e then some (e.ask.getD s.fc) else none
  onlyIf (e.kind == .strmi && e.ask != ask) (updEng p e.id fun z => { z with ask := ask }) s

/-- In each fc every engine of an element may request one unit, or write one block. -/
def engineCycle (p : Pos) : Prog :=
  reading (fun s => (qAt s p).engs.map (·.id)) fun ks =>
    forEach ks fun k => reading (fun s => (s, engAt s p k)) fun x => forSome x.2 fun e =>
      andThen (noteAsk p e) (if mayRequest x.1 p e then requestUnit p k else writeNext p k)

/-- The reads of an engine whose replies are back. -/
def arrivedReads (s : State) (p : Pos) (k : Nat) : List MemReq :=
  s.chip.reqs.filter fun q => q.op == .engRead && (match q.client with | .eng a b _ => a == p && b == k | _ => false) &&
    (match q.doneAt with | some t => t ≤ s.fc | none => false)

/-- The unit a request serves. -/
def unitOfReq (q : MemReq) : Nat := match q.client with | .eng _ _ u => u | _ => 0

/-- The replies of an engine are taken in, and their requests end. -/
def absorbReads (p : Pos) (k : Nat) : Prog :=
  reading (fun s => arrivedReads s p k) fun l => forEach l fun q =>
    andThen (updEng p k fun z => { z with got := z.got ++ [(unitOfReq q, q.val)] }) (dropReq q.id)

/-! ## COPY (R212) -/

/-- An event of a COPY or of a matrix instruction (R409). -/
def unitEvent (p : Pos) (kind : Nat) (arg0 : Word) (tag : Tag) : Prog :=
  reading (fun s => (regionOf s p, dieTime s p.die)) fun x => forSome x.1 fun r =>
    emitEvent { time := x.2, kind := kind, part := r.part, src := p, run := r.run, arg0 := arg0, arg1 := tag.zeroExtend 64 }

/-- COPY fires: the engine starts at the first unit of its order. -/
def copyBlock (o : Ops2) (x : Xh) (f : Firing) : Prog := fun s =>
  let a := lowWord (sideA s f o.sa)
  let b := lowWord (sideB s f o.sb)
  let n := field a 63 40
  let dst := field a 39 0
  let src := field b 39 0
  match regionOf s f.pos with
  | none => endFiring s
  | some r =>
    if engFull s f.pos then holdBack f s
    else if n = 0 then seqAll [unitEvent f.pos 0x01 0 f.tag,
      onlyIf ((handleAt r f.pos x.h1.toNat).level == 2) (updRegion r.id fun y => { y with nr := true }), sendAfter f 0xA6 o.ta 0 (some 0) (bothOuts o.d0 o.d1 0 false) 0,
      unitEvent f.pos 0x02 0 f.tag] s
    else (withFree fun i => withId fun k =>
      let e : EngOp := { newEng f o k .copy with
        h1 := x.h1.toNat, h2 := x.h2.toNat, a := dst, b := src, n := n,
        desc := x.h1 == x.h2 && decide (src < dst) && decide (dst < src + n),
        win := 1 + Config.pick i % 64, ss := stepOf r (x.f.getLsbD 15) }
      seqAll [
        markFired f, addEng f.pos e, unitEvent f.pos 0x01 (nat64 n) f.tag,
        onlyIf ((handleAt r f.pos x.h1.toNat).level == 2) (updRegion r.id fun y => { y with nr := true }),
        requestUnit f.pos k, endFiring]) s

/-- The next unit of a COPY's order has been read. -/
def copyReady (e : EngOp) : Bool := e.kind == .copy && e.win != 0 && e.got.any fun x => x.1 == e.sent

/-- COPY_UNIT may be made: a read is back, or the next unit can be written. -/
def copyEnabled (s : State) (p : Pos) (k : Nat) : Bool :=
  match engAt s p k with
  | some e => !halted s p && e.kind == .copy && (copyReady e || !(arrivedReads s p k).isEmpty)
  | none => false

/-- COPY_UNIT: the read is taken in and, when it is the next in order, its write is issued. -/
def copyUnit (p : Pos) (k : Nat) : Prog :=
  andThen (absorbReads p k) (reading (engAt · p k) fun x => forSome x fun e =>
    onlyIf (copyReady e) (andThen (writeUnit p k e.sent (getKey 0 e.sent e.got))
      (updEng p k fun z => { z with sent := z.sent + 1, got := delKey e.sent z.got })))

/-! ## STRMI and RELM (R213, R214, R216) -/

/-- STRMI fires: a stream opens, after a rollback at its release mark with the blocks its window still holds (R213, R374); EHANDLE when
the window is none of the tile's rings, or its handle is not valid (R185). -/
def openInput (o : Ops2) (x : Xh) (f : Firing) : Prog := fun s =>
  let n := field (lowWord (sideB s f o.sb)) 31 0
  let no := (x.f.extractLsb' 13 3).toNat
  match regionOf s f.pos with
  | none => endFiring s
  | some r =>
    if engFull s f.pos || (streamEng s f.pos no).isSome then holdBack f s
    else if x.h2 != 0 && (windowRing s f.pos { newEng f o 0 .strmi with h2 := x.h2.toNat }).isNone then failFiring f codeEhandle 0 s
    else
      let old := streamAt s f.pos no
      let replay := (old.map (·.replay)).getD false
      let m := if replay then (old.map (·.mark)).getD 0 else 0
      let rec' : Stream := ⟨no, true, decide (m < n), x.h1.toNat, x.h2.toNat, field (lowWord (sideA s f o.sa)) 47 0, n, m, m, false, m⟩
      if n ≤ m then
        andThen (putStream f.pos rec') (sendAfter f 0xA7 o.ta 0 (some 0) (outOf (dstNat o.d1) 0 false false) 0) s
      else (withId fun k =>
        let e : EngOp := { newEng f o k .strmi with
          h1 := x.h1.toNat, h2 := x.h2.toNat, stream := no, a := field (lowWord (sideA s f o.sa)) 47 0, b := m, n := n,
          next := m, sent := m, win := (x.f.extractLsb' 7 6).toNat + 1, ss := stepOf r (x.f.getLsbD 6) }
        let ring := if replay ∧ e.h2 ≠ 0 then windowRing s f.pos e else none
        let kept := match ring with | some g => min g.held (n - m) | none => 0
        let e' : EngOp := { e with next := m + kept, open' := (List.range kept).map (m + ·) }
        seqAll [
          markFired f, putStream f.pos rec', addEng f.pos e', forSome ring (fun g => rewindRing g.tile g.q),
          (fun s' => onlyIf (mayRequest s' f.pos e') (requestUnit f.pos k) s'), endFiring]) s

/-- A stream's next block may be sent in this fc: from a window, when it is its turn at the banks of the slot (R189, R197). -/
def blockSendable (s : State) (p : Pos) (e : EngOp) : Bool :=
  blockAsks s p e && (e.h2 == 0 || banksTurn s (windowBanks s p e) [] (streamKey s p e) (e.id * 2 ^ 11))

/-- STRMI_BLOCK may be made. -/
def blockEnabled (s : State) (p : Pos) (k : Nat) : Bool :=
  match engAt s p k with
  | some e => !halted s p && e.kind == .strmi && (blockSendable s p e || !(arrivedReads s p k).isEmpty)
  | none => false

/-- Blocks that have arrived go into the window in block order (R214). -/
def pushBlocks (p : Pos) (k : Nat) : Prog :=
  reading (fun s => (s, engAt s p k)) fun x => forSome x.2 fun e =>
    onlyIf (e.win != 0) (forSome (windowRing x.1 p e) fun g =>
      let first := e.sent + e.open'.length + windowPushes x.1 p k
      forEach (((List.range (e.next - first)).map (first + ·)).takeWhile fun u => e.got.any fun y => y.1 == u) fun u =>
        sendPush p g.tile g.q [getKey 0 u e.got] 0 (.window p k u))

/-- The next block of a stream leaves as a wide token. -/
def sendBlock (p : Pos) (e : EngOp) (v : Wide) : Prog :=
  seqAll [
    placeOuts p e.out (outOf e.d0 v true true),
    reading (·.fc) fun fc => updEng p e.id fun z => { z with
      sent := z.sent + 1, got := delKey e.sent z.got, open' := z.open'.filter (· ≠ e.sent), lastSend := fc, ask := none },
    updStream p e.stream fun z => { z with cursor := e.sent + 1 }]

/-- The next block of a stream with a replay window leaves from its slot of the ring, read by a checked access that takes its banks'
access of the fc (R189, R193, R214). -/
def sendKept (p : Pos) (r : Region) (e : EngOp) (g : Ring) : Prog := fun s =>
  if slotBad s g g.rpos then andThen (slotAbort p g g.rpos 0 e.tag) (stopEng p e.id) s
  else seqAll [
    useBanks (windowBanks s p e),
    forSome (beyond (handleAt r p e.h2) (g.rpos * g.size) g.size) (fun b => chkMark r.id p 1 false e.h2 b),
    sendBlock p e (ofBytes (windowBytes s g g.rpos)),
    advanceRdp g.tile g.q] s

/-- STRMI_BLOCK: replies are taken in; the next block is sent. -/
def streamBlock (p : Pos) (k : Nat) : Prog :=
  seqAll [
    absorbReads p k,
    (reading (engAt · p k) fun x => forSome x fun e => onlyIf (e.h2 != 0) (pushBlocks p k)),
    (reading (fun s => (s, engAt s p k)) fun x => forSome x.2 fun e =>
      onlyIf (blockSendable x.1 p e)
        (if e.h2 = 0 then sendBlock p e (getKey 0 e.sent e.got)
         else forSome (windowRing x.1 p e) fun g => forSome (regionOf x.1 p) fun r => sendKept p r e g))]

/-- Output streams of a region note their cursors at the replay point (R374). -/
def noteCursors (r : Nat) : Prog := fun s =>
  upd (fun c => { c with
    qs := c.qs.map fun q =>
      if (unitAt s q.1).region = some r then
        (q.1, { q.2 with streams := q.2.streams.map fun z => if z.input then z else { z with replayCursor := z.cursor } })
      else q }) s

/-- The launches that a region has issued lie before its replay point from now on (R372). -/
def passLaunches (r : Nat) : Prog :=
  let pass := fun (q : LaunchReq) => if q.r = r then { q with past := true } else q
  upd fun c => { c with
    qs := c.qs.map fun x => (x.1, { x.2 with launches := x.2.launches.map pass }),
    launchQ := c.launchQ.map fun l => { l with req := l.req.map pass } }

/-- The region's replay point moves: NR and the count of rollbacks are cleared, and output streams note their cursors (R216,
R372 to R374). -/
def replayPoint (r : Nat) : Prog :=
  seqAll [updRegion r (fun x => { x with nr := false, rollbacks := 0, windowHits := [] }), passLaunches r, noteCursors r]

/-- RELM (R216): a stream that is closed keeps its mark. -/
def releaseMark (o : Ops2) (x : Xh) (f : Firing) : Prog := fun s =>
  let no := (x.f.extractLsb' 13 3).toNat
  let st := streamAt s f.pos no
  let live := (streamEng s f.pos no).filter fun e => e.kind == .strmi
  let m := match live, st with
    | some e, _ => e.sent
    | none, some z => if z.input then z.mark else 0
    | none, none => 0
  seqAll [
    onlyIf live.isSome (updStream f.pos no fun z => { z with mark := m }),
    (forSome live fun e => onlyIf (e.h2 != 0) (forSome (windowRing s f.pos e) fun g => retireRing g.tile g.q)),
    (forSome (regionOf s f.pos) fun r => replayPoint r.id),
    sendAfter f 0xA9 o.ta (sideB s f o.sb) none (bothOuts o.d0 o.d1 (ofWord (nat64 m)) false) 0] s

/-! ## STRMO (R215) -/

/-- STRMO with OPEN: an output stream opens, after a rollback at its cursor of the replay point (R215, R374). One whose cursor there is
already n is complete at once and sends n to its own D1; the spec says nothing of it (DESIGN CHOICE, assumption 108). -/
def openOutput (o : Ops2) (x : Xh) (f : Firing) : Prog := fun s =>
  let n := field (lowWord (sideB s f o.sb)) 31 0
  let no := (x.f.extractLsb' 13 3).toNat
  let zero := outOf (dstNat o.d0) 0 false false ++ (if n = 0 then outOf (dstNat o.d1) 0 false false else [])
  match regionOf s f.pos with
  | none => endFiring s
  | some r =>
    if engFull s f.pos || (streamEng s f.pos no).isSome then holdBack f s
    else if n = 0 then sendAfter f 0xA8 o.ta 0 none zero 0 s
    else (withId fun k =>
      let old := streamAt s f.pos no
      let c := if (old.map (·.replay)).getD false then min n ((old.map (·.replayCursor)).getD 0) else 0
      let start := field (lowWord (sideA s f o.sa)) 47 0
      let e : EngOp := { newEng f o k .strmo with
        h1 := x.h1.toNat, stream := no, a := start, n := n, next := c, sent := c, ss := stepOf r (x.f.getLsbD 11) }
      seqAll [
        putStream f.pos ⟨no, false, true, x.h1.toNat, 0, start, n, c, 0, false, c⟩, addEng f.pos e,
        sendAfter f 0xA8 o.ta 0 none zero 0]) s

/-- STRMO without OPEN: one block at the stream's cursor (R215). A narrow token gives 8 bytes and zeros beyond. -/
def writeOutput (o : Ops2) (x : Xh) (f : Firing) : Prog := fun s =>
  let no := (x.f.extractLsb' 13 3).toNat
  match (streamEng s f.pos no).filter fun e => e.kind == .strmo && e.h1 == x.h1.toNat && e.next < e.n with
  | none => failFiring f codeEhandle 0 s
  | some e =>
    let i := e.next
    let last := i + 1 = e.n
    seqAll [
      updEng f.pos e.id (fun z =>
        let y := { z with next := i + 1, sent := i + 1, got := z.got ++ [(i, sideA s f o.sa)] }
        if last then { y with entry := f.entry, tag := f.tag, out := f.tag, d0 := none, d1 := dstNat o.d1, rel := o.ta == .free }
        else y),
      updStream f.pos no (fun z => { z with cursor := i + 1, open' := !last }),
      writeNext f.pos e.id,
      if last then andThen (markFired f) endFiring else sendAfter f 0xA8 o.ta 0 (some 0) [] 0] s

/-- STRMO (R215). -/
def streamOut (o : Ops2) (x : Xh) (f : Firing) : Prog :=
  if x.f.getLsbD 12 then openOutput o x f else writeOutput o x f

/-! ## RPUSH (R211) -/

/-- RPUSH fires: its row and sideband leave for the ring of its tile. -/
def pushRow (o : Ops2) (x : Xh) (f : Firing) : Prog := fun s =>
  if engFull s f.pos then holdBack f s
  else (withId fun k => seqAll [
    markFired f,
    addEng f.pos { newEng f o k .rpush with h1 := x.h1.toNat, n := 1, lastSend := s.fc },
    sendPush f.pos f.pos (x.f.extractLsb' 0 4).toNat [sideA s f o.sa] ((lowWord (sideB s f o.sb)).extractLsb' 0 40)
      (.op f.pos k true),
    endFiring]) s

/-! ## Completion (R201, R313) -/

/-- All writes of an engine operation have been performed, and all it sends before its completion is sent. -/
def engDone (e : EngOp) : Bool :=
  match e.kind with
  | .copy => e.sent == e.units && e.open'.isEmpty
  | .strmi => e.sent == e.n
  | .strmo => e.next == e.n && e.open'.isEmpty && e.got.isEmpty
  | .rpush => e.sent == 1

/-- The completion tokens of an operation. -/
def engOuts (e : EngOp) : List Out :=
  match e.kind with
  | .copy => outOf e.d0 (ofWord (nat64 e.n)) false false ++ outOf e.d1 (ofWord (nat64 e.n)) false false
  | .strmi => outOf e.d1 (ofWord (nat64 (e.n - e.b))) false false
  | .strmo => outOf e.d1 (ofWord (nat64 e.n)) false false
  | .rpush => outOf e.d0 (ofWord (nat64 e.a)) false false ++ outOf e.d1 (ofWord (nat64 e.a)) false false

def engEnabled (s : State) (p : Pos) (k : Nat) : Bool :=
  match engAt s p k with
  | some e => engDone e
  | none => false

/-- The opcode of an operation. -/
def EngOp.opcode (e : EngOp) : Nat :=
  match e.kind with
  | .copy => 0xA6
  | .strmi => 0xA7
  | .strmo => 0xA8
  | .rpush => 0xA5

/-- A completed operation joins the pipeline's results, to be sent in order with them (R144). -/
def completeOp (p : Pos) (op entry : Nat) (tag out : Tag) (rel : Bool) (outs : List Out) : Prog :=
  withId fun k => fun s => updElem p (fun e => { e with
    pipe := e.pipe ++ [{ id := k, op := op, entry := entry, tag := tag, out := .known out, due := some s.fc, outs := outs, flags := 0,
                         rel := rel, wait := .none, defer := none, since := s.fc }] }) s

/-- ENGINE_COMPLETION: the completion token leaves, the stream number is free, and a barrier that waited for the operation
goes on (R201, R215, R315). -/
def engineCompletion (p : Pos) (k : Nat) : Prog :=
  reading (engAt · p k) fun x => forSome x fun e => seqAll [
    completeOp p e.opcode e.entry e.tag e.out e.rel (engOuts e),
    onlyIf (e.kind == .copy) (unitEvent p 0x02 (nat64 e.n) e.tag),
    dropEng p k,
    updStream p e.stream (fun z => { z with open' := false }),
    onlyIf e.ss.isSome releaseSteps]

/-! ## The merge unit (R254 to R257) -/

/-- The MRG of an element: its entry and its fields. -/
def mrgEntry (s : State) (p : Pos) : Option (Nat × View) :=
  (List.range 32).findSome? fun i => ((entryView s p i).filter fun v => v.op == opMrg).map fun v => (i, v)

/-- The F field of the MRG: OP and SGN. -/
def mrgMode (v : View) : Nat × Bool :=
  match v.ext with
  | .xh x => ((x.f.extractLsb' 0 2).toNat, x.f.getLsbD 2)
  | _ => (0, false)

/-- The key of a record as a number to compare: signed keys are shifted by 2^31. -/
def mrgKey (sgn : Bool) (k : BitVec 32) : Nat := if sgn then (k.toNat + 2 ^ 31) % 2 ^ 32 else k.toNat
def recKey (w : Wide) : BitVec 32 := w.extractLsb' 32 32
def recEnd (w : Wide) : Bool := w.getLsbD 31

/-- in_order of R256. -/
def mrgOrdered (mode : Nat × Bool) (p k : BitVec 32) : Bool :=
  if mode.1 = 0 then mrgKey mode.2 p ≤ mrgKey mode.2 k else mrgKey mode.2 p < mrgKey mode.2 k

/-- What the merge unit does next. -/
inductive MergeAct
  | wait
  | close (b : Bool)
  | violation (b : Bool)
  | drop (b : Bool)
  | emit (b : Bool) (both : Bool)
  deriving DecidableEq, Repr

/-- A record of an emission: what is emitted on D0, consumed sides. -/
def mergeNext (mode : Nat × Bool) (g : Merge) : MergeAct :=
  let ha := g.qa.head?
  let hb := g.qb.head?
  let closes := fun (h : Option (Wide × Tag)) => match h with | some x => recEnd x.1 | none => false
  let bad := fun (n : Nat) (lk : BitVec 32) (h : Option (Wide × Tag)) => match h with
    | some x => n != 0 && !mrgOrdered mode lk (recKey x.1)
    | none => false
  if !g.doneA && ha.isNone && !(g.skip && !g.doneB && hb.isSome) then .wait
  else if !g.doneA && closes ha then .close false
  else if g.skip && !g.doneA && ha.isSome then .drop false
  else if !g.doneA && bad g.na g.lka ha then .violation false
  else if !g.doneB && hb.isNone then .wait
  else if !g.doneB && closes hb then .close true
  else if g.skip && !g.doneB then .drop true
  else if !g.doneB && bad g.nb g.lkb hb then .violation true
  else
    match (if g.doneA then none else ha), (if g.doneB then none else hb) with
    | none, none => .wait
    | some _, none => if mode.1 = 2 then .drop false else .emit false false
    | none, some _ => if mode.1 = 2 then .drop true else .emit true false
    | some x, some y =>
      let a := mrgKey mode.2 (recKey x.1)
      let b := mrgKey mode.2 (recKey y.1)
      if mode.1 = 0 then .emit (decide (b < a)) false
      else if a = b then .emit false true
      else if mode.1 = 1 then .emit (decide (b < a)) false
      else .drop (decide (b < a))

/-- A queue's head is consumed: its key is the last of its side. -/
def Merge.consume (g : Merge) (b : Bool) : Merge :=
  if b then { g with qb := g.qb.drop 1, nb := g.nb + 1, lkb := (g.qb.head?.map fun x => recKey x.1).getD g.lkb }
  else { g with qa := g.qa.drop 1, na := g.na + 1, lka := (g.qa.head?.map fun x => recKey x.1).getD g.lka }

/-- A new run begins. -/
def Merge.restart (g : Merge) : Merge :=
  { g with na := 0, nb := 0, doneA := false, doneB := false, bad := false, cnt := 0, viol := none }

/-- The end token of a run. -/
def endToken (bad : Bool) (cnt : Nat) : Wide := ofWord (placeBit true 31 ||| placeBit bad 30 ||| place (min cnt (2 ^ 30 - 1)) 0)

/-- The tokens a step of the unit sends. -/
def mergeOuts (v : View) (g : Merge) (a : MergeAct) : List (Out × Tag) :=
  let d0 := dstNat v.d0
  let d1 := dstNat v.d1
  let count := ofWord (nat64 g.cnt)
  match a with
  | .emit b _ =>
    (match (if b then g.qb else g.qa).head? with
      | some x => (outOf d0 x.1 false false).map fun o => (o, x.2)
      | none => [])
  | .violation b =>
    (match (if b then g.qb else g.qa).head? with
      | some x => (outOf d0 (endToken true g.cnt) false false ++ outOf d1 count false false).map fun o => (o, x.2)
      | none => [])
  | .close b =>
    let h := (if b then g.qb else g.qa).head?
    if (if b then g.doneA else g.doneB) && !g.skip then
      let bad := g.bad || (h.map fun x => x.1.getLsbD 30).getD false
      let ta := if b then g.ta else (h.map (·.2)).getD g.ta
      (outOf d0 (endToken bad g.cnt) false false ++ outOf d1 count false false).map fun o => (o, ta)
    else []
  | _ => []

/-- The unit after a step. -/
def mergeAfter (g : Merge) (a : MergeAct) : Merge :=
  match a with
  | .wait => g
  | .close b =>
    let h := (if b then g.qb else g.qa).head?
    let g1 : Merge := { g with bad := g.bad || (h.map fun x => x.1.getLsbD 30).getD false }
    let g2 : Merge := if b then { g1 with qb := g1.qb.drop 1, doneB := true, tb := (h.map (·.2)).getD 0 }
      else { g1 with qa := g1.qa.drop 1, doneA := true, ta := (h.map (·.2)).getD 0 }
    if g2.doneA && g2.doneB then g2.restart else g2
  | .violation b => { g with viol := some (b, if b then g.nb else g.na) }
  | .drop b => if g.skip then (if b then { g with qb := g.qb.drop 1 } else { g with qa := g.qa.drop 1 }) else g.consume b
  | .emit b both => let g1 := (g.consume b); let g2 : Merge := { g1 with cnt := g1.cnt + 1 }; if both then g2.consume true else g2

/-- The tags under which a step of the unit fires: those of the heads that it takes up and of what it sends. -/
def mergeTags (v : View) (g : Merge) (a : MergeAct) : List Tag :=
  let ha := (g.qa.head?.map (·.2)).toList
  let hb := (g.qb.head?.map (·.2)).toList
  (match a with
    | .wait => []
    | .close b => if b then hb else ha
    | .violation b => if b then hb else ha
    | .drop b => if b then hb else ha
    | .emit b both => (if b ∨ both then hb else []) ++ (if b then [] else ha)) ++ (mergeOuts v g a).map (·.2)

/-- A tag under which the unit's next step fires that is one of a parked frame: the step waits (R73). -/
def mergeParked (s : State) (p : Pos) (v : View) (g : Merge) : Option Tag :=
  (mergeTags v g (mergeNext (mrgMode v) g)).find? (tagParked s p)

/-- MERGE_RECORD may be made: one record or end token in an fc, while the output buffer has room and no frame concerned is parked (R73). -/
def mergeEnabled (s : State) (p : Pos) : Bool :=
  match mrgEntry s p with
  | none => false
  | some (_, v) =>
    let g := (qAt s p).merge
    let a := mergeNext (mrgMode v) g
    !halted s p && a != .wait && (g.lastRun != s.fc + 1) && (mergeParked s p v g).isNone &&
      roomFor s p ((mergeOuts v g a).map (·.1))

/-- ORDER is set, and ORDPOS records the violation when ORDER was clear (R257). -/
def orderMark (r : Nat) (p : Pos) (b : Bool) (n : Nat) : Prog :=
  updRegion r fun x =>
    let y := if x.rflags.getLsbD 1 then x else
      { x with ordpos := place p.die 62 ||| place p.clu 57 ||| place p.unit 51 ||| placeBit b 50 ||| place (n % 2 ^ 32) 0 }
    { y with rflags := putBit y.rflags 1 true, rfNew := putBit y.rfNew 1 true }

/-- The violation that a step of the unit has finished: the last token of its run is discarded, and then ORDER is set (R257). -/
def mergeOver (g : Merge) (a : MergeAct) : Option (Bool × Nat) := if (mergeAfter g a).skip then none else g.viol

/-- MERGE_RECORD (R256, R257). -/
def mergeRecord (p : Pos) : Prog :=
  reading (fun s => (s, mrgEntry s p)) fun x => forSome x.2 fun y =>
    let g := (qAt x.1 p).merge
    let a := mergeNext (mrgMode y.2) g
    seqAll [
      forEach (mergeOuts y.2 g a) (fun o => placeOuts p o.2 [o.1]),
      forSome (mergeOver g a) (fun o => forSome (regionOf x.1 p) fun r => orderMark r.id p o.1 o.2),
      updQ p fun q => { q with merge := { mergeAfter g a with lastRun := x.1.fc + 1, since := x.1.fc + 1 } }]

/-- MRG: a token of a side enters its queue; the unit takes it from there (R255). -/
def enterRecord (f : Firing) : Prog :=
  seqAll [markFired f, enterMerge f.pos f.side (if f.side = 0 then f.a else f.b) f.tag, endFiring]

/-! ## The instructions and steps -/

/-- HALLOC (R206). -/
def execHalloc (o : Ops2) (x : Xh) (s : State) : Host.Outcome State Fault Refusal := onFiring (allocHandle o x) s
/-- HFREE (R207). -/
def execHfree (o : Ops2) (x : Xh) (s : State) : Host.Outcome State Fault Refusal := onFiring (freeHandle o x) s
/-- HMAP (R208). -/
def execHmap (o : Ops2) (x : Xh) (s : State) : Host.Outcome State Fault Refusal := onFiring (mapHandle o x) s
/-- HFMT (R209). -/
def execHfmt (o : Ops2) (x : Xh) (s : State) : Host.Outcome State Fault Refusal := onFiring (formatHandle o x) s
/-- HDESC (R210). -/
def execHdesc (o : Ops2) (x : Xh) (s : State) : Host.Outcome State Fault Refusal := onFiring (readHandle o x) s
/-- RPUSH (R211). -/
def execRpush (o : Ops2) (x : Xh) (s : State) : Host.Outcome State Fault Refusal := onFiring (pushRow o x) s
/-- COPY (R212). -/
def execCopy (o : Ops2) (x : Xh) (s : State) : Host.Outcome State Fault Refusal := onFiring (copyBlock o x) s
/-- STRMI (R213). -/
def execStrmi (o : Ops2) (x : Xh) (s : State) : Host.Outcome State Fault Refusal := onFiring (openInput o x) s
/-- STRMO (R215). -/
def execStrmo (o : Ops2) (x : Xh) (s : State) : Host.Outcome State Fault Refusal := onFiring (streamOut o x) s
/-- RELM (R216). -/
def execRelm (o : Ops2) (x : Xh) (s : State) : Host.Outcome State Fault Refusal := onFiring (releaseMark o x) s
/-- MRG (R255): its operands select T on both sides, and OP and SGN are read where the unit runs. -/
def execMrg (_o : Ops2) (_x : Xh) (s : State) : Host.Outcome State Fault Refusal := onFiring enterRecord s
/-- HANDLE_COPY_UPDATE (R185). -/
def execHandleCopyUpdate (m : Nat) (s : State) : Host.Outcome State Fault Refusal :=
  actWhen (copyReached s m) "HANDLE_COPY_UPDATE" (copyUpdate m) s
/-- COPY_UNIT (R212). -/
def execCopyUnit (p : Pos) (k : Nat) (s : State) : Host.Outcome State Fault Refusal :=
  actWhen (copyEnabled s p k) "COPY_UNIT" (copyUnit p k) s
/-- STRMI_BLOCK (R213). -/
def execStrmiBlock (p : Pos) (k : Nat) (s : State) : Host.Outcome State Fault Refusal :=
  actWhen (blockEnabled s p k) "STRMI_BLOCK" (streamBlock p k) s
/-- ENGINE_COMPLETION (R201). -/
def execEngineCompletion (p : Pos) (k : Nat) (s : State) : Host.Outcome State Fault Refusal :=
  actWhen (engEnabled s p k) "ENGINE_COMPLETION" (engineCompletion p k) s
/-- MERGE_RECORD (R256). -/
def execMergeRecord (p : Pos) (s : State) : Host.Outcome State Fault Refusal :=
  actWhen (mergeEnabled s p) "MERGE_RECORD" (mergeRecord p) s

end Sys2Proof.Machine
end

