-- ==== Sys2Proof/Machine/Pattern.lean ====
section
/-! DEFINITION. Pattern programs of the mill (spec/10 R259 to R265): the sets of coordinates their words build, row by row and
column by column, and the reading of a program. -/

namespace Sys2Proof.Machine

open Sys2Proof

/-- A pattern with its dimensions (R260). -/
inductive Pat
  | band (lo hi rows cols : Nat)
  | dil (d n rows cols : Nat)
  | blk (b rows cols : Nat)
  | hash (c seed rows cols : Nat)
  | perm (seed n : Nat)
  | kron (x y : Pat)
  | union (x y : Pat)
  | shift (x : Pat) (s : Int)
  | clip (x : Pat) (rows cols : Nat)
  deriving DecidableEq, Repr

def Pat.rows : Pat → Nat
  | .band _ _ r _ => r
  | .dil _ _ r _ => r
  | .blk _ r _ => r
  | .hash _ _ r _ => r
  | .perm _ n => n
  | .kron x y => x.rows * y.rows
  | .union x _ => x.rows
  | .shift x _ => x.rows
  | .clip _ r _ => r

def Pat.cols : Pat → Nat
  | .band _ _ _ c => c
  | .dil _ _ _ c => c
  | .blk _ _ c => c
  | .hash _ _ _ c => c
  | .perm _ n => n
  | .kron x y => x.cols * y.cols
  | .union x _ => x.cols
  | .shift x _ => x.cols
  | .clip _ _ c => c

/-- Whether columns can be walked (R264). -/
def Pat.invertible : Pat → Bool
  | .hash _ _ _ _ => false
  | .kron x y => x.invertible && y.invertible
  | .union x y => x.invertible && y.invertible
  | .shift x _ => x.invertible
  | .clip x _ _ => x.invertible
  | _ => true

/-- The integers from a to b that are at least 0 and below n, ascending. -/
def span (a b : Int) (n : Nat) : List Nat :=
  let lo := a.toNat
  let hi := min (b + 1).toNat n
  (List.range (hi - lo)).map (lo + ·)

/-- The places at multiples of d from i, at most n steps away, below a bound (PDIL). -/
def strided (i d n bound : Nat) : List Nat :=
  (List.range (2 * n + 1)).filterMap fun (m : Nat) =>
    let j : Int := (i : Int) + (d : Int) * ((m : Int) - (n : Int))
    if 0 ≤ j ∧ j < bound then some j.toNat else none

/-- A number put into an ascending list without repeats. -/
def insertSorted (x : Nat) : List Nat → List Nat
  | [] => [x]
  | y :: rest => if x < y then x :: y :: rest else if x = y then y :: rest else y :: insertSorted x rest

/-- The column that PHASH gives row i at m, before reduction (R262). -/
def patHash (i m seed : Nat) : Nat :=
  let x : BitVec 32 := BitVec.ofNat 32 (i * 0x9E3779B1 + m * 0x85EBCA77 + seed)
  let x := x ^^^ (x >>> 15)
  let x := x * 0x2C1B3C6D
  let x := x ^^^ (x >>> 12)
  x.toNat

/-- The multiplier of PPERM: the least number from a0 up that is prime to n, or 1 (R263). -/
def permMul (seed n : Nat) : Nat :=
  let a0 := seed / 2 ^ 14 % 2 ^ 14 % n
  let lo := max 1 a0
  (((List.range (n - lo)).map (lo + ·)).find? fun a => Nat.gcd a n = 1).getD 1
def permAdd (seed n : Nat) : Nat := seed % 2 ^ 14 % n

/-- The inverse of a number modulo n. -/
def inverseMod (a n : Nat) : Nat := ((List.range n).find? fun b => a * b % n = 1 % n).getD 0

/-- The columns of row i, ascending without repeats (R260). -/
def Pat.row : Pat → Nat → List Nat
  | .band lo hi r c, i => if i < r then span ((i : Int) - lo) ((i : Int) + hi) c else []
  | .dil d n r c, i => if i < r then strided i d n c else []
  | .blk b r c, i => if i < r then span (i / b * b) (i / b * b + b - 1 : Nat) c else []
  | .hash k seed r c, i =>
    if i < r then ((List.range k).map fun m => patHash i m seed % c).foldl (fun l x => insertSorted x l) [] else []
  | .perm seed n, i => if i < n then [(permMul seed n * i + permAdd seed n) % n] else []
  | .kron x y, i => (x.row (i / y.rows)).flatMap fun j => (y.row (i % y.rows)).map fun k => j * y.cols + k
  | .union x y, i => (y.row i).foldl (fun l k => insertSorted k l) (x.row i)
  | .shift x s, i => (x.row i).filterMap fun (j : Nat) =>
      let k : Int := (j : Int) + s
      if 0 ≤ k ∧ k < x.cols then some k.toNat else none
  | .clip x r c, i => if i < r then (x.row i).filter fun j => j < c else []

/-- The rows of column j of an invertible pattern, ascending. -/
def Pat.col : Pat → Nat → List Nat
  | .band lo hi r c, j => if j < c then span ((j : Int) - hi) ((j : Int) + lo) r else []
  | .dil d n r c, j => if j < c then strided j d n r else []
  | .blk b r c, j => if j < c then span (j / b * b) (j / b * b + b - 1 : Nat) r else []
  | .hash k seed r c, j => (List.range r).filter fun i => ((Pat.hash k seed r c).row i).contains j
  | .perm seed n, j =>
    if j < n then [inverseMod (permMul seed n) n * (j + n - permAdd seed n) % n] else []
  | .kron x y, j => (x.col (j / y.cols)).flatMap fun i => (y.col (j % y.cols)).map fun k => i * y.rows + k
  | .union x y, j => (y.col j).foldl (fun l k => insertSorted k l) (x.col j)
  | .shift x s, j =>
    let k : Int := (j : Int) - s
    if j < x.cols ∧ 0 ≤ k ∧ k < x.cols then x.col k.toNat else []
  | .clip x r c, j => if j < c then (x.col j).filter fun i => i < r else []

/-- The fc that PHASH leaves take before a row's first coordinate (R269). -/
def Pat.hashCost : Pat → Nat
  | .hash k _ _ _ => k
  | .kron x y => x.hashCost + y.hashCost
  | .union x y => x.hashCost + y.hashCost
  | .shift x _ => x.hashCost
  | .clip x _ _ => x.hashCost
  | _ => 0

/-- The value index of the first coordinate of row i (R246, R267), counted from row `lo` on with an offset. -/
def Pat.offsetFrom (x : Pat) (lo base i : Nat) : Nat :=
  (List.range (i - lo)).foldl (fun n k => n + (x.row (lo + k)).length) base
def Pat.offset (x : Pat) (i : Nat) : Nat := x.offsetFrom 0 0 i

/-- The coordinates of a row with their value indices modulo 2^32, as (other index, value index). -/
def Pat.rowCoords (x : Pat) (i : Nat) : List (Nat × Nat) :=
  (x.row i).zipIdx.map fun y => (y.1, (x.offset i + y.2) % 2 ^ 32)

/-- The coordinates of a column: rows with the value index of each. -/
def Pat.colCoords (x : Pat) (j : Nat) : List (Nat × Nat) :=
  (x.col j).map fun i => (i, (x.offset i + ((x.row i).findIdx fun k => k = j)) % 2 ^ 32)

/-! ## Reading a program (R259 to R261, R265) -/

/-- The stack, the current dimensions. -/
structure PatRun where
  stack : List Pat
  rows : Nat
  cols : Nat
  deriving DecidableEq, Repr

/-- A stack with one more pattern, at most four, its dimensions within bounds. A "product of dimensions above 2^31" (R265) is taken to
be the rows or the columns of a PKRON, each a product of two dimensions, and not rows times columns (DESIGN CHOICE, assumption 114). -/
def PatRun.push (x : PatRun) (p : Pat) : Option PatRun :=
  if x.stack.length < 4 ∧ p.rows * p.cols ≠ 0 ∧ p.rows ≤ 2 ^ 31 ∧ p.cols ≤ 2 ^ 31 then some { x with stack := p :: x.stack } else none

/-- Bits hi down to lo of a pattern word. -/
def patField (w : Word32) (hi lo : Nat) : Nat := (w.extractLsb' lo (hi + 1 - lo)).toNat

/-- One word that is not PEND; none where R265 makes the program malformed. -/
def patStep (w : Word32) (x : PatRun) : Option PatRun :=
  let hi := patField w 27 14
  let lo := patField w 13 0
  let clear := patField w 27 0 = 0
  match patField w 31 28, x.stack with
  | 1, _ => x.push (.band hi lo x.rows x.cols)
  | 2, _ => if hi = 0 then none else x.push (.dil hi lo x.rows x.cols)
  | 3, _ => if clear then none else x.push (.blk (patField w 27 0) x.rows x.cols)
  | 4, b :: a :: rest => if clear then ({ x with stack := rest } : PatRun).push (.kron a b) else none
  | 5, _ => if patField w 21 18 = 0 then x.push (.hash (patField w 27 22) (patField w 17 0) x.rows x.cols) else none
  | 6, _ => if x.rows = x.cols then x.push (.perm (patField w 27 0) x.rows) else none
  | 7, b :: a :: rest =>
    if clear ∧ a.rows = b.rows ∧ a.cols = b.cols then ({ x with stack := rest } : PatRun).push (.union a b) else none
  | 8, a :: rest => ({ x with stack := rest } : PatRun).push (.shift a (w.extractLsb' 0 28).toInt)
  | 9, _ => if hi = 0 ∨ lo = 0 then none else some { x with rows := hi, cols := lo }
  | 10, a :: rest => if clear then ({ x with stack := rest } : PatRun).push (.clip a x.rows x.cols) else none
  | _, _ => none

/-- The words after the header, up to PEND. -/
def patRun : List Word32 → PatRun → Option Pat
  | [], _ => none
  | w :: rest, x =>
    if patField w 31 28 = 0 then
      match x.stack with
      | [p] => if patField w 27 0 = 0 then some p else none
      | _ => none
    else (patStep w x).bind (patRun rest)

/-- The pattern of a program, when it is well formed (R265). -/
def readPattern (words : List Word32) : Option Pat :=
  let rows := (words.getD 0 0).toNat
  let cols := (words.getD 1 0).toNat
  if rows = 0 ∨ cols = 0 ∨ 2 ^ 31 < rows ∨ 2 ^ 31 < cols then none
  else match patRun ((words.drop 2).take 62) ⟨[], rows, cols⟩ with
    | some p => if p.rows = rows ∧ p.cols = cols then some p else none
    | none => none

/-- The words that reading a program takes, up to PEND (R269). -/
def programLength (words : List Word32) : Nat :=
  2 + (((words.drop 2).take 62).findIdx fun w => patField w 31 28 = 0) + 1

end Sys2Proof.Machine
end

