-- ==== Sys2Proof/Machine/Sparse.lean ====
section
/-! DEFINITION. The access processors (spec/10 R243 to R253): CSRW, GATHB and NMX as walks that go from reply to reply, the CAM,
and the arrival of a push at its ring (spec/08 R200). -/

namespace Sys2Proof.Machine

open Sys2Proof

/-! ## Outgoing tags of operations that send before they complete -/

/-- Send tokens of an operation from its element's output buffer before it completes. -/
def sendEarly (p : Pos) (k : Nat) (outs : List Out) : Prog :=
  reading (fun s => opTag s p k) fun t => forSome t fun t => placeOuts p t outs

/-- An operation completes with the values it sends last. -/
def finishOp (p : Pos) (k : Nat) (outs : List Out) : Prog := fun s =>
  updOp p k (fun y => { y with wait := .none, due := some s.fc, outs := outs }) s

/-! ## Walks -/

def updWalk (p : Pos) (op : Nat) (f : Walk → Walk) : Prog :=
  upd fun c => { c with walks := replaceIf (fun w => w.p = p ∧ w.op = op) f c.walks }

/-- A walk as a firing begins it. -/
def newWalk (f : Firing) (o : Ops2) (x : Xs) (op code : Nat) (tile : Pos) (q : Nat) : Walk :=
  { p := f.pos, op := op, code := code, entry := f.entry, tag := f.tag, out := f.tag, d0 := dstNat o.d0, d1 := dstNat o.d1,
    rel := o.ta == .free, h := x.h.toNat, row := 0, chunk := 0, phase := 0, k := 0, p0 := 0, p1 := 0, last := 0, idx := 0,
    rawv := false, pack := false, chk := false, tile := tile, q := q, buf := 0, fill := 0, bytes := [], pushes := 0, emit := 0 }

/-- The tile that a tile index names for an access processor (R247). -/
def walkTile (s : State) (p : Pos) (i : Nat) : Option Pos :=
  (regionOf s p).bind fun r => (apTiles r.rects p)[i]?.bind fun x => r.rects[x.1]?.map fun z => rectTile z.1 z.2 x.2

/-- A handle of a region that is a valid dense one, in the copy of a place (R246). -/
def denseEntry (s : State) (p : Pos) (h : Nat) : Option HandleEntry :=
  (regionOf s p).bind fun r =>
    let e := handleAt r p h
    if h ≠ 0 ∧ e.valid ∧ e.kind = 0 then some e else none

/-- The element's copy of a handle. -/
def copyOf (s : State) (p : Pos) (h : Nat) : HandleEntry := ((regionOf s p).map fun r => handleAt r p h).getD HandleEntry.reset

/-- A read of a walk. -/
def walkRead (w : Walk) (h n : Nat) (op : ROp) (lanes : List (Nat × Nat)) : Prog :=
  reading (fun s => regionId s w.p) fun r =>
    issueReq { p := w.p, r := r, entry := w.entry, op := op, client := .walk w.p w.op, h := h, n := n, lanes := lanes, b := 0, c := 0,
               idx := 0, scope := .none, str := false, ack := false, tag := w.tag, out := w.out, t0 := [], t1 := [], rel := false }

/-- A run of bytes, one lane each. -/
def byteLanes (off n : Nat) : List (Nat × Nat) := (List.range n).map fun i => (i, off + i)

/-- A walk that fails stops the region (R248 to R250). -/
def failWalk (w : Walk) (code : Nat) : Prog :=
  andThen (raiseError w.p code w.entry w.tag 0) (stopWalk w.p w.op)

/-- A walk ends: its last values leave. -/
def endWalk (w : Walk) (outs : List Out) : Prog := andThen (dropWalk w.p w.op) (finishOp w.p w.op outs)

/-- A firing becomes a walk whose operation waits for the walk's end; one that makes a request does not fire while the queue is full
(R244). -/
def startWalking (f : Firing) (o : Ops2) (opc : Nat) (asks : Bool) (w : Nat → Walk) (begin' : Walk → Prog) : Prog := fun s =>
  if asks ∧ poolLimit f.pos ≤ poolUse s f.pos then holdBack f s
  else issueOp f ⟨opc, o.ta, sideB s f o.sb, some 0, [], 0, .reply, false⟩ (fun k =>
    andThen (upd fun c => { c with walks := c.walks ++ [w k] }) (begin' (w k))) s

/-- The sideband of a slot that an access processor pushes (R247): no adapter, every scale 127. -/
def plainSide : BitVec 40 := 0x7F7F7F0000

/-! ## CSRW (R248) -/

/-- The bits a value of a format takes in a packed slot, and the values a slot holds (R220). -/
def packCount (b : Nat) : Nat := if b = 4 then 96 else if b = 8 then 48 else 24

/-- The size in bytes of an index. -/
def idxBytes (e : HandleEntry) : Nat := if e.format = .i16 then 2 else 4

/-- The request for a walk's index at its position, and for its value. -/
def readIndex (s : State) (w : Walk) : Prog :=
  let e := copyOf s w.p w.h
  let n := idxBytes (copyOf s w.p e.idx)
  walkRead w e.idx n (.load false) [(0, w.k * n)]
def readValue (s : State) (w : Walk) : Prog :=
  let e := copyOf s w.p w.h
  let b := elemBits (copyOf s w.p e.vals).format
  walkRead w e.vals (max 1 (b / 8)) (.load false) [(0, w.k * b / 8)]

/-- A CSRW of an access processor is walking its row. -/
def rowWalking (s : State) (p : Pos) : Bool := s.chip.walks.any fun w => w.p == p && w.code == 0xC7

/-- CSRW fires. The walks of one access processor run one after another: a CSRW does not fire while another is walking (R421,
assumption 115). -/
def walkRow (o : Ops2) (x : Xs) (f : Firing) : Prog := fun s =>
  let e := copyOf s f.pos x.h.toNat
  let pack := x.mode.getLsbD 1
  let i := field (lowWord (sideA s f o.sa)) 31 0
  if rowWalking s f.pos then holdBack f s
  else match denseEntry s f.pos e.ptr, denseEntry s f.pos e.idx, denseEntry s f.pos e.vals with
  | some _, some _, some v =>
    let tile := (walkTile s f.pos x.uc.toNat).getD (unitOf f.pos)
    if !e.valid || e.kind != 2 || (pack && 32 ≤ elemBits v.format) then failFiring f codeEhandle 0 s
    else if e.rows ≤ i then sendAfter f 0xC7 o.ta (sideB s f o.sb) none (outOf (dstNat o.d1) 0 false false) 0 s
    else startWalking f o 0xC7 true
      (fun k => { newWalk f o x k 0xC7 tile (x.mode.toNat / 16 % 16) with row := i, rawv := x.mode.getLsbD 0, pack := pack })
      (fun w => walkRead w e.ptr 4 .gather [(0, 4 * i), (1, 4 * i + 4)]) s
  | _, _, _ => failFiring f codeEhandle 0 s

/-- The value a CSRW read at its position, out of the byte or bytes read. -/
def readBits (b k : Nat) (w : Wide) : Nat :=
  if b = 4 then (lowWord w).toNat / 16 ^ (k % 2) % 16 else (lowWord w).toNat % 2 ^ b

/-- A position of a CSRW is emitted and packed, and the next one is read or the walk ends (R248). -/
def emitPosition (w : Walk) (v b : Nat) : Prog :=
  let x := if w.rawv then v else w.k % 2 ^ 32
  let buf := w.buf ||| (BitVec.ofNat 512 v <<< (w.fill * b))
  let last := w.k + 1 = w.p1
  let full := w.fill + 1 = packCount b || last
  let w' : Walk := { w with
    k := w.k + 1, last := w.idx, phase := if last then 3 else 1,
    buf := if w.pack && full then 0 else if w.pack then buf else 0,
    fill := if w.pack && !full then w.fill + 1 else 0,
    pushes := if w.pack && full then w.pushes + 1 else w.pushes }
  seqAll [
    sendEarly w.p w.op (outOf w.d0 (ofWord (place x 32 ||| nat64 w.idx)) false false),
    onlyIf (w.pack && full) (sendPush w.p w.tile w.q [buf] plainSide (.walk w.p w.op)),
    updWalk w.p w.op (fun _ => w'),
    if last then onlyIf (w'.pushes == 0) (endWalk w' (outOf w.d1 (ofWord (nat64 (w.p1 - w.p0))) false false))
    else fun s => readIndex s w' s]

/-- A reply of a CSRW. -/
def rowReply (w : Walk) (q : MemReq) : Prog := fun s =>
  let e := copyOf s w.p w.h
  let ix := copyOf s w.p e.idx
  match w.phase with
  | 0 =>
    let p0 := (lane q.val 0).toNat
    let p1 := (lane q.val 1).toNat
    if p1 < p0 ∨ ix.rows * ix.cols < p1 then failWalk w codeEmeta s
    else if p0 = p1 then endWalk w (outOf w.d1 0 false false) s
    else
      let w' : Walk := { w with phase := 1, k := p0, p0 := p0, p1 := p1 }
      andThen (updWalk w.p w.op fun _ => w') (readIndex s w') s
  | 1 =>
    let j := (lowWord q.val).toNat % 2 ^ (8 * idxBytes ix)
    if e.cols ≤ j ∨ (w.p0 < w.k ∧ j ≤ w.last) then failWalk w codeEmeta s
    else
      let w' : Walk := { w with idx := j, phase := 2 }
      if w.rawv || w.pack then andThen (updWalk w.p w.op fun _ => w') (readValue s w') s
      else emitPosition w' 0 0 s
  | _ =>
    let b := elemBits (copyOf s w.p e.vals).format
    emitPosition w (readBits b w.k q.val) b s

/-! ## GATHB and NMX (R249, R250) -/

/-- A gathering walk pushes its row (R249, R250). -/
def pushGathered (w : Walk) : Prog :=
  reading (fun s => (apAt s w.p, elemBits (copyOf s w.p w.h).format)) fun x =>
    let row := ofBytes w.bytes
    let send := fun data => andThen (updWalk w.p w.op fun y => { y with phase := 6 })
      (sendPush w.p w.tile w.q data plainSide (.walk w.p w.op))
    if w.code = 0xC8 then send [row]
    else if x.2 = 8 then send [row]
    else if x.2 = 16 then send [ofBytes (w.bytes.take 64), ofBytes (w.bytes.drop 64)]
    else match x.1.gather with
      | none => andThen (updAp w.p fun a => { a with gather := some row }) (endWalk w [])
      | some b => andThen (updAp w.p fun a => { a with gather := none }) (send [b ||| (row <<< 256)])

/-- A walk still has slots to push, or bytes to put into the gather buffer. -/
def Walk.pushing (w : Walk) : Bool := if w.code == 0xC7 then w.pack && w.phase != 3 else w.phase != 6

/-- The walks of an access processor push in firing order toward their ring, and fill the gather buffer in that order (R249, R312). -/
def pushTurn (s : State) (w : Walk) : Bool :=
  (s.chip.walks.takeWhile fun x => !(x.p == w.p && x.op == w.op)).all fun x =>
    !(x.p == w.p && x.pushing && ((x.tile == w.tile && x.q == w.q) || (x.code == 0xC9 && w.code == 0xC9)))

/-- Gathering walks of an access processor whose rows are there push when it is their turn (R249, R312). -/
def drainGather (p : Pos) : Prog :=
  reading (fun s => s.chip.walks.filter fun w => w.p = p ∧ (w.code = 0xC8 ∨ w.code = 0xC9) ∧ w.phase = 5) fun l =>
    forEach l fun w => reading (pushTurn · w) fun b => onlyIf b (pushGathered w)

/-- GATHB fires. -/
def gatherRow (o : Ops2) (x : Xs) (f : Firing) : Prog := fun s =>
  let j := field (lowWord (sideA s f o.sa)) 31 0
  match denseEntry s f.pos x.h.toNat, walkTile s f.pos x.uc.toNat with
  | some e, some tile =>
    let b := elemBits e.format
    let w := fun k => newWalk f o x k 0xC9 tile (x.mode.toNat % 16)
    if e.cols ≠ 64 ∨ !(b = 4 ∨ b = 8 ∨ b = 16) then failFiring f codeEhandle 0 s
    else if j = 0xFFFFFFFF then
      startWalking f o 0xC9 false (fun k => { w k with phase := 5, bytes := List.replicate (8 * b) 0 }) (fun y => drainGather y.p) s
    else if e.rows ≤ j then failFiring f codeEmeta 0 s
    else startWalking f o 0xC9 true (fun k => { w k with row := j, p1 := if b = 16 then 2 else 1 })
      (fun y => walkRead y y.h 1 .engRead (byteLanes (8 * b * j) (min 64 (8 * b)))) s
  | _, _ => failFiring f codeEhandle 0 s

/-- Values an A row of an N:M handle holds (R220, R246), and its chunks in a row. -/
def nmCount (e : HandleEntry) : Nat := packCount (elemBits e.format)
def nmChunks (cols e : Nat) : Nat := (cols + 2 * e - 1) / (2 * e)

/-- Every group's second position is above its first (R226). -/
def nmOk (count : Nat) (row : Wide) : Bool :=
  (List.range (count / 2)).all fun g =>
    (row.extractLsb' (384 + 4 * g) 2).toNat < (row.extractLsb' (384 + 4 * g + 2) 2).toNat

/-- NMX fires. -/
def stageRow (o : Ops2) (x : Xs) (f : Firing) : Prog := fun s =>
  let a := lowWord (sideA s f o.sa)
  let e := copyOf s f.pos x.h.toNat
  match denseEntry s f.pos e.vals, denseEntry s f.pos e.metaH, walkTile s f.pos x.uc.toNat with
  | some v, some _, some tile =>
    let b := elemBits v.format
    let kc := nmChunks e.cols (packCount b)
    if !e.valid ∨ e.kind ≠ 3 ∨ !(b = 8 ∨ b = 16) then failFiring f codeEhandle 0 s
    else if e.rows ≤ field a 31 0 ∨ kc ≤ field a 63 32 then failFiring f codeEmeta 0 s
    else startWalking f o 0xC8 true
      (fun k => { newWalk f o x k 0xC8 tile (x.mode.toNat % 16) with
        row := field a 31 0, chunk := field a 63 32, p1 := 2, chk := x.mode.getLsbD 4,
        k := field a 31 0 * kc + field a 63 32, fill := packCount b })
      (fun w => walkRead w e.vals 1 .engRead (byteLanes (w.k * 48) 48)) s
  | _, _, _ => failFiring f codeEhandle 0 s

/-- A reply of a gathering walk: the second part is read, or the row is there. -/
def gatherReply (w : Walk) (q : MemReq) : Prog := fun s =>
  let e := copyOf s w.p w.h
  let b := elemBits e.format
  let n := (q.parts.flatMap (·.lanes)).length
  let w' : Walk := { w with bytes := w.bytes ++ bytesOf q.val n, phase := if w.phase + 1 = w.p1 then 5 else w.phase + 1 }
  if w'.phase = 5 then
    if w.chk && !nmOk w.fill (ofBytes w'.bytes) then failWalk w codeEmeta s
    else andThen (updWalk w.p w.op fun _ => w') (drainGather w.p) s
  else
    andThen (updWalk w.p w.op fun _ => w')
      (if w.code = 0xC8 then walkRead w e.metaH 1 .engRead (byteLanes (w.k * 12) 12)
       else walkRead w w.h 1 .engRead (byteLanes (8 * b * w.row + 64) 64)) s

/-- The next position of a CSRW fills its packing slot. -/
def fillsSlot (s : State) (w : Walk) : Bool :=
  w.pack && (w.fill + 1 == packCount (elemBits (copyOf s w.p (copyOf s w.p w.h).vals).format) || w.k + 1 == w.p1)

/-- A reply of a walk (R244): a position of CSRW also needs its tag, room and credit for its token, and its turn to push. -/
def walkMay (s : State) (p : Pos) (op : Nat) : Bool :=
  match walkAt s p op with
  | none => true
  | some w => !halted s p && (!w.emits ||
      ((opTag s p op).isSome && roomFor s p (outOf w.d0 0 false false) && (!fillsSlot s w || pushTurn s w)))
def walkReply (p : Pos) (op : Nat) (q : MemReq) : Prog :=
  reading (fun s => walkAt s p op) fun w => forSome w fun w =>
    if w.code = 0xC7 then andThen (rowReply w q) (drainGather p) else gatherReply w q

/-! ## Pushes (R200) -/

/-- What a visible push brings about for the one who pushed: `tail` is TAIL after it. -/
def pushDone (who : PushFor) (tail : BitVec 16) : Prog :=
  match who with
  | .op p k _ => updEng p k fun z => { z with a := tail.toNat, sent := 1 }
  | .window p k u => updEng p k fun z => { z with open' := z.open' ++ [u] }
  | .walk p op =>
    reading (fun s => walkAt s p op) fun w => forSome w fun w =>
      let v := ofWord (nat64 tail.toNat)
      if w.code = 0xC7 then
        let w' : Walk := { w with pushes := w.pushes - 1 }
        andThen (updWalk p op fun _ => w')
          (onlyIf (w'.phase == 3 && w'.pushes == 0) (endWalk w' (outOf w.d1 (ofWord (nat64 (w.p1 - w.p0))) false false)))
      else endWalk w (outOf w.d0 v false false ++ outOf w.d1 v false false)
  | .mill _ _ => skip

/-- The entry and tag a failing push is charged to (R207, R362). -/
def pushSource (s : State) (x : Push) : Nat × Tag :=
  match x.who with
  | .op p k _ => (0, ((engAt s p k).map fun e => e.tag).getD 0)
  | .window p k _ => (0, ((engAt s p k).map fun e => e.tag).getD 0)
  | .walk p op => ((walkAt s p op).map fun w => (w.entry, w.tag)).getD (0, 0)
  | .mill u c => (0, (((millAt s u c).reqs.head?).map fun q => q.tag).getD 0)

/-- The pusher whose push fails goes no further (R10). -/
def stopPusher (w : PushFor) : Prog :=
  match w with
  | .op p k _ => stopEng p k
  | .window p k _ => stopEng p k
  | .walk p op => stopWalk p op
  | .mill u c => stopMill u c

/-- RING_PUSH: slots and sidebands become visible together as TAIL passes them; a ring whose handle has gone fails it. -/
def ringPush (k : Nat) : Prog :=
  reading (fun s => (s, pushAt s k)) fun x => forSome x.2 fun y =>
    let s := x.1
    match (ringAt s y.tile y.q).filter fun g => (ringEntry s g).isSome with
    | none => andThen (dropPush k)
        (let t := pushSource s y
         andThen (reading (regionOf · y.tile) fun r => forSome r fun r => raiseAt r y.src codeEhandle t.1 t.2 0) (stopPusher y.who))
    | some g => seqAll [
        dropPush k,
        useBanks (pushBanks s y),
        forEach y.data (fun v => appendSlot y.src y.who y.tile y.q v y.side),
        pushDone y.who (g.tail + BitVec.ofNat 16 y.data.length)]

/-! ## The CAM (R251 to R253) -/

/-- The status word (R251). -/
def camStatus (a : ApState) : Word :=
  placeBit a.ovf 33 ||| placeBit a.dup 32 ||| place (a.cam.countP (·.hit)) 16 ||| place a.cam.length 0

/-- An entry as a token (R251). -/
def camToken (pay : BitVec 32) (low : BitVec 32) : Wide := ofWord (pay ++ low)

/-- CLOAD (R252). -/
def camLoad (o : Ops2) (f : Firing) : Prog := fun s =>
  let w := lowWord (sideA s f o.sa)
  let a := apAt s f.pos
  let c := w.extractLsb' 0 32
  let a' : ApState := if a.cam.any fun e => e.coord == c then { a with dup := true }
    else if 1024 ≤ a.cam.length then { a with ovf := true }
    else { a with cam := a.cam ++ [⟨c, w.extractLsb' 32 32, false⟩] }
  andThen (updAp f.pos fun _ => a')
    (sendAfter f 0xC0 o.ta (sideB s f o.sb) (some 2) (bothOuts o.d0 o.d1 (ofWord (nat64 a'.cam.length)) false) 0) s

/-- CPROBE (R252). -/
def camProbe (o : Ops2) (x : Xs) (f : Firing) : Prog := fun s =>
  let w := lowWord (sideA s f o.sa)
  let c := w.extractLsb' 0 32
  let hit := (apAt s f.pos).cam.find? fun e => e.coord == c
  let outs := match hit with
    | some e => outOf (dstNat o.d0) (camToken e.pay (w.extractLsb' 32 32)) false false
    | none => if x.mode.getLsbD 0 then outOf (dstNat o.d1) (ofWord w) false false else []
  andThen (updAp f.pos fun a => { a with cam := replaceIf (fun e => e.coord == c) (fun e => { e with hit := true }) a.cam })
    (sendAfter f 0xC1 o.ta (sideB s f o.sb) (some 2) outs 0) s

/-- CFLUSH (R252): the tokens leave one in an fc; the scan takes an fc for 64 entries. -/
def camFlush (o : Ops2) (f : Firing) : Prog := fun s =>
  let a := apAt s f.pos
  let outs := (a.cam.filter fun e => !e.hit).flatMap (fun e => outOf (dstNat o.d0) (camToken e.pay e.coord) false false) ++
    outOf (dstNat o.d1) (ofWord (camStatus a)) false false
  sendAfter f 0xC2 o.ta (sideB s f o.sb) (some (1 + a.cam.length / 64)) outs 0 s

/-- CCLR (R252). -/
def camClear (o : Ops2) (f : Firing) : Prog := fun s =>
  let st := camStatus (apAt s f.pos)
  andThen (updAp f.pos fun a => { a with cam := [], dup := false, ovf := false })
    (sendAfter f 0xC3 o.ta (sideB s f o.sb) none (bothOuts o.d0 o.d1 (ofWord st) false) 0) s

/-- CLOAD (R252). -/
def execCload (o : Ops2) (_x : Xs) (s : State) : Host.Outcome State Fault Refusal := onFiring (camLoad o) s
/-- CPROBE (R252). -/
def execCprobe (o : Ops2) (x : Xs) (s : State) : Host.Outcome State Fault Refusal := onFiring (camProbe o x) s
/-- CFLUSH (R252). -/
def execCflush (o : Ops2) (_x : Xs) (s : State) : Host.Outcome State Fault Refusal := onFiring (camFlush o) s
/-- CCLR (R252). -/
def execCclr (o : Ops2) (_x : Xs) (s : State) : Host.Outcome State Fault Refusal := onFiring (camClear o) s
/-- CSRW (R248). -/
def execCsrw (o : Ops2) (x : Xs) (s : State) : Host.Outcome State Fault Refusal := onFiring (walkRow o x) s
/-- NMX (R250). -/
def execNmx (o : Ops2) (x : Xs) (s : State) : Host.Outcome State Fault Refusal := onFiring (stageRow o x) s
/-- GATHB (R249). -/
def execGathb (o : Ops2) (x : Xs) (s : State) : Host.Outcome State Fault Refusal := onFiring (gatherRow o x) s
/-- RING_PUSH (R200). -/
def execRingPush (k : Nat) (s : State) : Host.Outcome State Fault Refusal :=
  actWhen (pushEnabled s k) "RING_PUSH" (ringPush k) s

end Sys2Proof.Machine
end

