-- ==== Sys2Proof/Machine/Mill.lean ====
section
/-! DEFINITION. The mill (spec/10 R259 to R269): PRUN, PRUNT and PCNT, the generator contexts and their requests, coordinates, and
the expansion of a pattern into B slots for MMAP. -/

namespace Sys2Proof.Machine

open Sys2Proof

/-! ## Contexts and programs -/

/-- The physical context that a region's context index names in a cluster (R13, R266). -/
def millContext (r : Region) (p : Pos) (uc : Nat) : Option Nat := ((r.mills.filter fun m => cluOf m.1 = cluOf p)[uc]?).map (·.2)

/-- The words of a pattern program of an image, in a cluster's pattern table, with the table entry (R259). -/
def programOf (s : State) (r : Region) (u : Pos) (num : Nat) : Option (Nat × List Word32) :=
  (r.patMap.find? fun m => m.1 = num ∧ cluOf m.2.1 = cluOf u).bind fun m =>
    ((getKey [] (cluOf u) s.chip.patterns).find? fun x => x.1 = m.2.2).map fun x => (x.1, x.2.2)

/-- What a request finds: an error, or its pattern with its table entry and the length of its program (R264, R265). -/
inductive Found
  | error (code : Nat)
  | pattern (p : Pat) (entry len : Nat)
  deriving DecidableEq, Repr

/-- The pattern of a pat handle for a requester; `col` when columns are walked. -/
def findPattern (s : State) (r : Region) (u p : Pos) (h : Nat) (col : Bool) : Found :=
  let e := handleAt r p h
  if !e.valid ∨ e.kind ≠ 4 then .error codeEhandle
  else match programOf s r u e.pat with
    | none => .error codeEpatdef
    | some (k, words) =>
      match readPattern words with
      | none => .error codeEpatdef
      | some x =>
        if x.rows ≠ e.rows ∨ x.cols ≠ e.cols then .error codeEpatdef
        else if col && !x.invertible then .error codeEpatinv
        else .pattern x k (programLength words)

/-- A cursor: pat handle, program, row, the offset of the row (R266). -/
abbrev Cursor := Option (Nat × Nat × Nat × Nat)

/-- The rows whose lengths are counted for the value index of row i: from the cursor when it is the handle's and the program's and lies
at or below the row, else from row 0 (R266, R269). -/
def countRows (c : Cursor) (h k i : Nat) : Nat :=
  match c with
  | some (h', k', row, _) => if h' = h ∧ k' = k ∧ row ≤ i then i - row else i
  | none => i

/-- The cursor after the offset of row i of a handle's program has been counted. -/
def cursorAt (x : Pat) (h k i : Nat) : Cursor := some (h, k, i, x.offset i % 2 ^ 32)

/-- The rows counted on the way over some rows one after another, and the cursor after them (R269). -/
def countOver (x : Pat) (h k : Nat) (c : Cursor) (l : List Nat) : Nat × Cursor :=
  l.foldl (fun y i => (y.1 + countRows y.2 h k i, cursorAt x h k i)) (0, c)

/-! ## Requests -/

/-- A message's mill request. -/
def millReqOf (b : Body) : Option MillReq :=
  match b with
  | .mill q => some q
  | _ => none

/-- No earlier request of the same source that the context is to take comes before a message; one for another context, that has reached
the mill and waits there, does not hold it (R266). -/
def millOrder (s : State) (c : Nat) (m : Msg) : Bool :=
  s.chip.net.all fun x => !(ahead x m && (!arrived s x || (millReqOf x.body).any fun q => q.ctx == c))

/-- The request a context takes next: the first to have reached the mill (R266). -/
def nextMillReq (s : State) (u : Pos) (c : Nat) : Option (Msg × MillReq) :=
  (s.chip.net.filterMap fun m => (millReqOf m.body).map fun q => (m, q)).find? fun x =>
    cluOf x.1.dst == cluOf u && x.2.ctx == c && arrived s x.1 && millOrder s c x.1 &&
      firstAt s x.1 fun b => match b with | .mill q => q.ctx == c | _ => false

/-- MILL_REQUEST may be made: the context is free and a request waits. -/
def millReqEnabled (s : State) (u : Pos) (c : Nat) : Bool := !(millAt s u c).busy && ((nextMillReq s u c).any fun x => !halted s x.2.p)

/-- A request fails: the region stops, and nothing of the request is sent (R264, R265). The mill is the source, so ENTRY is 0
(R362, R437). -/
def failMill (r : Region) (q : MillReq) (code : Nat) : Prog := raiseAt r (millUnit q.p) code 0 q.tag 0

/-- The rows whose offsets a walk counts, in order: its row, or the rows of its column (R267, R269). -/
def walkRows (x : Pat) (col : Bool) (i : Nat) : List Nat := if col then x.col i else [i]

/-- A walk or a count of a row or a column begins: the program is read and the way to the first coordinate's row counted; the rows
between the coordinates of a column are counted between them (R267, R269). -/
def beginWalk (r : Region) (u : Pos) (c : Nat) (q : MillReq) (col nov count : Bool) : Prog := fun s =>
  match findPattern s r u q.p q.h (col) with
  | .error code => failMill r q code s
  | .pattern x k len =>
    let ctx := millAt s u c
    let inside := if col then decide (q.index < x.cols) else decide (q.index < x.rows)
    let coords := if !inside then [] else if col then
        (if nov || count then (x.col q.index).map fun i => (i, 0) else x.colCoords q.index)
      else (if nov || count then (x.row q.index).map fun j => (j, 0) else x.rowCoords q.index)
    let visited := if nov || count || !inside then [] else walkRows x col q.index
    let rows := match visited with | i :: _ => countRows ctx.cursor q.h k i | [] => 0
    let hash := if inside then x.hashCost else 0
    let counting := if count then coords.length else 0
    updMill u c (fun z => { z with
      reqs := [q], busy := true, coords := coords, done := 0,
      cursor := (countOver x q.h k z.cursor visited).2,
      due := s.fc + len + rows + hash + counting }) s

/-! ## Expansion for MMAP (R236, R268) -/

/-- The number of K-rows of a chunk whose values take b bits (R220). -/
def chunkRows (b : Nat) : Nat := packCount b

/-- The coordinates of one K-row of a chunk within the 64 columns from cb on: (column 0 to 63, value index). -/
def expandRow (x : Pat) (tb : Bool) (cb k : Nat) : List (Nat × Nat) :=
  ((if tb then x.colCoords k else x.rowCoords k).filter fun y => cb ≤ y.1 && y.1 < cb + 64).map fun y => (y.1 - cb, y.2)

/-- The K-row of the chunk that half `half` of slot j holds, and its coordinates within the slot (R221). -/
def slotRow (b j half : Nat) : Nat := if b = 8 then j else if b = 16 then j / 2 else 2 * j + half
def slotCoords (x : Pat) (tb : Bool) (b cb c j half : Nat) : List (Nat × Nat) :=
  let l := expandRow x tb cb (c * chunkRows b + slotRow b j half)
  if b = 16 then (l.filter fun y => y.1 / 32 = j % 2).map fun y => (y.1 % 32, y.2) else l

/-- The bytes to read for coordinates of a slot: the byte of the slot, or of the half of a 4-bit one's columns, and the
offset in VALS. -/
def slotLanes (b : Nat) (l : List (Nat × Nat)) : List (Nat × Nat) :=
  if b = 16 then l.flatMap fun y => [(2 * y.1, 2 * y.2), (2 * y.1 + 1, 2 * y.2 + 1)]
  else l.map fun y => (y.1, if b = 8 then y.2 else y.2 / 2)

/-- The bytes of a slot from what was read for its halves. -/
def slotData (b : Nat) (coords : Nat → List (Nat × Nat)) (vals : Nat → Wide) : Wide :=
  if b = 4 then
    [0, 1].foldl (fun acc half => (coords half).foldl (fun acc y =>
      let v := (byteAt (vals half) y.1).toNat / 16 ^ (y.2 % 2) % 16
      acc ||| (BitVec.ofNat 512 v <<< (256 * half + 4 * y.1))) acc) 0
  else vals 0

/-- The granules of a chunk that hold no coordinate (R236). -/
def emptyGranules (x : Pat) (tb : Bool) (b cb c : Nat) : Nat :=
  let e := chunkRows b
  (List.range 3).foldl (fun m g =>
    if (List.range (e / 3)).all fun i => (expandRow x tb cb (c * e + g * (e / 3) + i)).isEmpty then m + 2 ^ g else m) 0

/-- The expansion a context is busy with: its request, its pattern, the bits of a value, its binding. -/
structure Expansion where
  r : Region
  q : MillReq
  pat : Pat
  bits : Nat
  vals : Nat
  h : Nat
  prog : Nat
  tile : Pos
  ring : Nat
  cb : Nat
  k0 : Nat
  kc : Nat
  tb : Bool
  bs : Bool
  deriving DecidableEq, Repr

/-- What an expansion request finds of its binding, its handle and its pattern, or the error (R236, R268). -/
def expansionOf (s : State) (u : Pos) (c : Nat) (q : MillReq) : Except Nat Expansion :=
  match q.kind, (millAt s u c).bound, regionOf s q.p with
  | .expand k0 kc tb bs, some (h, tile, ring, cb), some r =>
    let e := handleAt r q.p h
    let v := handleAt r q.p e.vals
    if tile ≠ unitOf q.p ∨ ring ≠ q.index % 16 ∨ v.fmt ≠ q.index / 16 ∨ !v.valid then .error codeEhandle
    else match findPattern s r u q.p h tb with
      | .error code => .error code
      | .pattern x prog _ => .ok ⟨r, q, x, elemBits v.format, e.vals, h, prog, tile, ring, cb, k0, kc, tb, bs⟩
  | _, _, _ => .error codeEhandle

/-- The expansion in progress; none once an error has stopped it (R10). -/
def expandingAt (s : State) (u : Pos) (c : Nat) : Option Expansion :=
  let ctx := millAt s u c
  if !ctx.busy || ctx.failed then none
  else (ctx.reqs.head?).bind fun q => (expansionOf s u c q).toOption

/-- The data slots of a chunk and its scale slots. -/
def Expansion.slots (x : Expansion) : Nat := if x.bs then 51 else 48

/-- The coordinates of half `half` of the slot that a context stands at. -/
def Expansion.coords (x : Expansion) (ctx : MillCtx) (half : Nat) : List (Nat × Nat) :=
  if 48 ≤ ctx.slot then [] else slotCoords x.pat x.tb x.bits x.cb (x.k0 + ctx.chunk) ctx.slot half

/-- The pattern rows whose offsets the coordinates of a half of a context's slot ask for: the K-row, or with TB the row of each. -/
def Expansion.visited (x : Expansion) (ctx : MillCtx) (half : Nat) : List Nat :=
  let l := x.coords ctx half
  if x.tb then l.map fun y => y.1 + x.cb
  else if l.isEmpty then [] else [(x.k0 + ctx.chunk) * chunkRows x.bits + slotRow x.bits ctx.slot half]

/-- The fc of the PHASH leaves for the K-rows that a context's slot begins (R269). -/
def Expansion.hashing (x : Expansion) (ctx : MillCtx) : Nat :=
  if 48 ≤ ctx.slot ∨ (x.bits = 16 ∧ ctx.slot % 2 = 1) then 0
  else ((List.range (if x.bits = 4 then 2 else 1)).countP fun half =>
    decide ((x.k0 + ctx.chunk) * chunkRows x.bits + slotRow x.bits ctx.slot half < x.pat.rows)) * x.pat.hashCost

/-- The values of a context's slot are read from VALS (R268), and the offsets of its rows are counted (R269). -/
def readSlot (u : Pos) (c : Nat) : Prog :=
  reading (fun s => (s, expandingAt s u c)) fun y => forSome y.2 fun x =>
    let ctx := millAt y.1 u c
    let halves := if x.bits = 4 then [0, 1] else [0]
    let counted := countOver x.pat x.h x.prog ctx.cursor (halves.flatMap (x.visited ctx))
    seqAll [
      updMill u c (fun z => { z with
        due := y.1.fc + 1 + (halves.map fun i => (x.coords ctx i).length).sum + x.hashing ctx + counted.1, cursor := counted.2 }),
      forEach [0, 1] fun half =>
        let l := x.coords ctx half
        onlyIf (!l.isEmpty && (half == 0 || x.bits == 4)) (issueReq
          { p := x.q.p, r := x.r.id, entry := x.q.entry, op := .engRead, client := .mill (cluOf u) (2 * c + half), h := x.vals, n := 1,
            lanes := slotLanes x.bits l, b := 0, c := 0, idx := nat64 half, scope := .none, str := false, ack := false,
            tag := x.q.tag, out := x.q.out, t0 := [], t1 := [], rel := false })]

/-- The reads of a context. -/
def millReads (s : State) (u : Pos) (c : Nat) : List MemReq :=
  s.chip.reqs.filter fun q => match q.client with | .mill v k => v == cluOf u && k / 2 == c | _ => false

/-- A push of a context is on its way. -/
def millPushing (s : State) (u : Pos) (c : Nat) : Bool :=
  s.chip.pushes.any fun x => match x.who with | .mill v k => v == cluOf u && k == c | _ => false

/-- MILL_SLOT may be made: the slot's values are there, and its time has come. -/
def slotReady (s : State) (u : Pos) (c : Nat) : Bool :=
  ((expandingAt s u c).any fun x => !halted s x.q.p) && (millAt s u c).due ≤ s.fc && !millPushing s u c &&
    (millReads s u c).all fun q => match q.doneAt with | some t => t ≤ s.fc | none => false

/-- The context goes on to the next slot, or its request ends. -/
def nextSlot (u : Pos) (c : Nat) (x : Expansion) : Prog :=
  reading (fun s => millAt s u c) fun ctx =>
    let last := ctx.slot + 1 = x.slots
    if last ∧ ctx.chunk + 1 = x.kc then updMill u c fun z => { z with busy := false, reqs := [], chunk := 0, slot := 0 }
    else andThen
      (updMill u c fun z => if last then { z with chunk := z.chunk + 1, slot := 0 } else { z with slot := z.slot + 1 })
      (readSlot u c)

/-- MILL_SLOT: a slot goes to its ring, with the mask of empty granules on a chunk's first one (R236, R268). -/
def pushSlot (u : Pos) (c : Nat) : Prog :=
  reading (fun s => (s, expandingAt s u c)) fun y => forSome y.2 fun x =>
    let s := y.1
    let ctx := millAt s u c
    let reads := millReads s u c
    let val := fun half => ((reads.find? fun q => q.idx = nat64 half).map (·.val)).getD 0
    let data := if 48 ≤ ctx.slot then ofBytes (List.replicate 64 127) else slotData x.bits (x.coords ctx) val
    let mask := if ctx.slot = 0 then emptyGranules x.pat x.tb x.bits x.cb (x.k0 + ctx.chunk) else 0
    seqAll [
      forEach reads (fun q => dropReq q.id),
      sendPush (millUnit u) x.tile x.ring [data] (plainSide ||| BitVec.ofNat 40 mask) (.mill (cluOf u) c),
      nextSlot u c x]

/-! ## Taking a request (R266) -/

/-- The context binds for MMAP (R268). -/
def bindContext (u : Pos) (c : Nat) (q : MillReq) (tile ring cb : Nat) : Prog :=
  reading (fun s => (walkTile s q.p tile, entryView s q.p q.entry)) fun x =>
    andThen (forSome x.1 fun t => updMill u c fun z => { z with bound := some (q.h, t, ring, cb) })
      (finishOp q.p q.op (outOf (x.2.bind fun v => dstNat v.d0) 0 false false ++
        outOf (x.2.bind fun v => dstNat v.d1) 0 false false))

/-- An expansion begins: the program is read, and the first slot's values are asked for. -/
def beginExpand (r : Region) (u : Pos) (c : Nat) (q : MillReq) : Prog := fun s =>
  match expansionOf s u c q with
  | .error code => failMill r q code s
  | .ok x =>
    let len := ((programOf s r u (handleAt r q.p x.h).pat).map fun y => programLength y.2).getD 0
    seqAll [
      updMill u c (fun z => { z with reqs := [q], busy := true, chunk := 0, slot := 0, values := [] }),
      readSlot u c,
      updMill u c (fun z => { z with due := z.due + len })] s

/-- MILL_REQUEST: the context takes the request and reads its program; what is malformed stops the region. -/
def takeMill (u : Pos) (c : Nat) : Prog :=
  reading (fun s => (s, nextMillReq s u c)) fun x => forSome x.2 fun y =>
    andThen (dropMsg y.1.id) (forSome (regionOf x.1 y.2.p) fun r =>
      match y.2.kind with
      | .row nov => beginWalk r u c y.2 false nov false
      | .col nov => beginWalk r u c y.2 true nov false
      | .count col => beginWalk r u c y.2 col true true
      | .bind tile ring cb => bindContext u c y.2 tile ring cb
      | .expand _ _ _ _ => beginExpand r u c y.2)

/-! ## Coordinates (R267) -/

/-- The head request of a context, when it walks or counts. -/
def walkingAt (s : State) (u : Pos) (c : Nat) : Option MillReq :=
  let ctx := millAt s u c
  if !ctx.busy then none
  else (ctx.reqs.head?).filter fun q => match q.kind with | .expand _ _ _ _ => false | _ => true

def isCount (q : MillReq) : Bool := match q.kind with | .count _ => true | _ => false

/-- The routes of a request's instruction. -/
def reqDest (s : State) (q : MillReq) (one : Bool) : Option Nat :=
  (entryView s q.p q.entry).bind fun v => dstNat (if one then v.d1 else v.d0)

/-- The next coordinate as a token: value index above, the other index below. -/
def coordToken (c : Nat × Nat) : Wide := ofWord (place (c.2 % 2 ^ 32) 32 ||| place (c.1 % 2 ^ 32) 0)

/-- MILL_COORDINATE may be made. -/
def coordEnabled (s : State) (u : Pos) (c : Nat) : Bool :=
  match walkingAt s u c with
  | none => false
  | some q =>
    let ctx := millAt s u c
    !halted s q.p && ctx.due ≤ s.fc && (ctx.coords.isEmpty || isCount q ||
      ((opTag s q.p q.op).isSome && roomFor s q.p (outOf (reqDest s q false) 0 false false)))

/-- The rows to count between a coordinate and the next one of a walk: those between two rows of a column (R269). -/
def rowsBetween (q : MillReq) (y : Nat × Nat) (rest : List (Nat × Nat)) : Nat :=
  match q.kind, rest with
  | .col false, z :: _ => z.1 - y.1
  | _, _ => 0

/-- MILL_COORDINATE: the next coordinate's token, or at the end the count. -/
def sendCoord (u : Pos) (c : Nat) : Prog :=
  reading (fun s => (s, walkingAt s u c)) fun x => forSome x.2 fun q =>
    let s := x.1
    let ctx := millAt s u c
    let finish := fun n =>
      let v := ofWord (nat64 (n % 2 ^ 32))
      andThen (updMill u c fun z => { z with busy := false, reqs := [], coords := [] })
        (finishOp q.p q.op ((if isCount q then outOf (reqDest s q false) v false false else []) ++ outOf (reqDest s q true) v false false))
    if isCount q then finish ctx.coords.length
    else match ctx.coords with
      | [] => finish ctx.done
      | y :: rest => andThen (sendEarly q.p q.op (outOf (reqDest s q false) (coordToken y) false false))
          (andThen (updMill u c fun z => { z with coords := rest, done := z.done + 1, due := s.fc + 1 + rowsBetween q y rest })
            (forSome (regionOf s q.p) fun r => countFor r u false 0x0B))

/-! ## The instructions (R267, R268) -/

/-- A request leaves for the mill. -/
def askMill (o : Ops2) (x : Xs) (opc : Nat) (kind : MillKind) (f : Firing) : Prog := fun s =>
  match (regionOf s f.pos).bind fun r => millContext r f.pos x.uc.toNat with
  | none => failFiring f codeEhandle 0 s
  | some c =>
    issueOp f ⟨opc, o.ta, sideB s f o.sb, some 0, [], 0, .reply, false⟩ (fun k =>
      control f.pos (millUnit f.pos) (.mill ⟨kind, c, x.h.toNat, field (lowWord (sideA s f o.sa)) 31 0, f.pos, f.entry, f.tag, f.tag, k⟩)) s

/-- PRUN: a row, or with BIND a binding, whose tile and ring must exist (R268). -/
def runRow (o : Ops2) (x : Xs) (f : Firing) : Prog := fun s =>
  if x.mode.getLsbD 15 then
    let a := lowWord (sideA s f o.sa)
    match (walkTile s f.pos (field a 4 0)).bind fun t => ringAt s t (field a 11 8) with
    | none => failFiring f codeEhandle 0 s
    | some _ => askMill o x 0xC4 (.bind (field a 4 0) (field a 11 8) (field a 63 32)) f s
  else askMill o x 0xC4 (.row (x.mode.getLsbD 0)) f s

/-- PRUN (R267, R268). -/
def execPrun (o : Ops2) (x : Xs) (s : State) : Host.Outcome State Fault Refusal := onFiring (runRow o x) s
/-- PRUNT (R267). -/
def execPrunt (o : Ops2) (x : Xs) (s : State) : Host.Outcome State Fault Refusal := onFiring (askMill o x 0xC5 (.col (x.mode.getLsbD 0))) s
/-- PCNT (R267). -/
def execPcnt (o : Ops2) (x : Xs) (s : State) : Host.Outcome State Fault Refusal := onFiring (askMill o x 0xC6 (.count (x.mode.getLsbD 0))) s
/-- MILL_REQUEST (R266). -/
def execMillRequest (u : Pos) (c : Nat) (s : State) : Host.Outcome State Fault Refusal :=
  actWhen (millReqEnabled s u c) "MILL_REQUEST" (takeMill u c) s
/-- MILL_COORDINATE (R267). -/
def execMillCoordinate (u : Pos) (c : Nat) (s : State) : Host.Outcome State Fault Refusal :=
  actWhen (coordEnabled s u c) "MILL_COORDINATE" (sendCoord u c) s
/-- MILL_SLOT (R268). -/
def execMillSlot (u : Pos) (c : Nat) (s : State) : Host.Outcome State Fault Refusal :=
  actWhen (slotReady s u c) "MILL_SLOT" (pushSlot u c) s

end Sys2Proof.Machine
end

