-- ==== Sys2Proof/Machine/Summation.lean ====
section
/-! DEFINITION. The chunk summation of the matrix element (spec/05 R137, R138, spec/09 R226, R228): exact products, truncation
below the largest, one rounding, and what special products give. -/

namespace Sys2Proof.Machine

open Sys2Proof

/-- A scale code E8M0: a power of two, or a NaN at 255 (R137, R138). -/
def e8m0 (code : Nat) : Num :=
  if code = 255 then .nan qnan
  else
    let x := scale2 1 1 ((code : Int) - 127)
    .fin false x.1 x.2

/-- Whether a value of a small float format is subnormal in its own format (R130, R137). -/
def fmtSubnormal (f : Fmt) (w : Word) : Bool :=
  match floatShape f with
  | some (eb, mb, _, _) => w.toNat / 2 ^ mb % 2 ^ eb == 0 && w.toNat % 2 ^ mb != 0
  | none => false

/-- The value of an operand of a matrix instruction: DL8 as R123 decodes it, a subnormal as zero with DAZ (R137). -/
def matValue (f : Fmt) (daz : Bool) (w : Word) : Num :=
  if f = .dl8 then fp32Value (dl8ToFp32 (w.extractLsb' 0 8))
  else if daz && fmtSubnormal f w then
    (match fmtValue f w with | .fin neg _ _ => .fin neg 0 1 | x => x)
  else fmtValue f w

def numZero (x : Num) : Bool := match x with | .fin _ n _ => n == 0 | _ => false
def numInf (x : Num) : Bool := match x with | .inf _ => true | _ => false
def numNeg (x : Num) : Bool := match x with | .fin b _ _ => b | .inf b => b | .nan _ => false

/-- A product of two operands and a scale. -/
inductive Prod'
  | fin (neg : Bool) (num den : Nat)
  | inf (neg : Bool)
  | bad
  | nan (signalling : Bool)
  deriving DecidableEq, Repr

/-- The product of two operands and their scale; a NaN scale and ∞ × 0 are `bad` (R138). -/
def prodOf (a b s : Num) : Prod' :=
  if isNan s then .bad
  else if isNan a ∨ isNan b then .nan (isSnan a || isSnan b)
  else if numInf a ∨ numInf b ∨ numInf s then
    if numZero a ∨ numZero b ∨ numZero s then .bad else .inf ((numNeg a != numNeg b) != numNeg s)
  else match a, b, s with
    | .fin x n d, .fin y n' d', .fin z n'' d'' => .fin ((x != y) != z) (n * n' * n'') (d * d' * d'')
    | _, _, _ => .bad

def Prod'.special : Prod' → Bool
  | .fin _ _ _ => false
  | _ => true

/-- special_result of R138: the accumulator that special products leave, and NV. -/
def specialResult (acc : BitVec 32) (ps : List Prod') : BitVec 32 × Flags :=
  let pos := ps.contains (.inf false)
  let neg := ps.contains (.inf true)
  let invalid := ps.contains .bad || (pos && neg) || ps.contains (.nan true)
  let nan := ps.contains (.nan false)
  match fp32Value acc with
  | .nan _ => (acc, flagIf invalid flagNV)
  | x =>
    if invalid then (qnan, flagNV)
    else if nan then (qnan, 0)
    else match x with
      | .inf b => if b = neg then (acc, 0) else (qnan, flagNV)
      | _ => (fp32Inf neg, 0)

/-- An accumulator plus a whole number of units of 2^q: one rounding to nearest, SAT and FTZ (R137, R226). -/
def addExact (acc : BitVec 32) (sum : Int) (q : Int) (sat ftz : Bool) : BitVec 32 × Flags :=
  match fp32Value acc with
  | .fin n a d =>
    let x := scale2 sum.natAbs 1 q
    match exactAdd .rne n a d (sum < 0) x.1 x.2 with
    | .fin neg num den =>
      let r := roundFp32 .rne neg num den
      let b := if sat && r.2.getLsbD 2 then fp32Max neg else r.1
      flushOut ⟨ftz, false, .rne⟩ (b, r.2)
    | _ => (acc, 0)
  | _ => (acc, 0)

/-- The finite products that are not zero. -/
def nonZero (ps : List Prod') : List (Bool × Nat × Nat) :=
  ps.filterMap fun p => match p with | .fin b n d => if n = 0 then none else some (b, n, d) | _ => none

/-- One chunk of R137: the products of the values that take part, W bits below the largest. What the cut of products loses raises NX
alone, UF only what the last rounding loses (assumption 97). -/
def chunkSum (w : Nat) (ps : List Prod') (sat ftz : Bool) (acc : BitVec 32) : BitVec 32 × Flags :=
  if ps.any Prod'.special then specialResult acc ps
  else
    let nz := nonZero ps
    match (nz.map fun p => floorLog2 p.2.1 p.2.2) with
    | [] => (acc, 0)
    | e :: rest =>
      let emax := rest.foldl max e
      let q := emax - (w : Int)
      let cut := nz.map fun p =>
        let x := scale2 p.2.1 p.2.2 (-q)
        (p.1, x.1 / x.2, x.1 % x.2 != 0)
      let sum : Int := cut.foldl (fun (t : Int) p => if p.1 then t - (p.2.1 : Int) else t + (p.2.1 : Int)) 0
      let nx := flagIf (cut.any fun p => p.2.2) flagNX
      if sum = 0 then (acc, nx)
      else
        let r := addExact acc sum q sat ftz
        (r.1, r.2 ||| nx)

/-- The exact sum of R228's adapter pass, with one rounding: no product is cut. -/
def exactSum (ps : List Prod') (sat ftz : Bool) (acc : BitVec 32) : BitVec 32 × Flags :=
  if ps.any Prod'.special then specialResult acc ps
  else
    let total := (nonZero ps).foldl (fun (t : Int × Nat) p =>
      (t.1 * (p.2.2 : Int) + (if p.1 then -1 else 1) * ((p.2.1 * t.2 : Nat) : Int), t.2 * p.2.2)) ((0 : Int), 1)
    if total.1 = 0 then (acc, 0)
    else match fp32Value acc with
      | .fin n a d =>
        (match exactAdd .rne n a d (total.1 < 0) total.1.natAbs total.2 with
          | .fin neg num den =>
            let r := roundFp32 .rne neg num den
            let b := if sat && r.2.getLsbD 2 then fp32Max neg else r.1
            flushOut ⟨ftz, false, .rne⟩ (b, r.2)
          | _ => (acc, 0))
      | _ => (acc, 0)

/-- W of R137 for a pair of formats (R222). -/
def sumBits (fa fb : Fmt) : Nat := if fmtBits fa = 16 ∨ fmtBits fb = 16 then 48 else 40

end Sys2Proof.Machine
end

