-- ==== Sys2Proof/Machine/Matrix.lean ====
section
/-! DEFINITION. The matrix element (spec/09 R217 to R242): the sequencer queue, MLDB, MMA, MMAS, MMAP, MZERO, MOUT, MADJ and MSTAT,
loads, rows, deferral and replay, the adapter pass, commit and abandon, and the adjunct cache of a cluster. -/

namespace Sys2Proof.Machine

open Sys2Proof

/-! ## Instructions and operands (R219, R233) -/

/-- The opcodes of the matrix element. -/
def opMldb : Nat := 0xB8
def opMma : Nat := 0xB9
def opMmas : Nat := 0xBA
def opMmap : Nat := 0xBB
def opMzero : Nat := 0xBC
def opMout : Nat := 0xBD
def opMadj : Nat := 0xBE

/-- MMA, MMAS or MMAP. -/
def MatOp.multiplies (o : MatOp) : Bool := opMma ≤ o.op && o.op ≤ opMmap
/-- An instruction that can be abandoned (R225). -/
def MatOp.abandons (o : MatOp) : Bool := opMldb ≤ o.op && o.op ≤ opMmap
/-- Fields of the control word (R233, R237 to R239). -/
def MatOp.m (o : MatOp) : Nat := field o.a 6 0 + 1
def MatOp.br (o : MatOp) : Bool := o.op == opMma && o.a.getLsbD 24
def MatOp.tb (o : MatOp) : Bool := o.op == opMmap && o.a.getLsbD 24
def MatOp.az (o : MatOp) : Bool := o.op == opMma && o.a.getLsbD 25
def MatOp.bs (o : MatOp) : Bool := o.a.getLsbD 27
def MatOp.asc (o : MatOp) : Bool := o.a.getLsbD 28
def MatOp.kc (o : MatOp) : Nat := if o.br then 1 else field o.a 23 8 + 1
def MatOp.k0 (o : MatOp) : Nat := field o.a 63 32
/-- Row i of the accumulator file that the instruction names (R234). -/
def MatOp.accRow (o : MatOp) (i : Nat) : Nat := (o.x.acc.toNat + i) % 128
/-- Data slots and scale slots of a chunk (R221). -/
def MatOp.dataSlots (o : MatOp) : Nat := if o.x.nm then 96 else 48
def MatOp.scaleSlots (o : MatOp) : Nat := if o.bs then o.dataSlots / 16 else 0
def MatOp.slots (o : MatOp) : Nat := o.dataSlots + o.scaleSlots
/-- Values of an A row (R220). -/
def MatOp.values (o : MatOp) : Nat := packCount (fmtBits o.x.fa)

/-- The instruction at the head of the queue and the attempt in progress. -/
def matRunning (s : State) (p : Pos) : Option (MatOp × MatRun) :=
  let m := matAt s p
  m.run.bind fun r => m.queue.head?.map fun o => (o, r)
def updRun' (p : Pos) (f : MatRun → MatRun) : Prog := updMat p fun m => { m with run := m.run.map f }

/-- The rings of an instruction. -/
def ringA (s : State) (p : Pos) (o : MatOp) : Option Ring := ringAt s p o.x.qa.toNat
def ringB (s : State) (p : Pos) (o : MatOp) : Option Ring := ringAt s p o.x.qb.toNat
def slotWaits (s : State) (r : Option Ring) : Bool := match r with | some g => ringUnread s g == 0 | none => true

/-- A slot that the running instruction is to read holds an error that cannot be corrected (R370): the instruction waits for a slot that
never comes. -/
def badSlot (s : State) (p : Pos) : Bool := (matrixSlot s p).any fun x => slotBad s x.1 x.2

/-- The rings an instruction reads. -/
def MatOp.rings (o : MatOp) : List Nat :=
  if o.op = opMldb then [o.x.qb.toNat]
  else if o.br then [o.x.qa.toNat]
  else if o.multiplies then distinct [o.x.qa.toNat, o.x.qb.toNat]
  else []

/-! ## Firing (R219) -/

/-- An M instruction fires into the sequencer queue, which holds 4. -/
def enterQueue (o : MatOp) (f : Firing) : Prog := fun s =>
  if 4 ≤ (matAt s f.pos).queue.length then holdBack f s
  else seqAll [markFired f, updMat f.pos (fun m => { m with queue := m.queue ++ [o] }), endFiring] s

/-- The queue's entry for a firing. -/
def matOp (opc : Nat) (o : Ops2) (x : Xx) (h1 : Nat) (inv : Bool) (f : Firing) (s : State) : MatOp :=
  { op := opc, entry := f.entry, tag := f.tag, a := lowWord (sideA s f o.sa), b := lowWord (sideB s f o.sb), d0 := dstNat o.d0,
    d1 := dstNat o.d1, x := x, h1 := h1, inv := inv, pipeId := 0, asked := false, redo := false }
def fireMatrix (opc : Nat) (o : Ops2) (x : Xx) (f : Firing) : Prog := fun s => enterQueue (matOp opc o x 0 false f s) f s

/-- An extension with no field set. -/
def Xx.zero : Xx := ⟨0, 0, .fp32, .fp32, 0, false, false, false, false, false⟩

/-- MADJ fires. -/
def fireAdjunct (o : Ops2) (x : Xh) (f : Firing) : Prog := fun s =>
  enterQueue (matOp opMadj o Xx.zero x.h1.toNat (x.f.getLsbD 0) f s) f s

/-- The word that MSTAT reads (R240). -/
def matStatus (m : MatState) (k : Nat) : Word :=
  match k with
  | 0 =>
    let run := m.run.bind fun r => m.queue.head?.map fun o => (o, r)
    (match run with
      | some (o, r) => place o.op 24 ||| place (r.chunk % 256) 16 ||| place (r.chunkDefers % 256) 8
      | none => 0) |||
    place (m.queue.length % 8) 5 ||| placeBit m.rv 4 ||| placeBit m.rnm 3 ||| placeBit m.ctx.isSome 2
  | 1 => m.commits.zeroExtend 64
  | 2 => m.abandons.zeroExtend 64
  | 3 => m.replays.zeroExtend 64
  | 4 => m.hits.zeroExtend 64
  | 5 => m.misses.zeroExtend 64
  | _ => 0

/-- MSTAT: read at firing (R240). -/
def readStatus (o : Ops2) (f : Firing) : Prog := fun s =>
  sendAfter f 0xBF o.ta 0 none
    (bothOuts o.d0 o.d1 (ofWord (matStatus (matAt s f.pos) (field (lowWord (sideA s f o.sa)) 2 0))) false) 0 s

/-! ## Begin (R223, R234 to R239, R241) -/

/-- The instruction is to be abandoned at the sequencer's next point (R225); it makes no request from now on (R10). -/
def stopMatrix (p : Pos) : Prog := updMat p MatState.fail

/-- The instruction fails: the error goes out, unless its region has stopped already, and it is abandoned. -/
def failMatrix (p : Pos) (o : MatOp) (code : Nat) : Prog := fun s =>
  andThen (onlyIf (injects s p) (raiseError p code o.entry o.tag 0)) (stopMatrix p) s

/-- The slot to be read is bad: a record, an abort completion, and the instruction waits to be abandoned (R370). -/
def abortSlot (p : Pos) (o : MatOp) : Prog := fun s =>
  andThen (onlyIf (injects s p) (forSome (matrixSlot s p) fun x => slotAbort p x.1 x.2 o.entry o.tag)) (stopMatrix p) s

/-- A row of a file; one that is not listed is zero. -/
def fileRow (l : List (Nat × List (BitVec 32))) (i : Nat) : List (BitVec 32) := getKey (List.replicate 64 0) i l

/-- The rows that an instruction names, without repeats. -/
def MatOp.rows (o : MatOp) : List Nat := (List.range o.m).map o.accRow

/-- What an attempt starts from (R223). -/
def newRun (phase : MatPhase) (due : Nat) (fpctl : Word) : MatRun :=
  { phase := phase, chunk := 0, row := 0, loaded := 0, deferred := [], adapters := [], replays := 0, chunkDefers := 0, hits := 0,
    misses := 0, due := due, flags := 0, fpctl := fpctl, emptyMask := 0, failed := false }

/-- Slots that an instruction needs of QA and of QB. -/
def MatOp.needA (o : MatOp) : Nat := o.m * o.kc
def MatOp.needB (o : MatOp) : Nat :=
  if o.op = opMldb then o.slots
  else if o.br then 0
  else (if o.op = opMmas then o.m else 1) * o.kc * o.slots
def ringCount (r : Option Ring) : Nat := match r with | some g => g.count | none => 0

/-- The counts of its rings cannot serve an instruction, or the resident half is not what BR asks for (R234, R235, R237). -/
def beginFault (s : State) (p : Pos) (o : MatOp) : Bool :=
  let m := matAt s p
  decide (ringCount (ringB s p o) < o.needB) ||
    (o.multiplies && decide (ringCount (ringA s p o) < o.needA)) ||
    (o.br && (!m.rv || m.rnm != o.x.nm))

/-- The mill context that serves an MMAP: region tile number mod the region's claim in the cluster (R236). -/
def mmapContext (s : State) (p : Pos) : Option Nat :=
  (regionOf s p).bind fun r =>
    let n := r.mills.countP fun m => cluOf m.1 = cluOf p
    if n = 0 then none else millContext r p ((placeInRegion r p).2.1 % n)

/-- MMAP asks the mill for its chunks, once (R236). -/
def askChunks (p : Pos) (o : MatOp) (ctx : Nat) : Prog :=
  onlyIf (!o.asked) (andThen
    (control p (millUnit p) (.mill ⟨.expand o.k0 o.kc o.tb o.bs, ctx, 0, o.x.qb.toNat + 16 * (encodeFmt o.x.fb).toNat, p, o.entry,
      o.tag, o.tag, 0⟩))
    (updMat p fun m => { m with queue := match m.queue with | x :: rest => { x with asked := true } :: rest | [] => [] }))

/-- The begin event of an attempt; that of an MLDB names no rows (R409, assumption 41). -/
def beginEvent (p : Pos) (o : MatOp) : Prog := unitEvent p 0x10 (place (if o.multiplies then o.m else 0) 8 ||| nat64 o.op) o.tag

/-- MMA, MMAS and MMAP begin: the committed rows are copied, with AZ their working adapter rows are zero (R223). -/
def beginRows (p : Pos) (o : MatOp) : Prog := fun s =>
  seqAll [
    updMat p (fun m => { m with
      work := o.rows.map fun i => (i, fileRow m.acc i),
      adWork := if o.az || o.x.ad then o.rows.map fun i => (i, if o.az then List.replicate 64 0 else fileRow m.ad i) else [],
      run := some (newRun (if o.br then .rows else .load) s.fc (fpctlUsed s p)) }),
    beginEvent p o] s

/-- The tokens of a MOUT or of the rows of an EM: four wide ones a row (R238). -/
def rowOuts (o : MatOp) (acc : List (Nat × List (BitVec 32))) : List Out :=
  o.rows.flatMap fun i => (List.range 4).flatMap fun t =>
    outOf o.d0 (ofLanes (((fileRow acc i).drop (16 * t)).take 16)) true false

/-- A value on D0 and D1. -/
def MatOp.both (o : MatOp) (v : Word) : List Out := outOf o.d0 (ofWord v) false false ++ outOf o.d1 (ofWord v) false false

/-- MOUT begins: its tokens leave one in an fc, and m to D1 after them (R238). -/
def beginOut (p : Pos) (o : MatOp) : Prog := fun s =>
  (withId fun k => seqAll [
    updElem p (fun e => { e with
      pipe := e.pipe ++ [{ id := k, op := o.op, entry := o.entry, tag := o.tag, out := .known o.tag,
                           due := some (s.fc + (if o.d0.isSome then 1 else 4 * o.m)),
                           outs := rowOuts o (matAt s p).acc ++ outOf o.d1 (ofWord (nat64 o.m)) false false, flags := 0, rel := false,
                           wait := .none, defer := none, since := s.fc }] }),
    updMat p fun m => { m with
      queue := (match m.queue with | x :: rest => { x with pipeId := k } :: rest | [] => []),
      run := some (newRun .out (s.fc + 4 * o.m) 0) }]) s

/-- SEQUENCER_BEGIN may be made: nothing runs, an instruction waits, and nothing has asked the sequencer to stop. -/
def beginEnabled (s : State) (p : Pos) : Bool :=
  let m := matAt s p
  m.run.isNone && !m.queue.isEmpty && !m.abandon && !halted s p

/-- MLDB begins (R237). One that completes gives no events; the re-execution of one that was abandoned does (R409, assumption 41). -/
def beginLoad (p : Pos) (o : MatOp) : Prog := fun s =>
  andThen (updMat p fun m => { m with run := some (newRun .load s.fc 0) }) (onlyIf o.redo (beginEvent p o)) s

/-- An instruction that can be abandoned begins an attempt. -/
def beginAttempt (p : Pos) (o : MatOp) : Prog := if o.op = opMldb then beginLoad p o else beginRows p o

/-- An error that an instruction meets at its begin: what its rings cannot serve, a resident half that is not what BR asks for, an MMAP
without a mill context (R234 to R237). -/
def beginError (s : State) (p : Pos) (o : MatOp) : Bool :=
  o.abandons && (beginFault s p o || (o.op == opMmap && (mmapContext s p).isNone))

/-- SEQUENCER_BEGIN (R223): the head of the queue begins; one that meets an error there is abandoned at its first point, which is before
its chunk load (R225, R236). -/
def beginMatrix (p : Pos) : Prog := fun s =>
  match (matAt s p).queue with
  | [] => []
  | o :: _ =>
    if beginError s p o then
      andThen (updMat p fun m => { m with run := some (newRun .load s.fc 0) })
        (andThen (onlyIf (o.multiplies || o.redo) (beginEvent p o)) (failMatrix p o codeEhandle)) s
    else if o.abandons then
      andThen (onlyIf (o.op == opMmap) (forSome (mmapContext s p) (askChunks p o))) (beginAttempt p o) s
    else if o.op = opMout then beginOut p o s
    else updMat p (fun m => { m with run := some (newRun .out (s.fc + (if o.op = opMadj ∧ o.inv then 5 else 1)) 0) }) s

/-! ## Loads (R221, R223, R236, R237) -/

/-- Granules of the chunk that hold values: all but those of the mask (R236). -/
def fullGranules (mask n : Nat) : Nat := (List.range n).countP fun g => !mask.testBit g

/-- The fc from a load's start to the moment slot j can be taken, all slots present. -/
def loadTime (o : MatOp) (mask j : Nat) : Nat :=
  let d := min j o.dataSlots
  if o.op = opMmap then
    if mask = 7 then (if j = o.slots then 1 else 0)
    else
      let part := if mask.testBit (d / 16) then 0 else d % 16
      11 * fullGranules mask (d / 16) + 11 * part / 16 + (j - d)
  else 2 * d / 3 + (j - d)

/-- The mask of a chunk's empty granules as its first slot gives it (R236). -/
def chunkMask (o : MatOp) (r : MatRun) (g : Ring) : Nat :=
  if o.op = opMmap then (if r.loaded = 0 then (slotSide g g.rpos).toNat % 8 else r.emptyMask) else 0

/-- The B stage with slot j of a chunk in it: MLDB fills the resident half, an N:M load all of it (R217, R237). -/
def stageSlot (o : MatOp) (j : Nat) (v : Wide) (m : MatState) : MatState :=
  if j < o.dataSlots then
    { m with stage := setKey (if o.op = opMldb ∨ o.x.nm then j else 48 + j) v m.stage,
             rv := m.rv && !(o.x.nm && o.op != opMldb) }
  else if o.op = opMldb then { m with rscales := setKey (j - o.dataSlots) v m.rscales }
  else { m with scales := setKey (j - o.dataSlots) v m.scales }

/-- The phase after a load: rows, or for MLDB the end. -/
def afterLoad (o : MatOp) : MatPhase := if o.op = opMldb then .out else .rows

/-- The sequencer stands at a point where it takes an abandon (R225): at a chunk boundary, or waiting for a row, a slot or a
fill. -/
def atPoint (s : State) (p : Pos) (o : MatOp) (r : MatRun) : Bool :=
  o.abandons && (match r.phase with
    | .load => decide (r.due ≤ s.fc) && (r.loaded == 0 || slotWaits s (ringB s p o) || badSlot s p)
    | .rows => decide (r.due ≤ s.fc) && (slotWaits s (ringA s p o) || badSlot s p)
    | .replay => decide (r.due ≤ s.fc) && ((r.deferred.head?.any fun d => !d.complete o.al) || badSlot s p)
    | .adapters => decide (r.due ≤ s.fc) && r.row == 0
    | .drain => r.due == s.fc + 12
    | .out => false)

/-- An abandon has been asked for and can be taken now. -/
def abandonDue (s : State) (p : Pos) : Bool :=
  match matRunning s p with
  | some (o, r) => (matAt s p).abandon && atPoint s p o r
  | none => false

/-- CHUNK_LOAD may be made: the next slot is present and its time has come. -/
def loadEnabled (s : State) (p : Pos) : Bool :=
  match matRunning s p with
  | some (_, r) => r.phase == .load && slotTurn s p && !abandonDue s p
  | none => false

/-- A data slot's bytes as the stage takes them: those of an empty granule of an MMAP are zeros, whatever the ring holds (R236). -/
def stagedBytes (o : MatOp) (mask j : Nat) (b : List Byte) : Wide :=
  if o.op = opMmap ∧ j < o.dataSlots ∧ mask.testBit (j / 16) then 0 else ofBytes b

/-- CHUNK_LOAD: one slot of the load goes to the stage. -/
def loadSlot (p : Pos) : Prog := fun s =>
  match matRunning s p with
  | none => []
  | some (o, r) =>
    match ringB s p o with
    | none => []
    | some g =>
      let j := r.loaded
      let mask := chunkMask o r g
      let due := r.due.max s.fc + (loadTime o mask (j + 1) - loadTime o mask j)
      let last := j + 1 = o.slots
      if slotBad s g g.rpos then abortSlot p o s
      else seqAll [
        updMat p (stageSlot o j (stagedBytes o mask j (slotBytes s g g.rpos))),
        advanceRdp g.tile g.q,
        updRun' p fun x => { x with
          loaded := if last then 0 else j + 1, emptyMask := mask, due := due,
          row := if o.op = opMmas then x.row else 0,
          phase := if last then afterLoad o else x.phase }] s

/-! ## The adjunct cache (R227 to R231) -/

/-- The fields of a table entry. -/
structure Adapter where
  rank : Nat
  ha : Nat
  hb : Nat
  fmt : Fmt
  scale : BitVec 32
  bcols : Nat
  lstr : Nat
  aoff : Nat
  boff : Nat
  deriving DecidableEq, Repr

/-- A table entry read: none when a reserved field is not 0 or the format is not one of the four (R227, R231). -/
def readAdapter (b : List Byte) : Option Adapter :=
  let w := fun i => lowWord (ofBytes ((b.drop (8 * i)).take 8))
  let f := field (w 0) 35 32
  match decodeFmt? (BitVec.ofNat 4 f) with
  | none => none
  | some fmt =>
    if field (w 0) 61 56 ≠ 0 ∨ field (w 0) 39 36 ≠ 0 ∨ !(fmt == .bf16 || fmt == .fp16 || fmt == .e4m3 || fmt == .e5m2) then none
    else some ⟨8 * 2 ^ field (w 0) 63 62, field (w 0) 55 48, field (w 0) 47 40, fmt, (w 0).extractLsb' 0 32, field (w 1) 63 48,
      field (w 1) 47 0, (w 2).toNat, (w 3).toNat⟩

/-- What a row needs of the cache: which line (0 entry, 1 A slice, 2 B slice), its key, the handle it is read through, the
byte runs (offset, length), and its size in the cache. -/
structure Need' where
  part : Nat
  key : AdjKey
  h : Nat
  runs : List (Nat × Nat)
  size : Nat
  deriving DecidableEq, Repr

def Need'.bytes (n : Need') : Nat := (n.runs.map (·.2)).sum

/-- The need of a table entry, its A slice, its B slice (R227, R228). -/
def entryNeed (h a : Nat) : Need' := ⟨0, .entry a, h, [(32 * a, 32)], 32⟩
def sliceA (e : Adapter) (a layer chunk values : Nat) : Need' :=
  let n := values * e.rank * (fmtBits e.fmt / 8)
  ⟨1, .a a layer chunk, e.ha, [(e.aoff + layer * e.lstr + chunk * n, n)], n⟩
def sliceB (e : Adapter) (a layer cb : Nat) : Need' :=
  let w := fmtBits e.fmt / 8
  let cols := min e.bcols (64 * cb + 64) - 64 * cb
  ⟨2, .b a layer cb, e.hb,
    if cols = 0 then [] else (List.range e.rank).map fun q => (e.boff + layer * e.lstr + (q * e.bcols + 64 * cb) * w, cols * w),
    e.rank * 64 * w⟩

/-- 2 KiB blocks of a cluster's adjunct partition, and of a line (R108, R229). -/
def adjunctBlocks (s : State) (clu : Pos) : Nat := field (csramAt s clu) 12 8 * 512
def blocksFor (n : Nat) : Nat := (n + 2047) / 2048

/-- The region's hbm handle of a number, when it is valid (R231). -/
def hbmHandle (s : State) (p : Pos) (h : Nat) : Option HandleEntry :=
  (regionOf s p).bind fun r =>
    let e := handleAt r p h
    if e.valid ∧ e.level = 2 then some e else none

/-- The virtual address of the adapter table of an element's context. -/
def tableAt (s : State) (p : Pos) : Option (HandleEntry × Nat × Nat × Nat) :=
  (matAt s p).ctx.bind fun c => (hbmHandle s p c.1).map fun e => (e, c)

/-- The line of a cluster's cache that a need finds: tagged with the partition and the table, of the need's length. The spec says nothing
of a line of the same key and another length; it is a miss (DESIGN CHOICE, assumption 109). -/
def lineFor (s : State) (p : Pos) (part table : Nat) (n : Need') : Option AdjLine :=
  s.chip.adjunct.find? fun l => l.die = p.die ∧ l.clu = p.clu ∧ l.part = part ∧ l.table = table ∧ l.key = n.key ∧
    l.bytes.length = n.bytes

/-- A line is used. -/
def touchLine (l : AdjLine) : Prog := fun s =>
  upd (fun c => { c with adjunct := replaceIf (fun x => x == l) (fun x => { x with used := s.fc }) c.adjunct }) s

/-- A fill of a line that can still be shared (R230). -/
def fillFor (s : State) (p : Pos) (part table : Nat) (n : Need') : Option AdjFill :=
  s.chip.fills.find? fun f => f.die = p.die ∧ f.clu = p.clu ∧ f.part = part ∧ f.table = table ∧ f.key = n.key ∧ f.keep

/-- The blocks of 64 bytes in which a need is read. -/
def needBlocks (n : Need') : List (Nat × Nat) :=
  n.runs.flatMap fun x => (List.range ((x.2 + 63) / 64)).map fun i => (x.1 + 64 * i, min 64 (x.2 - 64 * i))

/-- A fill begins: its reads leave for the cluster's port (R230). -/
def startFill (p : Pos) (o : MatOp) (r part table : Nat) (n : Need') (then' : Nat → Prog) : Prog :=
  withId fun k =>
    let blocks := needBlocks n
    seqAll [
      upd (fun c => { c with fills := c.fills ++ [⟨k, p.die, p.clu, part, table, n.key, r, p, o.tag, [], List.range blocks.length, true⟩] }),
      forEach blocks.zipIdx (fun x => issueReq
        { p := p, r := r, entry := o.entry, op := .engRead, client := .fill k x.2, h := n.h, n := 1, lanes := byteLanes x.1.1 x.1.2,
          b := 0, c := 0, idx := 0, scope := .none, str := false, ack := false, tag := o.tag, out := o.tag, t0 := [], t1 := [],
          rel := false }),
      then' k]

/-- The needs of a row with adapter a, as far as they are known: the entry, then its slices, or an error (R228, R231). -/
def rowNeeds (s : State) (p : Pos) (o : MatOp) (chunk a : Nat) (ent : Option (List Byte)) : Option (List Need') :=
  match tableAt s p with
  | none => none
  | some (e, h, layer, cb) =>
    if e.ext / 32 ≤ a ∨ adjunctBlocks s p = 0 then none
    else match ent with
      | none => some [entryNeed h a]
      | some b =>
        match readAdapter b with
        | none => none
        | some x =>
          let ns := sliceA x a layer (o.k0 + chunk) o.values :: (if o.al then [sliceB x a layer cb] else [])
          if (hbmHandle s p x.hb).isSome && ns.all fun n => (hbmHandle s p n.h).any (fun z => n.runs.all fun y => y.1 + y.2 ≤ z.ext) &&
              blocksFor n.size ≤ adjunctBlocks s p then
            some ns
          else none

/-- What a deferred row has of a part of its needs. -/
def DeferRow.put (d : DeferRow) (part : Nat) (b : List Byte) : DeferRow :=
  match part with
  | 0 => { d with ent := some b }
  | 1 => { d with a := some b }
  | _ => { d with b := some b }

/-- Look for lines: what is held is taken and counted as a hit, what is not is asked for and counted as a miss (R230). The
body that follows has the row with what it has and waits for. -/
def lookFor (p : Pos) (o : MatOp) (r part table : Nat) : List Need' → DeferRow → (DeferRow → Prog) → Prog
  | [], d, k => k d
  | n :: rest, d, k => fun s =>
    match lineFor s p part table n with
    | some l => seqAll [touchLine l, updRun' p (fun x => { x with hits := x.hits + 1 }),
        lookFor p o r part table rest (d.put n.part l.bytes) k] s
    | none =>
      if n.runs.isEmpty then lookFor p o r part table rest (d.put n.part []) k s
      else
        andThen (updRun' p fun x => { x with misses := x.misses + 1 })
          (match fillFor s p part table n with
            | some f => lookFor p o r part table rest { d with asks := d.asks ++ [(f.id, n.part)] } k
            | none => startFill p o r part table n fun j =>
                lookFor p o r part table rest { d with asks := d.asks ++ [(j, n.part)] } k) s

/-- Look for all that a row needs: its entry and, once that is known, its slices; an error stops the instruction (R230,
R231). An instruction that has failed asks for nothing more (R10). -/
def seekRow (p : Pos) (o : MatOp) (chunk a : Nat) (d : DeferRow) (k : DeferRow → Prog) : Prog := fun s =>
  if (matAt s p).run.any (·.failed) then k d s
  else match regionOf s p, tableAt s p with
  | some r, some t =>
    let slices := fun (d' : DeferRow) => fun (s' : State) =>
      if d'.looked then k d' s'
      else match d'.ent with
        | none => k d' s'
        | some b => match rowNeeds s' p o chunk a (some b) with
          | none => andThen (failMatrix p o codeEadj) (k { d' with looked := true }) s'
          | some ns => lookFor p o r.id r.part t.1.va ns { d' with looked := true } k s'
    if d.ent.isSome ∨ !d.asks.isEmpty then slices d s
    else match rowNeeds s p o chunk a none with
      | none => andThen (failMatrix p o codeEadj) (k { d with looked := true }) s
      | some ns => lookFor p o r.id r.part t.1.va ns d slices s
  | _, _ => andThen (failMatrix p o codeEadj) (k { d with looked := true }) s

/-! ## Rows (R137, R138, R226, R228) -/

/-- Value k of a run of packed values. -/
def packedAt (b : Nat) (bytes : List Byte) (k : Nat) : Word :=
  if b = 4 then nat64 ((bytes.getD (k / 2) 0).toNat / 16 ^ (k % 2) % 16)
  else if b = 8 then (bytes.getD k 0).zeroExtend 64
  else nat64 ((bytes.getD (2 * k) 0).toNat + 256 * (bytes.getD (2 * k + 1) 0).toNat)

/-- The value of K-row k and column n of a B chunk whose first line is `base` (R221). -/
def stageValue (m : MatState) (base b k n : Nat) : Word :=
  let line := fun j => getKey 0 (base + j) m.stage
  if b = 8 then (byteAt (line k) n).zeroExtend 64
  else if b = 16 then
    let w := line (2 * k + n / 32)
    (w.extractLsb' (16 * (n % 32)) 16).zeroExtend 64
  else
    let w := line (k / 2)
    (w.extractLsb' (256 * (k % 2) + 4 * n) 4).zeroExtend 64

/-- The scale of a product of two granules: codes add, and 255 is a NaN (R137, R138). -/
def scalePair (ca cb : Nat) : Num :=
  if ca = 255 ∨ cb = 255 then .nan qnan
  else
    let x := scale2 1 1 ((ca : Int) + (cb : Int) - 254)
    .fin false x.1 x.2

/-- p_j of R226: bits [2j+1:2j] of the metadata field in bytes 48 to 59. -/
def nmIndex (bytes : List Byte) (j : Nat) : Nat := (bytes.getD (48 + j / 4) 0).toNat / 4 ^ (j % 4) % 4

/-- Some group's two indices are not in rising order (R226). -/
def nmBroken (bytes : List Byte) (values : Nat) : Bool :=
  (List.range (values / 2)).any fun g => nmIndex bytes (2 * g + 1) ≤ nmIndex bytes (2 * g)

/-- A row's values that take part: the value's place, the K-row it meets, its value, the code of its A scale (R137, R226). -/
structure AVal where
  j : Nat
  k : Nat
  v : Num
  sa : Nat
  deriving DecidableEq, Repr

def rowValues (o : MatOp) (daz : Bool) (bytes : List Byte) (side : BitVec 40) : List AVal :=
  let e := o.values
  (List.range e).filterMap fun j =>
    let v := matValue o.x.fa daz (packedAt (fmtBits o.x.fa) bytes j)
    let sa := if o.asc then (side.extractLsb' (16 + 8 * (j / (e / 3))) 8).toNat else 127
    if o.x.zs && numZero v then none
    else some ⟨j, if o.x.nm then 4 * (j / 2) + nmIndex bytes j else j, v, sa⟩

/-- The code of sB for a granule and a column. -/
def scaleB (o : MatOp) (m : MatState) (g n : Nat) : Nat :=
  if o.bs then (byteAt (getKey (ofBytes (List.replicate 64 127)) g (if o.br then m.rscales else m.scales)) n).toNat else 127

/-- One row added to its accumulator row, column by column (R226). -/
def addRow (o : MatOp) (m : MatState) (c : FpCtl) (vals : List AVal) (acc : List (BitVec 32)) : List (BitVec 32 × Flags) :=
  let b := fmtBits o.x.fb
  let base := if o.x.nm || o.br then 0 else 48
  acc.zipIdx.map fun y =>
    chunkSum (sumBits o.x.fa o.x.fb)
      (vals.map fun a => prodOf a.v (matValue o.x.fb c.daz (stageValue m base b a.k y.2))
        (scalePair a.sa (scaleB o m (a.k / (o.values / 3)) y.2))) o.x.sat c.ftz y.1

/-- One row added to its adapter row: x · A_a (R228). -/
def addAdapter (o : MatOp) (c : FpCtl) (e : Adapter) (slice : List Byte) (vals : List AVal) (u : List (BitVec 32)) :
    List (BitVec 32 × Flags) :=
  let b := fmtBits e.fmt
  u.zipIdx.map fun y =>
    if e.rank ≤ y.2 then (y.1, 0)
    else chunkSum (sumBits o.x.fa e.fmt)
      (vals.map fun a => prodOf a.v (matValue e.fmt c.daz (packedAt b slice (a.j * e.rank + y.2))) (scalePair a.sa 127))
      o.x.sat c.ftz y.1

/-- A product of three operands: a signalling NaN among them is a signalling product, ∞ × 0 is bad (R228, R138). -/
def prod3 (a b c : Num) : Prod' :=
  if isNan a ∨ isNan b ∨ isNan c then .nan (isSnan a || isSnan b || isSnan c)
  else prodOf a b c

/-- The adapter pass on one row (R228). -/
def passRow (c : FpCtl) (sat : Bool) (cb : Nat) (e : Adapter) (slice : List Byte) (u acc : List (BitVec 32)) :
    List (BitVec 32 × Flags) :=
  let b := fmtBits e.fmt
  let cols := min e.bcols (64 * cb + 64) - 64 * cb
  acc.zipIdx.map fun y =>
    exactSum ((List.range e.rank).map fun q =>
      let v := if y.2 < cols then matValue e.fmt c.daz (packedAt b slice (q * cols + y.2)) else .fin false 0 1
      prod3 (fp32Value (u.getD q 0)) v (fp32Value e.scale)) sat c.ftz y.1

/-- The flags of a row of results. -/
def rowFlags (l : List (BitVec 32 × Flags)) : Flags := l.foldl (fun f x => f ||| x.2) 0

/-- A row is added to the working files (R226, R228): the accumulator row and, with an adapter, its adapter row. Where the slots of a row
carry other adapters in other chunks, the spec does not say which serves the adapter pass; the last one does (DESIGN CHOICE,
assumption 110). -/
def workRow (p : Pos) (o : MatOp) (i : Nat) (bytes : List Byte) (side : BitVec 40) (d : Option DeferRow) : Prog := fun s =>
  match (matAt s p).run with
  | none => []
  | some r =>
    let m := matAt s p
    let c := fpCtl r.fpctl
    let vals := rowValues o c.daz bytes side
    let k := o.accRow i
    let acc := addRow o m c vals (fileRow m.work k)
    let ent := d.bind fun x => x.ent.bind readAdapter
    let u := match ent, d.bind (·.a) with
      | some e, some sl => addAdapter o c e sl vals (fileRow m.adWork k)
      | _, _ => []
    updMat p (fun m => { m with
      work := setKey k (acc.map (·.1)) m.work,
      adWork := if u.isEmpty then m.adWork else setKey k (u.map (·.1)) m.adWork,
      run := m.run.map fun x => { x with
        flags := x.flags ||| rowFlags acc ||| rowFlags u,
        adapters := (match d with
          | some y => x.adapters.filter (fun z => z.index < i) ++ [⟨i, y.ent.getD [], y.b.getD []⟩] ++
              x.adapters.filter (fun z => i < z.index)
          | none => x.adapters) } }) s

/-- The fc that a row takes (R223). -/
def rowCost (o : MatOp) (daz : Bool) (bytes : List Byte) (side : BitVec 40) (adapter : Bool) : Nat :=
  if (rowValues o daz bytes side).isEmpty then 0 else if adapter then 2 else 1

/-- What follows the last row of a chunk: deferred rows, the next chunk or row, the adapter pass, the drain (R223, R235). -/
def afterRows (o : MatOp) (r : MatRun) : MatRun :=
  let next := o.op = opMmas ∧ r.chunk + 1 < o.kc
  if r.phase = .rows ∧ !r.deferred.isEmpty then { r with phase := .replay }
  else if o.op = opMmas then
    if next then { r with phase := .load, chunk := r.chunk + 1, chunkDefers := 0 }
    else if r.row < o.m then { r with phase := .load, chunk := 0, chunkDefers := 0 }
    else { r with phase := .drain, due := r.due + 12 }
  else if r.chunk + 1 < o.kc then { r with phase := .load, chunk := r.chunk + 1, row := 0, chunkDefers := 0 }
  else if o.al && !r.adapters.isEmpty then { r with phase := .adapters, row := 0 }
  else { r with phase := .drain, due := r.due + 12 }

/-- A chunk of an MMAS is one row (R235); of the others, all of them. -/
def lastRow (o : MatOp) (r : MatRun) : Bool := o.op == opMmas || r.row == o.m

/-- The next row has been dealt with, in some fc. -/
def nextRow (p : Pos) (o : MatOp) (cost : Nat) : Prog := fun s =>
  updRun' p (fun x =>
    let due := x.due.max s.fc + cost
    let y := { x with due := due, row := if o.op = opMmas then (if x.chunk + 1 = o.kc then x.row + 1 else x.row) else x.row + 1 }
    if lastRow o y then afterRows o y else y) s

/-- A row of the ring is consumed and added, deferred, or passed over (R223, R226, R230, R236). -/
def consumeRow (p : Pos) (o : MatOp) (r : MatRun) (g : Ring) : Prog := fun s =>
  let bytes := slotBytes s g g.rpos
  let side := slotSide g g.rpos
  let adapter := if o.x.ad then (side.extractLsb' 0 16).toNat else 0
  let daz := (fpCtl r.fpctl).daz
  let pos := g.rpos
  andThen (advanceRdp g.tile g.q)
    (if o.op = opMmap ∧ r.emptyMask = 7 then nextRow p o 0
     else if o.x.nm && nmBroken bytes o.values then andThen (failMatrix p o codeEmeta) (nextRow p o 1)
     else if adapter = 0 then andThen (workRow p o r.row bytes side none) (nextRow p o (rowCost o daz bytes side false))
     else seekRow p o r.chunk adapter ⟨r.row, pos, none, none, none, [], false, 0⟩ fun d =>
       if d.complete o.al then andThen (workRow p o r.row bytes side (some d)) (nextRow p o (rowCost o daz bytes side true))
       else andThen (updRun' p fun x => { x with deferred := x.deferred ++ [d], chunkDefers := x.chunkDefers + 1 }) (nextRow p o 1)) s

/-- The deferred rows of a chunk have been replayed: the event, and what follows (R409). -/
def endReplay (p : Pos) (o : MatOp) : Prog := fun s =>
  match (matAt s p).run with
  | none => []
  | some x => onlyIf x.deferred.isEmpty (andThen (unitEvent p 0x13 (nat64 x.chunkDefers) o.tag) (updRun' p (afterRows o))) s

/-- The first deferred row is replayed. -/
def replayRow (p : Pos) (o : MatOp) (r : MatRun) (g : Ring) : Prog := fun s =>
  match r.deferred with
  | [] => []
  | d :: _ =>
    let bytes := slotBytes s g d.pos
    let side := slotSide g d.pos
    seqAll [
      workRow p o d.index bytes side (some d),
      updRun' p (fun x => { x with
        deferred := x.deferred.drop 1, replays := x.replays + 1,
        due := x.due.max s.fc + rowCost o (fpCtl r.fpctl).daz bytes side true }),
      endReplay p o] s

/-- MATRIX_ROW may be made: a row is present, or a deferred row has its lines, and the pipeline takes it. -/
def rowEnabled (s : State) (p : Pos) : Bool :=
  match matRunning s p with
  | some (_, r) => (r.phase == .rows || r.phase == .replay) && slotTurn s p && !(badSlot s p && abandonDue s p)
  | none => false

/-- MATRIX_ROW. -/
def matrixRow (p : Pos) : Prog := fun s =>
  match matRunning s p with
  | none => []
  | some (o, r) =>
    match ringA s p o with
    | none => []
    | some g =>
      if badSlot s p then abortSlot p o s
      else if r.phase = .replay then replayRow p o r g s else consumeRow p o r g s

/-! ## Fills (R230, R231) -/

def fillAt (s : State) (k : Nat) : Option AdjFill := s.chip.fills.find? fun f => f.id = k

/-- The request of a part of a fill. -/
def fillReq (s : State) (k part : Nat) : Option MemReq :=
  s.chip.reqs.find? fun q => q.client = .fill k part ∧ !q.dead

/-- A fill has lost a request: its region stops, and no reply comes. -/
def fillBroken (s : State) (f : AdjFill) : Bool := f.left.any fun j => (fillReq s f.id j).isNone

/-- ADJUNCT_FILL may be made: every reply is back, or none can come. -/
def fillEnabled (s : State) (k : Nat) : Bool :=
  match fillAt s k with
  | none => false
  | some f => fillBroken s f || f.left.all fun j =>
      (fillReq s k j).any fun q => match q.doneAt with | some t => t ≤ s.fc | none => false

/-- The bytes of a fill, block after block. -/
def fillBytes (s : State) (k n : Nat) : List Byte :=
  (List.range n).flatMap fun j => match fillReq s k j with
    | some q => bytesOf q.val ((q.parts.map (·.lanes.length)).sum)
    | none => []

/-- Drop least recently used lines of a cluster until n blocks fit (R229). -/
def makeRoom (die clu cap n : Nat) : Nat → List AdjLine → List AdjLine
  | 0, l => l
  | fuel + 1, l =>
    let own := l.filter fun x => x.die = die ∧ x.clu = clu
    if (own.map (·.blocks)).sum + n ≤ cap then l
    else match leastBy (fun x => x.used) own with
      | some y => makeRoom die clu cap n fuel (l.erase y)
      | none => l

/-- The line of a fill enters the cache. -/
def keepLine (f : AdjFill) (bytes : List Byte) : Prog := fun s =>
  let clu := cluster f.die f.clu
  let n := blocksFor bytes.length
  let cap := adjunctBlocks s clu
  onlyIf (f.keep && decide (n ≤ cap)) (upd fun c =>
    let l := c.adjunct.filter fun x => !(x.die = f.die ∧ x.clu = f.clu ∧ x.part = f.part ∧ x.table = f.table ∧ x.key = f.key)
    { c with adjunct := ⟨f.die, f.clu, f.part, f.table, f.key, bytes, n, s.fc⟩ :: makeRoom f.die f.clu cap n l.length l }) s

/-- A deferred row of an element changes. -/
def updDeferred (p : Pos) (i : Nat) (d : DeferRow) : Prog :=
  updRun' p fun x => { x with deferred := replaceIf (fun y => y.index = i) (fun _ => d) x.deferred }

/-- A row that waited for a fill has its line, and goes on to look for its slices; after a broken fill it asks again. -/
def serveRow (p : Pos) (o : MatOp) (chunk k : Nat) (bytes : Option (List Byte)) (adapter : Nat) (d : DeferRow) : Prog :=
  let mine := d.asks.filter fun x => x.1 = k
  let rest := d.asks.filter fun x => x.1 ≠ k
  match bytes with
  | some b =>
    let d' := mine.foldl (fun z x => z.put x.2 b) { d with asks := rest }
    reading (·.fc) fun fc => seekRow p o chunk adapter { d' with seen := fc + 1 } (updDeferred p d.index)
  | none =>
    seekRow p o chunk adapter { d with asks := [], a := none, b := none, looked := false } (updDeferred p d.index)

/-- The adapter number of a deferred row's slot. -/
def deferAdapter (s : State) (p : Pos) (o : MatOp) (d : DeferRow) : Nat :=
  match ringA s p o with
  | some g => ((slotSide g d.pos).extractLsb' 0 16).toNat
  | none => 0

/-- The rows of a cluster's elements that wait for a fill. -/
def waitingRows (s : State) (k : Nat) : List (Pos × MatOp × Nat × Nat × DeferRow) :=
  s.chip.mats.flatMap fun x => match matRunning s x.1 with
    | some (o, r) => (r.deferred.filter fun d => d.asks.any fun y => y.1 = k).map fun d =>
        (x.1, o, r.chunk, deferAdapter s x.1 o d, d)
    | none => []

/-- ADJUNCT_FILL: the line serves every row that waits for it, and is kept unless an INV has met it (R230). -/
def adjunctFill (k : Nat) : Prog := fun s =>
  match fillAt s k with
  | none => []
  | some f =>
    let broken := fillBroken s f
    let bytes := fillBytes s k f.left.length
    seqAll [
      upd (fun c => { c with
        fills := c.fills.filter (fun x => x.id ≠ k),
        reqs := c.reqs.filter fun q => match q.client with | .fill j _ => j ≠ k || q.doneAt.isNone | _ => true }),
      onlyIf (!broken) (keepLine f bytes),
      forEach (waitingRows s k) fun w => onlyIf (!(broken && halted s w.1))
        (serveRow w.1 w.2.1 w.2.2.1 k (if broken then none else some bytes) w.2.2.2.1 w.2.2.2.2)] s

/-! ## The adapter pass (R228) -/

/-- ADAPTER_PASS may be made: a row with an adapter is next. -/
def passEnabled (s : State) (p : Pos) : Bool :=
  match matRunning s p with
  | some (_, r) => r.phase == .adapters && r.due ≤ s.fc && !abandonDue s p
  | none => false

/-- ADAPTER_PASS: one row; after the last, the drain. -/
def adapterPass (p : Pos) : Prog := fun s =>
  match matRunning s p with
  | none => []
  | some (o, r) =>
    let m := matAt s p
    let cb := (m.ctx.map fun c => c.2.2).getD 0
    match r.adapters[r.row]? with
    | none => []
    | some y =>
      let k := o.accRow y.index
      match readAdapter y.ent with
      | none => []
      | some e =>
        let out := passRow (fpCtl r.fpctl) o.x.sat cb e y.b (fileRow m.adWork k) (fileRow m.work k)
        let last := r.row + 1 = r.adapters.length
        let due := r.due.max s.fc + (if e.rank = 64 then 2 else 1)
        updMat p (fun m => { m with
          work := setKey k (out.map (·.1)) m.work,
          run := m.run.map fun x => { x with
            flags := x.flags ||| rowFlags out, row := x.row + 1,
            phase := if last then .drain else .adapters, due := if last then due + 12 else due } }) s

/-! ## Commit (R224, R234, R237 to R241) -/

/-- A file with rows written. -/
def writeRows (l : List (Nat × List (BitVec 32))) (f : List (Nat × List (BitVec 32))) : List (Nat × List (BitVec 32)) :=
  l.foldl (fun g x => setKey x.1 x.2 g) f

/-- The running instruction ends: the queue goes on. -/
def endMatrix (p : Pos) : Prog := updMat p fun m => { m with queue := m.queue.drop 1, run := none, work := [], adWork := [] }

/-- COMMIT may be made: the instruction's time is over; a MOUT has sent its last token. -/
def commitEnabled (s : State) (p : Pos) : Bool :=
  match matRunning s p with
  | some (o, r) => r.due ≤ s.fc && (r.phase == .drain || r.phase == .out) && !abandonDue s p &&
      (o.op != opMout || (opAt s p o.pipeId).isNone)
  | none => false

/-- The value of an MMA's D1 token (R234). -/
def mmaResult (o : MatOp) (r : MatRun) : Word := nat64 (o.m + 65536 * min r.replays 65535)

/-- MMA, MMAS and MMAP commit (R224). -/
def commitRows (p : Pos) (o : MatOp) (r : MatRun) : Prog := fun s =>
  let m := matAt s p
  let acc := writeRows m.work m.acc
  let reg := regionOf s p
  seqAll [
    updMat p (fun m => { m with
      acc := acc, ad := writeRows m.adWork m.ad, commits := m.commits + 1,
      replays := m.replays + BitVec.ofNat 32 r.replays, hits := m.hits + BitVec.ofNat 32 r.hits,
      misses := m.misses + BitVec.ofNat 32 r.misses }),
    (forSome reg fun x => seqAll [
      raiseFlags x.id r.flags,
      countEvent x.part p false 0x02 1, countEvent x.part p false 0x04 r.replays, countEvent x.part p false 0x05 r.hits,
      countEvent x.part p false 0x06 r.misses]),
    forEach o.rings (retireRing (unitOf p)),
    onlyIf (injects s p) (completeOp p o.op o.entry o.tag o.tag false
      ((if o.x.em then rowOuts o acc else []) ++ outOf o.d1 (ofWord (mmaResult o r)) false false)),
    unitEvent p 0x11 (mmaResult o r) o.tag,
    endMatrix p] s

/-- Rows of a file at zero. -/
def zeroRows (rows : List Nat) (f : List (Nat × List (BitVec 32))) : List (Nat × List (BitVec 32)) :=
  f.filter fun x => !rows.contains x.1

/-- An INV: every line of the cluster for the table goes, and fills in flight are not kept (R230, R241). -/
def invalidateTable (p : Pos) (part table : Nat) : Prog := upd fun c =>
  let own := fun (die clu pt tab : Nat) => die == p.die && clu == p.clu && pt == part && tab == table
  { c with
    adjunct := c.adjunct.filter fun l => !own l.die l.clu l.part l.table,
    fills := c.fills.map fun f => if own f.die f.clu f.part f.table then { f with keep := false } else f }

/-- COMMIT: the running instruction takes effect; the tokens of one that ends after its region has stopped are discarded (R225, R361,
R374). -/
def commitMatrix (p : Pos) : Prog := fun s =>
  match matRunning s p with
  | none => []
  | some (o, r) =>
    let send := fun (v : Word) => onlyIf (injects s p) (completeOp p o.op o.entry o.tag o.tag false (o.both v))
    if o.multiplies then commitRows p o r s
    else if o.op = opMldb then
      seqAll [
        updMat p (fun m => { m with rv := true, rnm := o.x.nm, rscales := if o.bs then m.rscales else [] }),
        forEach o.rings (retireRing (unitOf p)),
        send (nat64 o.slots), onlyIf o.redo (unitEvent p 0x11 (nat64 o.slots) o.tag), endMatrix p] s
    else if o.op = opMzero then
      seqAll [
        updMat p (fun m => { m with acc := zeroRows o.rows m.acc, ad := if o.x.ad then zeroRows o.rows m.ad else m.ad }),
        send (nat64 o.m), endMatrix p] s
    else if o.op = opMadj then
      seqAll [
        (forSome (regionOf s p) fun x => onlyIf o.inv (invalidateTable p x.part (handleAt x p o.h1).va)),
        updMat p (fun m => { m with ctx := some (o.h1, field o.a 15 0, field o.b 15 0) }),
        send 0, endMatrix p] s
    else
      andThen (updMat p fun m => { m with acc := if o.a.getLsbD 8 then zeroRows o.rows m.acc else m.acc }) (endMatrix p) s

/-! ## Abandon (R225) -/

/-- ABANDON may be made. -/
def abandonEnabled (s : State) (p : Pos) : Bool := abandonDue s p

/-- An instruction that has been abandoned: an MLDB is marked, for the events of its re-execution (R409, assumption 41). -/
def MatOp.abandoned (o : MatOp) : MatOp := { o with redo := o.redo || o.op == opMldb }

/-- ABANDON: the working rows are discarded, the rings rewound, and the instruction stays at the head of the queue. The begin event of an MLDB's
first attempt goes with its abandon event (R409, assumption 41). -/
def abandonMatrix (p : Pos) : Prog := fun s =>
  match matRunning s p with
  | none => []
  | some (o, r) =>
    seqAll [
      updMat p (fun m => { m with
        run := none, work := [], adWork := [], abandons := m.abandons + 1, rv := m.rv && o.op != opMldb,
        queue := o.abandoned :: m.queue.drop 1 }),
      forEach o.rings (rewindRing (unitOf p)),
      (forSome (regionOf s p) fun x => countEvent x.part p false 0x03 1),
      onlyIf (!o.multiplies && !o.redo) (beginEvent p o),
      unitEvent p 0x12 (nat64 r.chunk) o.tag] s

/-! ## The instructions and steps -/

/-- MLDB (R237). -/
def execMldb (o : Ops2) (x : Xx) (s : State) : Host.Outcome State Fault Refusal := onFiring (fireMatrix 0xB8 o x) s
/-- MMA (R234). -/
def execMma (o : Ops2) (x : Xx) (s : State) : Host.Outcome State Fault Refusal := onFiring (fireMatrix 0xB9 o x) s
/-- MMAS (R235). -/
def execMmas (o : Ops2) (x : Xx) (s : State) : Host.Outcome State Fault Refusal := onFiring (fireMatrix 0xBA o x) s
/-- MMAP (R236). -/
def execMmap (o : Ops2) (x : Xx) (s : State) : Host.Outcome State Fault Refusal := onFiring (fireMatrix 0xBB o x) s
/-- MZERO (R239). -/
def execMzero (o : Ops2) (x : Xx) (s : State) : Host.Outcome State Fault Refusal := onFiring (fireMatrix 0xBC o x) s
/-- MOUT (R238). -/
def execMout (o : Ops2) (x : Xx) (s : State) : Host.Outcome State Fault Refusal := onFiring (fireMatrix 0xBD o x) s
/-- MADJ (R241). -/
def execMadj (o : Ops2) (x : Xh) (s : State) : Host.Outcome State Fault Refusal := onFiring (fireAdjunct o x) s
/-- MSTAT (R240). -/
def execMstat (o : Ops2) (_x : Xx) (s : State) : Host.Outcome State Fault Refusal := onFiring (readStatus o) s
/-- SEQUENCER_BEGIN (R223). -/
def execSequencerBegin (p : Pos) (s : State) : Host.Outcome State Fault Refusal :=
  actWhen (beginEnabled s p) "SEQUENCER_BEGIN" (beginMatrix p) s
/-- CHUNK_LOAD (R223). -/
def execChunkLoad (p : Pos) (s : State) : Host.Outcome State Fault Refusal :=
  actWhen (loadEnabled s p) "CHUNK_LOAD" (loadSlot p) s
/-- MATRIX_ROW (R226). -/
def execMatrixRow (p : Pos) (s : State) : Host.Outcome State Fault Refusal :=
  actWhen (rowEnabled s p) "MATRIX_ROW" (matrixRow p) s
/-- ADJUNCT_FILL (R230). -/
def execAdjunctFill (k : Nat) (s : State) : Host.Outcome State Fault Refusal :=
  actWhen (fillEnabled s k) "ADJUNCT_FILL" (adjunctFill k) s
/-- ADAPTER_PASS (R228). -/
def execAdapterPass (p : Pos) (s : State) : Host.Outcome State Fault Refusal :=
  actWhen (passEnabled s p) "ADAPTER_PASS" (adapterPass p) s
/-- COMMIT (R224). -/
def execCommit (p : Pos) (s : State) : Host.Outcome State Fault Refusal :=
  actWhen (commitEnabled s p) "COMMIT" (commitMatrix p) s
/-- ABANDON (R225). -/
def execAbandon (p : Pos) (s : State) : Host.Outcome State Fault Refusal :=
  actWhen (abandonEnabled s p) "ABANDON" (abandonMatrix p) s

end Sys2Proof.Machine
end

