-- ==== Sys2Proof/Machine/Flow.lean ====
section
/-! DEFINITION. The way of results and messages (spec/01 R22 to R29, spec/06 R143 to R145, spec/11 R272, spec/16 R391): a firing's
completion, a token's injection, the hops of a message across the mesh, its retry on a link, and the end of a request
that delivers no token. -/

namespace Sys2Proof.Machine

open Sys2Proof

/-! ## Completion of firings (R143, R144) -/

/-- What a pending operation can do now. -/
inductive OpStep | wait | send | hold | park | fenced
  deriving DecidableEq, Repr

/-- Every request of a FENCE has been performed at its scope (R301, R311). -/
def fenceOver (s : State) (x : PipeOp) : Bool :=
  match x.wait with
  | .fence reqs sc => reqs.all fun q => performedAt s q.1 sc
  | _ => false

/-- The next step of a pending operation: to send, to become a held result while its tag is not free (R79), to become one
parked at a YIELD (R94), or to go on after a FENCE. -/
def opStep (s : State) (p : Pos) (x : PipeOp) : OpStep :=
  if canSend s p x then .send
  else if !opDue s x then .wait
  else if x.wait == .none && x.out == .waits && (tagNow x).isNone && heldNeed s p x != .wait then .hold
  else if x.wait == .yielding && heldNeed s p x != .wait then .park
  else if fenceOver s x then .fenced
  else .wait

/-- PIPELINE_COMPLETION may be made. -/
def completionEnabled (s : State) (p : Pos) (k : Nat) : Bool :=
  match opAt s p k with
  | some x => opStep s p x != .wait
  | none => false

/-- What a memory opcode does at its node. -/
def memoryOp (op : Nat) : ROp :=
  match op with
  | 0x90 => .load false
  | 0x91 => .store
  | 0x92 => .load true
  | 0x93 => .store
  | 0x94 => .gather
  | 0x95 => .scatter
  | 0x96 => .atomic .add
  | 0x97 => .atomic .fadd
  | 0x98 => .atomic .min
  | 0x99 => .atomic .max
  | 0x9A => .atomic .xchg
  | 0x9B => .atomic .cas
  | 0x9C => .atomic .and
  | _ => .atomic .or

/-- The access of a memory instruction whose firing holds the values of its sides. -/
def deferredAccess (v : View) : Option Access :=
  match v.ext with
  | .xm x => some ⟨v.op, memoryOp v.op, v.ta, .t, .t, .t, v.d0, v.d1, x⟩
  | _ => none

/-- The request of a memory instruction leaves with the outgoing tag it waited for (R70, R271). -/
def sendRequest (p : Pos) (x : PipeOp) (f : Firing) (out : Tag) : Prog :=
  seqAll [
    dropOp p x.id,
    reading (fun s => (s, (entryView s p x.entry).bind deferredAccess)) fun y => forSome y.2 fun a =>
      issueReq (requestOf y.1 f a out (some x.id))]

/-- The next value of a stream leaves; the last one ends the operation (R224, R238, R252). -/
def sendNext (p : Pos) (x : PipeOp) (out : Tag) : Prog := fun s =>
  if x.outs.length ≤ 1 then sendOp p x out s
  else andThen (placeOuts p out x.sends)
    (updOp p x.id fun y => { y with outs := y.outs.drop 1, due := some (s.fc + 1) }) s

/-- PIPELINE_COMPLETION. -/
def completion (p : Pos) (k : Nat) : Prog := fun s =>
  match opAt s p k with
  | none => []
  | some x =>
    match opStep s p x with
    | .wait => []
    | .send =>
      if x.bad then resultMismatch p x s
      else match x.defer with
      | some f => sendRequest p x f ((tagNow x).getD noTag) s
      | none => if x.streams then sendNext p x ((tagNow x).getD noTag) s else sendOp p x ((tagNow x).getD noTag) s
    | .hold => holdOp p x .held s
    | .park => holdOp p x .yielded s
    | .fenced => updOp p k (fun y => { y with wait := .none }) s

/-! ## Injection (R144, R245) -/

/-- A token in an element's output buffer may leave: it is in the buffer of 8, which empties in order toward each element (R29, R144), one token per
fc between two elements (R425, assumption 28). It has had its credit since it entered the buffer (R245). -/
def tokenInjects (s : State) (p : Pos) (k : Nat) : Bool :=
  let l := (elemAt s p).out.take 8
  match l.find? fun m => m.id = k with
  | none => false
  | some m => injects s p && m.due ≤ s.fc && l.all fun x => !(x.dst == m.dst && x.net == m.net && x.id < m.id)

/-- A request's message may leave the outgoing buffer of its unit (R22); a stopped element's too (R278, R353). -/
def requestInjects (s : State) (p : Pos) (k : Nat) : Bool :=
  match msgAt s k with
  | some m => m.src == p && sendable s m
  | none => false

/-- TOKEN_INJECT may be made, for a token or for the message of a request. -/
def injectEnabled (s : State) (p : Pos) (k : Nat) : Bool := tokenInjects s p k || requestInjects s p k

/-- TOKEN_INJECT: the token leaves the output buffer for its switch, the message of a request its unit's outgoing buffer. -/
def inject (p : Pos) (k : Nat) : Prog :=
  reading (fun s => (s, (elemAt s p).out.find? fun m => m.id = k, (msgAt s k).filter (unsent s))) fun x => andThen (forSome x.2.2 sendMessage) <| forSome x.2.1 fun m =>
    andThen (updElem p fun e => { e with out := (e.out.filter fun y => y.id ≠ k).map fun y =>
        if y.dst = m.dst then { y with due := x.1.fc + 1 } else y })
      (upd fun c => { c with net := c.net ++ [{ m with due := x.1.fc }] })

/-! ## Hops (R24 to R28) -/

/-- FLIT_HOP may be made: the message has reached a switch that is not its destination's. -/
def hopEnabled (s : State) (k : Nat) : Bool :=
  match msgAt s k with
  | some m => m.due ≤ s.fc && (m.col, m.row) != switchOf m.dst && !unsent s m
  | none => false

/-- The tile whose switch stands at a module column and row (R28). -/
def switchTile (c r : Nat) : Pos := tileAt (c / 32 + 2 * (r / 20)) (c % 32) (r % 20)

/-- Another message stands ready at the same switch: the links are shared (R25). -/
def crowded (s : State) (m : Msg) : Bool :=
  s.chip.net.any fun x => x.id != m.id && x.col == m.col && x.row == m.row && x.due ≤ s.fc && (x.col, x.row) != switchOf x.dst &&
    !unsent s x

/-- The region a message belongs to: that of its receiver, or of its sender. -/
def regionOfMsg (s : State) (m : Msg) : Option Region := (regionOf s m.dst).orElse fun _ => regionOf s m.src

/-- The message stands at the next switch after the step's cost (R26), and its region is active (R363). -/
def moveOn (m : Msg) (extra : Nat) : Prog := fun s =>
  let d := switchOf m.dst
  let n := nextSwitch m.col m.row d.1 d.2
  let cost := hopCost m.col m.row n.1 n.2
  let a := (switchTile m.col m.row).die
  let b := (switchTile n.1 n.2).die
  seqAll [
    updMsg m.id (fun x => { x with col := n.1, row := n.2, due := s.fc + cost + extra, link := if a = b then none else some 0 }),
    forSome (regionOfMsg s m) fun r => seqAll [
      updRegion r.id (fun x => { x with active := true }),
      countLinks r.part a b (1 + m.more.length)]] s

/-- FLIT_HOP: the next switch checks the RID and the KIND on entry (R24, R25); a message that fails is discarded and reported.
A crowded switch adds a free delay (assumption 5). -/
def hop (k : Nat) : Prog :=
  reading (fun s => (s, msgAt s k)) fun x => forSome x.2 fun m =>
    let d := switchOf m.dst
    let n := nextSwitch m.col m.row d.1 d.2
    if !ridOk m.hdr || decide (5 ≤ kindOf m.hdr) then seqAll [
      forSome (requestIn x.1 m) (fun q => andThen (killReq q.id) (dropReq q.id)),
      replyLost m,
      reportMismatch m 3 (switchTile n.1 n.2)]
    else if crowded x.1 m then withFree fun i => moveOn m (Config.delay i)
    else moveOn m 0

/-- FLIT_RETRY may be made: the flit is crossing a link between dies, and arrives at most 64 fc late in all (R391). -/
def retryFlitEnabled (s : State) (k late : Nat) : Bool :=
  match msgAt s k with
  | some m => decide (s.fc < m.due) && (match m.link with
      | some n => decide (n + late ≤ 64)
      | none => false)
  | none => false

/-- FLIT_RETRY. -/
def retryFlit (k late : Nat) : Prog := updMsg k fun m => { m with due := m.due + late, link := m.link.map (· + late) }

/-! ## Internal completions (R65, R70, R272) -/

/-- The request that a message ends. -/
def doneOf (s : State) (k : Nat) : Option MemReq :=
  match msgAt s k with
  | some m => match m.body with
    | .done q => reqAt s q
    | _ => none
  | none => none

/-- INTERNAL_COMPLETION may be made; a walk takes its reply when it can go on. -/
def doneEnabled (s : State) (k : Nat) : Bool :=
  delivered s k (fun b => match b with | .done _ => true | _ => false) &&
    (match doneOf s k with
      | some q => match q.client with
        | .walk p op => q.dead || walkMay s p op
        | _ => true
      | none => true)

/-- What the end of a request brings about for the one it served. -/
def requestEnds (q : MemReq) : Prog :=
  if q.dead then dropReq q.id
  else match q.client with
    | .instr =>
      seqAll [
        raiseFlags q.r q.flags,
        memoutDown q,
        onlyIf q.rel (releaseTag q.p q.tag),
        dropReq q.id]
    | .condw p op => fun s => andThen (dropReq q.id) (updOp p op fun y => { y with wait := .none, due := some s.fc }) s
    | .eng p k u =>
      if q.op = .engWrite then andThen (dropReq q.id) (updEng p k fun e => { e with open' := e.open'.filter fun j => j ≠ u })
      else fun s => updReq q.id (fun y => { y with doneAt := some s.fc }) s
    | .fill _ _ => fun s => updReq q.id (fun y => { y with doneAt := some s.fc }) s
    | .mill _ _ => fun s => updReq q.id (fun y => { y with doneAt := some s.fc }) s
    | .walk p op => andThen (dropReq q.id) (walkReply p op q)
    | _ => dropReq q.id

/-- INTERNAL_COMPLETION: the message reaches no instruction; the request is no longer outstanding. -/
def requestDone (k : Nat) : Prog :=
  reading (fun s => doneOf s k) fun q => andThen (dropMsg k) (forSome q requestEnds)

/-! ## The steps -/

/-- PIPELINE_COMPLETION (R144). -/
def execPipelineCompletion (p : Pos) (k : Nat) (s : State) : Host.Outcome State Fault Refusal :=
  actWhen (completionEnabled s p k) "PIPELINE_COMPLETION" (completion p k) s
/-- TOKEN_INJECT (R144). -/
def execTokenInject (p : Pos) (m : Nat) (s : State) : Host.Outcome State Fault Refusal :=
  actWhen (injectEnabled s p m) "TOKEN_INJECT" (inject p m) s
/-- FLIT_HOP (R24). -/
def execFlitHop (m : Nat) (s : State) : Host.Outcome State Fault Refusal := actWhen (hopEnabled s m) "FLIT_HOP" (hop m) s
/-- FLIT_RETRY (R391). -/
def execFlitRetry (m late : Nat) (s : State) : Host.Outcome State Fault Refusal :=
  actWhen (retryFlitEnabled s m late) "FLIT_RETRY" (retryFlit m late) s
/-- INTERNAL_COMPLETION (R272). -/
def execInternalCompletion (m : Nat) (s : State) : Host.Outcome State Fault Refusal :=
  actWhen (doneEnabled s m) "INTERNAL_COMPLETION" (requestDone m) s

end Sys2Proof.Machine
end

