-- ==== Sys2Proof/Machine/Pool.lean ====
section
/-! DEFINITION. What the graph engines share (spec/13 R318 to R333, spec/01 R11 to R18, R32 to R34, spec/03 R67, spec/04 R96 to R98,
R109, R110, spec/08 R188, spec/15 R376): their reads and writes of a partition's memory, the order of the ready pool, where an
instance fits, claiming and releasing a region, and the life of a node of a run. -/

namespace Sys2Proof.Machine

open Sys2Proof

/-! ## Runs and nodes (R320, R325 to R330) -/

/-- The node record of a node of a run's graph. -/
def nodeRec (s : State) (run n : Nat) : Option NodeRec :=
  (runAt s run).bind fun r => (graphAt s r.graph).bind fun g => g.nodes[n]?

/-- A node of a run. -/
def nodeRun (s : State) (run n : Nat) : Option NodeRun := (runAt s run).bind fun r => r.nodes.find? fun x => x.n = n

/-- Change a node of a run. -/
def updNode (run n : Nat) (f : NodeRun → NodeRun) : Prog :=
  updRun run fun r => { r with nodes := replaceIf (fun x => x.n = n) f r.nodes }

/-- The home die of a node (R318). -/
def homeDie (n : Nat) : Nat := n % 4

/-- A node's run has it as the body of a while node (R330). -/
def isBody (s : State) (run n : Nat) : Bool :=
  match (runAt s run).bind fun r => graphAt s r.graph with
  | some g => g.bodies.contains n
  | none => false

/-- Whether a node of a run has ended (R325). -/
def NodeState.over : NodeState → Bool
  | .complete => true
  | .skipped => true
  | .failed => true
  | .abandoned => true
  | _ => false

/-- The dependence successors of a node. -/
def succsOf (s : State) (run n : Nat) : List Nat := ((nodeRec s run n).map (·.succ)).getD []

/-- Nodes reached from some through dependence edges. -/
def reachable (s : State) (run : Nat) : Nat → List Nat → List Nat
  | 0, seen => seen
  | fuel + 1, seen =>
    let more := (distinct (seen.flatMap (succsOf s run))).filter fun x => !seen.contains x
    if more.isEmpty then seen else reachable s run fuel (seen ++ more)

/-- A decrement for each dependence successor goes to its home (R326, R327). -/
def sendDecrements (run n : Nat) : Prog := fun s =>
  forEach (succsOf s run n) (fun m => control (dieUnit (homeDie n)) (dieUnit (homeDie m)) (.decrement run m)) s

/-- A node is skipped (R328, R329); its successors are decremented, and its own error target is skipped with it. -/
def skipFrom (run : Nat) : Nat → Nat → Prog
  | 0, _ => skip
  | fuel + 1, n => fun s =>
    match nodeRun s run n with
    | none => []
    | some x =>
      if x.st.over then []
      else seqAll [
        updNode run n (fun y => { y with st := .skipped }),
        sendDecrements run n,
        forSome ((nodeRec s run n).bind (·.errn)) (skipFrom run fuel)] s

/-- The error target of a node that does not fail is skipped (R328). -/
def skipTarget (run n : Nat) : Prog := fun s =>
  forSome ((nodeRec s run n).bind (·.errn)) (skipFrom run 4096) s

/-- A node is complete: its successors are decremented, its error target is skipped (R327, R328). -/
def completeNode (run n : Nat) : Prog :=
  seqAll [updNode run n (fun y => { y with st := .complete }), sendDecrements run n, skipTarget run n]

/-- The level of a node in a run (R320, R323). -/
def levelOf (r : Run) (rec' : NodeRec) : Nat := r.prio.getD rec'.prio

/-- First index of a die's share of a vector (R12). -/
def shareBase (vec : List Nat) (d : Nat) : Nat := (vec.take d).sum

/-- Enter a node's shares at a level into the pools of the dies that its vector names (R326); a node without instances is
complete at once. -/
def enterShares (run n level : Nat) : Prog := fun s =>
  match nodeRun s run n with
  | some y =>
    let dies := (List.range 4).filter fun d => y.vec.getD d 0 != 0
    if dies.isEmpty then completeNode run n s
    else
      seqAll [
        updNode run n (fun z => { z with st := .running, left := dies, failed := false, code := 0, errWord := 0 }),
        forEach dies fun d => withId fun k => upd fun c => { c with shares := c.shares ++
          [{ id := k, die := d, run := run, node := n, next := shareBase y.vec d, stop := shareBase y.vec d + y.vec.getD d 0,
             entered := s.t18, level := level, aged := 0, live := 0, failed := false, noFit := none, again := [],
             saved := [] }] }] s
  | none => []

/-- A node has become ready (R326, R329): one marked to be skipped completes without an instance. -/
def readyNode (run n : Nat) : Prog := fun s =>
  match runAt s run, nodeRun s run n, nodeRec s run n with
  | some r, some y, some x =>
    if y.skip then skipFrom run 4096 n s
    else match x.kind with
      | .kernel _ => enterShares run n (levelOf r x) s
      | _ => updNode run n (fun z => { z with st := .ready }) s
  | _, _, _ => []

/-- The end of a run's first failure is what its completion word tells (R325). -/
def noteFailure (run n code : Nat) (w : Word) : Prog :=
  updRun run fun r => if r.fnode.isSome then r else { r with fnode := some n, code := code, errWord := w }

/-- A node fails (R328): what depends on it is abandoned, its error target becomes ready. `who` is the node the completion
word names. -/
def failNode (run n who code : Nat) (w : Word) : Prog := fun s =>
  let below := (reachable s run 4096 (succsOf s run n)).filter fun m => match nodeRun s run m with
    | some y => y.st == .waiting || y.st == .ready
    | none => false
  seqAll [
    noteFailure run who code w,
    updNode run n (fun y => { y with st := .failed, failed := true, code := code, errWord := w }),
    forEach below (fun m => updNode run m fun y => { y with st := .abandoned }),
    forEach below (skipTarget run),
    forSome ((nodeRec s run n).bind (·.errn)) (readyNode run)] s

/-! ## Shares (R327, R328, R331) -/

def shareAt (s : State) (k : Nat) : Option Share := s.chip.shares.find? fun x => x.id = k
def updShare (k : Nat) (f : Share → Share) : Prog :=
  upd fun c => { c with shares := replaceIf (fun x => x.id = k) f c.shares }

/-- A share can dispatch another instance. -/
def Share.open' (x : Share) : Bool := !x.failed && (x.next < x.stop || !x.again.isEmpty)

/-- The next index of a share: the lowest of those a pre-empted install gave back, else the next. -/
def Share.index (x : Share) : Nat := (leastBy (fun n => n) x.again).getD x.next

/-- Effective level (R331). -/
def Share.effective (x : Share) : Nat := if 10 ≤ x.level then x.level else min 10 (x.level + x.aged)

/-- The order of the ready pool (R331), as one number. -/
def poolKey (s : State) (x : Share) : Nat :=
  let dist := ((nodeRec s x.run x.node).map (·.dist)).getD 0
  ((((12 - x.effective) * 2 ^ 32 + (2 ^ 32 - 1 - dist)) * 2 ^ 96 + x.entered) * 2 ^ 32 + x.run) * 2 ^ 16 + x.node

/-- The shares of a die that have something to place, in the pool's order. -/
def pool (s : State) (d : Nat) : List Share :=
  sortBy (poolKey s) (s.chip.shares.filter fun x => x.die = d ∧ (x.open' ∨ !x.saved.isEmpty))

/-- A reservation stands while its share has something to place (R333). -/
def keepReserves : Prog :=
  upd fun c => { c with reserves := c.reserves.filter fun z => c.shares.any fun x => x.id = z.share ∧ (x.open' ∨ !x.saved.isEmpty) }

/-- Shares that have nothing more to run report to the node's home and are gone (R327), their reservations with them (R333). -/
def reportShares (run n : Nat) : Prog := fun s =>
  let done := s.chip.shares.filter fun x => x.run = run ∧ x.node = n ∧ x.live = 0 ∧ !x.open'
  seqAll [
    upd (fun c => { c with shares := c.shares.filter fun x => !(done.any fun y => y.id = x.id) }),
    keepReserves,
    forEach done fun x => control (dieUnit x.die) (dieUnit (homeDie n)) (.shareEnd run n x.die x.failed)] s

/-- An instance of a node has failed: no die dispatches another (R328); the first failure is the node's. -/
def failShares (run n code : Nat) (w : Word) : Prog :=
  andThen (upd fun c => { c with shares := c.shares.map fun x => if x.run = run ∧ x.node = n then { x with failed := true } else x }) <|
  andThen keepReserves
    (updNode run n fun y => if y.failed then y else { y with failed := true, code := code, errWord := w })

/-- The share of a region. -/
def shareOfRegion (s : State) (r : Region) : Option Share :=
  s.chip.shares.find? fun x => x.run = r.run ∧ x.node = r.node ∧ x.die = r.shDie

/-- An instance has ended, well or with a code (R327, R328). -/
def endInstance (r : Region) (code : Nat) (w : Word) : Prog :=
  onlyIf (!r.kiln) (seqAll [
    (fun s => forSome (shareOfRegion s r) (fun x => updShare x.id fun y => { y with live := y.live - 1 }) s),
    onlyIf (code != 0) (failShares r.run r.node code w),
    reportShares r.run r.node])

/-! ## Where an instance fits (R13 to R16, R332, R376, R381, R397) -/

/-- The tile may be used by a partition at all: in the logical tile map, in its groups, in service. -/
def tileUsable (s : State) (part : Nat) (p : Pos) : Bool :=
  !s.gone.contains p && ((partOfCluster s p).map fun x => x.setup.part) == some part &&
    (s.chip.power.full || (p.die == 0 && p.clu < 4))

/-- The tile is free for an instance: held by no region, powered, and not reserved for another share (R333, R394). -/
def tileFree (s : State) (part : Nat) (shut : List Pos) (p : Pos) : Bool :=
  tileUsable s part p && (unitAt s p).region.isNone && !s.chip.power.gated.contains (cluOf p) && !shut.contains p

/-- Upper-left places of a rectangle on a die: ascending row, then column (R332). -/
def origins (q : Rect) : List Rect :=
  (List.range (21 - q.h)).flatMap fun r => (List.range (33 - q.w)).map fun c => ⟨c, r, q.w, q.h⟩

/-- The first place of a rectangle on a die at which every tile passes (R332). -/
def firstPlace (die : Nat) (q : Rect) (ok : Pos → Bool) : Option Rect := (origins q).find? fun z => (rectTiles die z).all ok

/-- The rectangles of an image on the dies of its slots. -/
def placeShape (home : Nat) (im : Image) (ok : Pos → Bool) : Option (List (Nat × Rect)) :=
  im.shape.zipIdx.mapM fun x => (firstPlace (slotDie home x.2) x.1 ok).map fun z => (slotDie home x.2, z)

/-- The image's shape fits on some die with every usable tile free (R328). -/
def placeable (s : State) (part : Nat) (im : Image) : Bool :=
  (List.range 4).any fun d => (placeShape d im (tileUsable s part)).isSome

/-- Tiles reserved for shares other than one (R333). -/
def shutFor (s : State) (share : Nat) : List Pos :=
  s.chip.reserves.flatMap fun x => if x.share = share then [] else x.rects.flatMap fun y => rectTiles y.1 y.2

/-- Units and mill contexts reserved for shares other than one (R333). -/
def shutUnits (s : State) (share : Nat) : List Pos := s.chip.reserves.flatMap fun x => if x.share = share then [] else x.units
def shutMills (s : State) (share : Nat) : List (Pos × Nat) :=
  s.chip.reserves.flatMap fun x => if x.share = share then [] else x.mills

/-- The access processors a placement claims. -/
def claimedAps (im : Image) (rects : List (Nat × Rect)) : List Pos := (unitsOf im rects).filter fun p => 32 ≤ p.unit

/-- Mill contexts of a cluster that no region holds and no reservation keeps from a share (R333). -/
def freeContexts (s : State) (share : Nat) (c : Pos) : List Nat :=
  (List.range 4).filter fun k => !(s.chip.regions.any fun r => r.mills.any fun m => cluOf m.1 = c ∧ m.2 = k) &&
    !((shutMills s share).any fun m => cluOf m.1 = c ∧ m.2 = k)

/-- The mill contexts a placement takes: the lowest free ones of each cluster. -/
def takeContexts (s : State) (share : Nat) (im : Image) (rects : List (Nat × Rect)) : Option (List (Pos × Nat)) :=
  ((touched rects).mapM fun c =>
    let n := claimIn im.mill rects c
    let l := (freeContexts s share c).take n
    if l.length = n then some (l.map fun k => (millUnit c, k)) else none).map List.flatten

/-- Contexts in which an image's configurations are checked at a placement. -/
def loadCtxs (im : Image) (rects : List (Nat × Rect)) : List LoadCtx := im.configs.map fun cf => ⟨im, cf, rects⟩

/-- Frames of each declaration in each cluster: the largest of any configuration (R67, R96). -/
def quotasFor (im : Image) (rects : List (Nat × Rect)) : List FrameQuota :=
  let xs := loadCtxs im rects
  (touched rects).flatMap fun c =>
    (List.range 63).filterMap fun d =>
      let f := xs.foldl (fun m x =>
        match x.cf.frames[d]? with
        | some y => if (allocClusters x d).contains c then max m y.max else m
        | none => m) 0
      if f = 0 then none else some ⟨c.die, c.clu, d, f, 0⟩

/-- Frame indices of a cluster that no region has reserved. -/
def freeFrames (s : State) (c : Pos) : List Nat :=
  (List.range 1024).map (mkFrame c.die c.clu) |>.filter fun f => !(s.chip.regions.any fun r => r.reserved.contains f) && !frameBusy s f

/-- Frames a cluster must have free for a placement: the quotas and, in the home cluster, the root frame. -/
def framesIn (quotas : List FrameQuota) (homeClu c : Pos) : Nat :=
  ((quotas.filter fun q => q.die = c.die ∧ q.clu = c.clu).map (·.max)).sum + (if c = homeClu then 1 else 0)

/-- The lowest free frames that a placement takes, cluster by cluster (R67). -/
def takeFrames (s : State) (quotas : List FrameQuota) (homeClu : Pos) (clus : List Pos) : Option (List Nat) :=
  (clus.mapM fun c =>
    let n := framesIn quotas homeClu c
    let l := (freeFrames s c).take n
    if l.length = n then some l else none).map List.flatten

/-- The cellar grant of a placement by cluster: for each element the largest share of any configuration (R81, R96). -/
def grantFor (im : Image) (rects : List (Nat × Rect)) : List (Pos × Nat) :=
  let xs := loadCtxs im rects
  let all := xs.flatMap fun x => x.cf.elems.map fun e => (x.posOf e, shareOf x e)
  (touched rects).map fun c =>
    (c, ((distinct (all.map (·.1))).filter fun p => cluOf p = c).foldl (fun n p =>
      n + (all.filter fun y => y.1 = p).foldl (fun m y => max m y.2) 0) 0)

/-- Every cluster's cellar holds the grants of its regions and of a placement. -/
def grantsFit (s : State) (g : List (Pos × Nat)) : Bool :=
  g.all fun x => (s.chip.regions.map fun r => getKey 0 x.1 r.grant).sum + x.2 ≤ cellarSlots s x.1

/-- The barriers an image names: level, place and number (R334). -/
def barsNamed (im : Image) (rects : List (Nat × Rect)) : List (BarLevel × Nat × Nat × Nat) :=
  distinct ((loadCtxs im rects).flatMap fun x => x.cf.elems.flatMap fun e => (bodiesOf e).filterMap fun y =>
    match y.1.ext with
    | .xbar b => if b.lvl = .package then none
        else some (b.lvl, (barrierHome b.lvl (x.posOf e)).1, (barrierHome b.lvl (x.posOf e)).2, b.bno.toNat)
    | _ => none)

/-- Barriers a unit of a level holds. -/
def barsOf : BarLevel → Nat
  | .cluster => 64
  | .die => 32
  | .package => 16

/-- A physical barrier for each barrier named: the lowest that no region and no earlier name has. -/
def takeBars (s : State) : List (BarLevel × Nat × Nat × Nat) → List (BarLevel × Nat × Nat × Nat × Nat) →
    Option (List (BarLevel × Nat × Nat × Nat × Nat))
  | [], done => some done
  | b :: rest, done =>
    let used := fun (k : Nat) => (done ++ s.chip.regions.flatMap (·.barMap)).any fun y =>
      y.1 = b.1 ∧ y.2.1 = b.2.1 ∧ y.2.2.1 = b.2.2.1 ∧ y.2.2.2.2 = k
    match (List.range (barsOf b.1)).find? fun k => !used k with
    | some k => takeBars s rest (done ++ [(b.1, b.2.1, b.2.2.1, b.2.2.2, k)])
    | none => none

/-- Pattern-table entries of a cluster that no region holds (R259). -/
def freePatterns (s : State) (c : Pos) : List Nat :=
  (List.range 32).filter fun k => !((getKey [] c s.chip.patterns).any fun x => x.1 = k)

/-- The entries a placement takes for the image's programs, in each cluster where it claims a mill context. -/
def takePatterns (s : State) (im : Image) (rects : List (Nat × Rect)) : Option (List (Nat × Pos × Nat)) :=
  (((touched rects).filter fun c => claimIn im.mill rects c != 0).mapM fun c =>
    let l := (freePatterns s c).take im.patterns.length
    if l.length = im.patterns.length then some ((im.patterns.zip l).map fun x => (x.1.1, c, x.2)) else none).map List.flatten

/-! ## Handles at dispatch (R188, R190, R192) -/

/-- The tiles that hold a spad declaration. -/
def declTiles (rects : List (Nat × Rect)) (d : HandleDecl) : List Pos :=
  match d.tile with
  | some n => ((locPos rects ⟨0, false, n, 0, 0⟩).map fun p => [p]).getD []
  | none => tilesOf rects

/-- The clusters that hold a clu declaration. -/
def declClusters (rects : List (Nat × Rect)) (d : HandleDecl) : List Pos :=
  match d.tile with
  | some n => ((locPos rects ⟨0, false, n, 0, 0⟩).map fun p => [cluOf p]).getD []
  | none => touched rects

/-- The home an entry names: none when replicated or hbm (R187). -/
def declHome (rects : List (Nat × Rect)) (d : HandleDecl) : Pos :=
  match d.tile, d.level with
  | some _, .spad => (declTiles rects d).headD ⟨0, 0, 0, 0⟩
  | some _, .clu => (declClusters rects d).headD ⟨0, 0, 0, 0⟩
  | _, _ => ⟨0, 0, 0, 0⟩

/-- The entry of a declaration allocated at dispatch, when there is room; `base` is the parameter word of an hbm handle. -/
def declEntry (s : State) (r : Region) (d : HandleDecl) (base : Word) : Option HandleEntry :=
  let size := declSize d
  let w0 := handleW0 true (levelNum d.level) (kindNum d.kind) (encodeFmt d.fmt).toNat false (d.level != .hbm && d.tile.isNone) r.part
    (declHome r.rects d) d.rows d.cols
  match d.level with
  | .spad =>
    let j := bankLog size d.banks
    (findBanks ((declTiles r.rects d).map (spadHolders s)) j).map fun b =>
      ⟨w0, place b 0 ||| place j 8, nat64 (2 ^ j * 2048), declW3 d⟩
  | .clu => (findBlock s (declClusters r.rects d) (cluBlock size)).map fun b => ⟨w0, nat64 b, nat64 (cluBlock size), declW3 d⟩
  | .hbm => some ⟨w0, place (field base 56 0) 0, nat64 size, declW3 d⟩

/-- A state with a region's entry in place of what it has under that number. -/
def withRegion (s : State) (r : Region) : State :=
  { s with chip := { s.chip with regions := r :: s.chip.regions.filter fun x => x.id ≠ r.id } }

/-- Allocate declarations one after another (R188). -/
def placeHandles (s : State) (word : Nat → Word) : List HandleDecl → Region → Option Region
  | [], r => some r
  | d :: rest, r =>
    if d.dyn then placeHandles s word rest r
    else match declEntry (withRegion s r) r d (word (d.base.getD 0)) with
      | some e => placeHandles s word rest { r with handles := r.handles ++ [(d.num, e)] }
      | none => none

/-- The words of its parameter block that an image's instance needs: of its hbm handles and its `.param` entries (R32, R188). -/
def paramWords (im : Image) : List Nat :=
  distinct (((imageHandles im).filterMap fun d => if d.level = .hbm ∧ !d.dyn then some (d.base.getD 0) else none) ++
    im.configs.flatMap fun cf => cf.elems.flatMap fun e => e.params.map (·.2))

/-- The parameter words that the graph engine has read for a share's next instance; one that cannot be read is a free value (assumption 4). -/
def fetchedParams (s : State) (share : Nat) (im : Image) : List (Nat × Word) :=
  (paramWords im).zipIdx.map fun w =>
    (w.1, ((fetchFor s (.params share)).bind fun x => x.word w.2 0).getD (lowWord (Config.word (s.free + w.2))))

/-- Word w of a region's parameter block, as it was read for its dispatch. -/
def Region.paramWord (r : Region) (w : Nat) : Word := getKey 0 w r.params

/-! ## A region to be claimed -/

/-- A region before anything of it has a value: what dispatch gives it (R345 to R349). -/
def blankRegion (id part : Nat) (im : Image) (va : Nat) (rects : List (Nat × Rect)) : Region :=
  { id := id, part := part, run := 0, graph := 0, node := 0, index := 0, share := 0, shDie := 0, home := (rects.headD (0, ⟨0, 0, 0, 0⟩)).1,
    level := 0, priv := im.sig == some true, kiln := false, image := im, imageVa := va, param := 0, rects := rects,
    units := unitsOf im rects, mills := [], phase := .ended, rootFrame := none, rootFreed := false,
    homeClu := cluOf ((tilesOf rects).headD ⟨0, 0, 0, 0⟩), reserved := [], quotas := quotasFor im rects, grant := grantFor im rects,
    acfg := 0, slotMap := [], handles := [], stale := [], hwait := [], barMap := [], patMap := [], rgns := [], ssn := 0, res := 0, rbk := 0,
    rflags := 0, chkaddr := 0, chkBy := (0, 0), ordpos := 0, fpctl := 0, fpStale := [], fpOld := [], fpWrites := [], fpflags := 0, fpNew := 0,
    rfNew := 0, yr := false, rem := 0, yrFor := none, rcyc := 0, nr := false, rollbacks := 0, windowHits := [], error := none,
    more := 0, errTime := 0, wdog := 0, active := false, switch := none, switchWait := [], dispatched := 0, reason := none, kept := [] }

/-- The number a region gets in each of its clusters (R65): the lowest of 0 to 63 that no region there has, saved instances included
while that leaves one (assumption 84). -/
def regionNumbers (s : State) (rects : List (Nat × Rect)) : List (Pos × Nat) :=
  (touched rects).map fun c =>
    let taken := fun (l : List Region) => l.filterMap fun r => lookupKey c r.rgns
    let active := taken s.chip.regions
    let all := active ++ taken (s.chip.saved.map (·.region))
    let lowest := fun (l : List Nat) => (List.range 64).find? fun k => !l.contains k
    (c, ((lowest all).orElse fun _ => lowest active).getD 0)

/-- A region at a placement with everything it takes, when all of it is free (R332). What is taken makes dispatch wait; an
install that the loader's checks refuse at that placement does not wait for it (R438). -/
def claimAt (s : State) (im : Image) (r : Region) : Option Region :=
  let word := r.paramWord
  if (claimedAps im r.rects).any fun p => (unitAt s p).region.isSome || (shutUnits s r.share).contains (unitOf p) then none
  else
    (takeContexts s r.share im r.rects).bind fun mills =>
    let all := if !grantsFit s r.grant then none else
      (takeFrames s r.quotas r.homeClu (touched r.rects)).bind fun frames =>
      (takeBars s (barsNamed im r.rects) []).bind fun bars =>
      (takePatterns s im r.rects).bind fun pats =>
      placeHandles s word (imageHandles im) { r with
        mills := mills, reserved := frames, barMap := bars, patMap := pats, rgns := regionNumbers s r.rects }
    match all with
    | some x => some x
    | none => if (installFault s im r.rects).isSome then some { r with mills := mills } else none

/-- The region of a share's next instance at a placement, when all it needs beside the tiles is free (R332). -/
def claimShare (s : State) (x : Share) (run : Run) (n : NodeRec) (im : Image) (rects : List (Nat × Rect)) (id : Nat) : Option Region :=
  claimAt s im { blankRegion id run.part im n.image rects with
    run := x.run, graph := run.graph, node := x.node, index := x.index, share := x.id, shDie := x.die, level := x.level,
    param := run.param, params := fetchedParams s x.id im }

/-- The region of a share's next instance, when it fits (R332). -/
def fitShare (s : State) (x : Share) (id : Nat) : Option Region :=
  (runAt s x.run).bind fun run => (nodeRec s x.run x.node).bind fun n =>
  (s.chip.images.find? fun z => z.1 = run.part ∧ z.2.1 = n.image).bind fun z =>
  (placeShape x.die z.2.2 (tileFree s run.part (shutFor s x.id))).bind fun rects =>
  claimShare s x run n z.2.2 rects id

/-! ## Slots (R97, R98) -/

/-- The tables a configuration gives a unit, as installed (R17, R97, R100). -/
def unitTables (im : Image) (rects : List (Nat × Rect)) (cf : ConfigImage) (u : Pos) : List ElemTables :=
  cf.elems.filterMap fun e => match locPos rects e.loc with
    | some p => if unitOf p = u then some { codeTables e with elem := p.elem, routes := e.routes.map (installedRoute im rects) } else none
    | none => none

/-- Two elements' tables are the same code. -/
def sameTables (a b : ElemTables) : Bool :=
  a.elem == b.elem && a.words == b.words && a.bodies == b.bodies && a.entries == b.entries && a.routes == b.routes &&
    a.side0 == b.side0 && a.filled == b.filled && a.live == b.live && a.vcs == b.vcs

/-- A slot of a unit that holds a RESIDENT copy of a configuration, installed for the same places (R98, R438). -/
def residentSlot (s : State) (r : Region) (cfg : Nat) (u : Pos) : Option Nat :=
  let want := ((r.image.configs[cfg]?).map fun cf => unitTables r.image r.rects cf u).getD []
  (List.range 4).find? fun k =>
    let c := (unitAt s u).slot k
    c.st == .resident && c.key == some (r.part, r.imageVa, cfg) && c.tables.length == want.length &&
      want.all fun t => c.tables.any fun t' => sameTables t t'

/-- Every unit of the region holds a RESIDENT copy of a configuration. -/
def isResident (s : State) (r : Region) (cfg : Nat) : Bool := r.units.all fun u => (residentSlot s r cfg u).isSome

/-- The slot a configuration is installed into: an EMPTY one, else the least recently used RESIDENT one, of those not taken
by the region's other configurations (R98). A slot is used until its region leaves its unit; of slots left in one fc the lowest number is
taken (DESIGN CHOICE, assumption 98). -/
def slotToFill (u : UnitState) (taken : List Nat) : Nat :=
  let free := (List.range 4).filter fun k => !taken.contains k
  match free.find? fun k => (u.slot k).st = .empty with
  | some k => k
  | none => (leastBy (fun k => (u.slot k).used) (free.filter fun k => (u.slot k).st = .resident)).getD 0

/-- Choose slots for the configurations of a region on one unit: configuration, slot, whether it is reused. -/
def chooseSlots (s : State) (r : Region) (u : Pos) : List (Nat × Nat × Bool) :=
  let cfgs := List.range r.image.configs.length
  let kept := (cfgs.filter (isResident s r)).filterMap fun c => (residentSlot s r c u).map fun k => (c, k, true)
  (cfgs.filter fun c => !isResident s r c).foldl (fun l c => l ++ [(c, slotToFill (unitAt s u) (l.map fun y => y.2.1), false)]) kept

/-- A unit's slots as a dispatch leaves them: reused ones PINNED with their side tables as installed, the others LOADING. -/
def claimSlots (r : Region) (l : List (Nat × Nat × Bool)) (fc : Nat) (powered : List Nat) (u : UnitState) : UnitState :=
  let v := l.foldl (fun (v : UnitState) y => v.setSlot y.2.1 fun c =>
    if y.2.2 then { c with st := .pinned, used := fc, written := false, tables := c.tables.map fun t => { t with side := t.side0 } }
    else { st := .loading, key := some (r.part, r.imageVa, y.1), tables := [], written := false, used := fc }) u
  { v with region := some r.id, powered := powered, active := ((l.find? fun y => y.1 = 0).map fun y => y.2.1).getD 0 }

/-- The elements of a unit that some configuration of an image uses (R109). -/
def usedElems (im : Image) (rects : List (Nat × Rect)) (u : Pos) : List Nat :=
  distinct ((im.configs.flatMap (·.elems)).filterMap fun e => match locPos rects e.loc with
    | some p => if unitOf p = u then some p.elem else none
    | none => none)

/-- The wake time of a region in 1/18 ns: 1 µs for a whole gated unit, 0.4 µs for gated elements of a powered one (R110). -/
def wakeTime (s : State) (r : Region) : Nat :=
  r.units.foldl (fun n u =>
    let on := (unitAt s u).powered
    let need := usedElems r.image r.rects u
    max n (if on.isEmpty then 18000 else if need.all on.contains then 0 else 7200)) 0

/-! ## Claiming and releasing (R32, R34, R67, R98, R109, R188, R259, R334) -/

/-- A declaration's `.data` bytes go into every place its storage has (R188, R196). -/
def writeData (r : Region) (d : HandleDecl) (e : HandleEntry) (zero : Bool) : Prog :=
  match d.level with
  | .spad => forEach (declTiles r.rects d) fun t => seqAll [
      (if zero then zeroStorage .spad (tileNo t * spadBytes + e.firstBank * 2048) e.ext r.part
       else tagSpad (tileNo t * spadBytes + e.firstBank * 2048) e.ext none false),
      forEach d.data fun x => onlyIf (x.1 < e.ext) (writeSpad r.part (spadAddr e t x.1) [x.2])]
  | .clu => forEach (declClusters r.rects d) fun c => seqAll [
      onlyIf zero (zeroStorage .clu (sramAddr e c 0) e.ext r.part),
      forEach d.data fun x => onlyIf (x.1 < e.ext) (writeSram r.part (sramAddr e c x.1) [x.2])]
  | .hbm => skip

/-- The storage of every handle allocated at dispatch is prepared. -/
def prepareHandles (r : Region) (zero : Bool) : Prog :=
  forEach r.handles fun h => forSome (declOf r h.1) fun d => onlyIf (!d.dyn) (writeData r d h.2 zero)

/-- The ring slots a configuration binds on the region's tiles (R198). -/
def ringsOf (r : Region) (cf : ConfigImage) : List Ring :=
  cf.rings.filterMap fun g => (locPos r.rects ⟨g.slot, false, g.tile, 0, 0⟩).map fun p =>
    { tile := p, q := g.q, handle := g.handle, size := g.size, count := g.count, head := 0, rdp := 0, tail := 0, hpos := 0, rpos := 0,
      tpos := 0, side := [] }

/-- The rings of a region: those of all its configurations, each tile and number once. -/
def regionRings (r : Region) : List Ring :=
  (r.image.configs.flatMap (ringsOf r)).foldl (fun l g => if l.any fun y => y.tile = g.tile ∧ y.q = g.q then l else l ++ [g]) []

/-- The pattern programs of a region enter its table entries (R259). -/
def loadPatterns (r : Region) : Prog :=
  forEach r.patMap fun x => upd fun c => { c with patterns := modKey [] x.2.1 (fun l =>
    (x.2.2, r.id, ((r.image.patterns.find? fun y => y.1 = x.1).map (·.2)).getD []) :: l.filter fun y => y.1 ≠ x.2.2) c.patterns }

/-- A private barrier starts with every field 0 (R334). -/
def clearBars (r : Region) : Prog :=
  upd fun c => { c with barriers := c.barriers.filter fun b =>
    !(r.barMap.any fun y => b.at y.1 (y.2.1, y.2.2.1) y.2.2.2.2) }

/-- A region takes its units and everything else it claims; its install begins (R32, R110). -/
def claimRegion (r : Region) : Prog := fun s =>
  let choice := r.units.map fun u => (u, chooseSlots s r u)
  let missing := (List.range r.image.configs.length).filter fun c => !isResident s r c
  let phase : Phase := match missing with
    | [] => .rooting (s.fc + 1)
    | _ => .waking (s.t18 + wakeTime s r)
  let r' : Region := { r with
    phase := phase, slotMap := choice.flatMap fun x => x.2.map fun y => (x.1, y.1, y.2.1) }
  seqAll [
    upd (fun c => { c with regions := c.regions ++ [r'], rings := c.rings ++ regionRings r' }),
    forEach choice (fun x => updUnit x.1 (claimSlots r x.2 s.fc (usedElems r.image r.rects x.1))),
    clearBars r', prepareHandles r' false, loadPatterns r'] s

/-- A unit as a region leaves it (R98, R109). -/
def UnitState.release (fc : Nat) (u : UnitState) : UnitState :=
  { u with region := none, powered := [], slots := u.slots.map fun c => match c.st with
      | .pinned => if c.written then CfgSlot.reset else { c with st := .resident, used := fc }
      | .loading => CfgSlot.reset
      | _ => c }

/-- A region gives back everything it holds (R34, R361). Launches that it has issued stay in the launch output until they are taken. -/
def releaseRegion (k : Nat) : Prog :=
  reading (fun s => (s, regionAt s k)) fun x => forSome x.2 fun r => seqAll [
    stopTraffic k,
    forEach r.reserved (fun f => updFrame f .reset),
    forEach r.units (fun u => updUnit u (UnitState.release x.1.fc)),
    clearBars r,
    upd fun c => { c with
      qs := c.qs.filterMap fun y => if r.holds y.1 then (if y.2.launches.isEmpty then none else some (y.1, { QState.reset with launches := y.2.launches })) else some y,
      mats := c.mats.filter fun y => !r.holds y.1,
      rings := c.rings.filter fun g => !r.holds g.tile,
      patterns := c.patterns.map fun y => (y.1, y.2.filter fun z => z.2.1 ≠ k),
      regions := c.regions.filter fun y => y.id ≠ k }]

/-- The slots under load on a region's units become EMPTY (R111). -/
def emptyLoading (u : UnitState) : UnitState :=
  { u with slots := u.slots.map fun c => if c.st = .loading then CfgSlot.reset else c }

end Sys2Proof.Machine
end

