-- ==== Sys2Proof/Machine/Graph.lean ====
section
/-! DEFINITION. The graph engine (spec/13 R318 to R333, R338, R339, spec/01 R32 to R34, spec/04 R110, R111, spec/15 R374): launches and
runs, counters, dispatch and install, completion, condition and while nodes, aging and reservations; LAUNCH and CONDW. -/

namespace Sys2Proof.Machine

open Sys2Proof

/-! ## Launch queues (R324, R338, R384) -/

/-- Launches that wait in a die's launch queue. -/
def launchesOf (s : State) (d : Nat) : List LaunchEntry := s.chip.launchQ.filter fun x => x.die = d

/-- Completion slots of a Q element that are taken: by a run, or by a launch in its die's queue (R338). -/
def slotsBound (s : State) (p : Pos) : Nat :=
  (qAt s p).bound.length + s.chip.launchQ.countP fun x => match x.req with
    | some q => q.p == p && some q.r == (unitAt s p).region && !q.t1.isEmpty
    | none => false

/-- A region that has not stopped: one that has needs no completion slot, as what would come to it is discarded (R361). -/
def lives (s : State) (k : Nat) : Bool := (regionAt s k).any fun r => r.phase != .stopping && r.phase != .ended

/-- The first request of a Q element's launch output leaves for the die's queue while there is room and a slot. -/
def drainOutput (p : Pos) : Nat → Prog
  | 0 => skip
  | fuel + 1 => fun s =>
    match (qAt s p).launches with
    | [] => []
    | q :: rest =>
      if 64 ≤ (launchesOf s p.die).length ∨ (!q.t1.isEmpty ∧ 8 ≤ slotsBound s p ∧ lives s q.r) then []
      else seqAll [
        updQ p (fun y => { y with launches := rest }),
        upd (fun c => { c with launchQ := c.launchQ ++ [⟨p.die, q.part, q.va, .elem p q.r q.tag q.out q.t1 q.rel, q.priv, some q⟩] }),
        drainOutput p fuel] s

/-- A partition's number for a function; the physical function has none (R381). -/
def partOfFn (fn : Nat) : Nat := if fn = 0 then 8 else fn - 1

/-- A PSETUP of a partition is in progress (R382). -/
def settingUp (s : State) (part : Nat) : Bool :=
  match (fnAt s 0).pcwork with
  | some (.setup a _) => a.part == part
  | _ => false

/-- The first launch of a function's doorbell FIFO leaves for the die it names while there is room there, and no setup of its
partition in progress (R382, R384). -/
def drainFifo (fn : Nat) : Nat → Prog
  | 0 => skip
  | fuel + 1 => fun s =>
    match (fnAt s fn).fifo with
    | [] => []
    | x :: rest =>
      if 64 ≤ (launchesOf s x.1).length ∨ settingUp s (partOfFn fn) then []
      else seqAll [
        updFn fn (fun y => { y with fifo := rest }),
        upd (fun c => { c with launchQ := c.launchQ ++ [⟨x.1, partOfFn fn, x.2, .host fn, fn == 0, none⟩] }),
        drainFifo fn fuel] s

/-- Launches move on into the die queues as far as there is room. -/
def drainLaunches : Prog := fun s =>
  andThen (forEach (sortBy posKey (s.chip.qs.map (·.1))) fun p => drainOutput p 4)
    (forEach (List.range 9) fun fn => drainFifo fn 64) s

/-- LAUNCH (R338): the packet's offset must be aligned and within the extent; a full launch output holds the firing back. The acceptance
word is awaited when D0 is used or not: the operation ends with it. -/
def launch (o : Ops2) (x : Xh) (f : Firing) : Prog := fun s =>
  let off := (lowWord (sideA s f o.sa)).toNat
  match regionOf s f.pos with
  | none => endFiring s
  | some r =>
    let e := handleAt r f.pos x.h1.toNat
    if !e.valid then failFiring f codeEhandle 0 s
    else if off % 64 != 0 || e.ext ≤ off then failFiring f codeEprot 0 s
    else if 4 ≤ (qAt s f.pos).launches.length then holdBack f s
    else
      let t1 := routesOf (tablesAt s f.pos) (dstNat o.d1)
      let out := match outTag o.ta (sideB s f o.sb) f.tag with
        | .known t => t
        | _ => f.tag
      andThen
        (issueOp f ⟨0xAB, o.ta, sideB s f o.sb, some 0, outOf (dstNat o.d0) 0 false false, 0, .reply, false⟩ fun k => andThen
          (updQ f.pos fun q => { q with launches := q.launches ++
            [⟨r.part, e.va + off, f.entry, f.tag, out, t1, o.ta == .free && !t1.isEmpty, r.priv, r.id, f.pos, k, false⟩] })
          (onlyIf (!t1.isEmpty) (updOp f.pos k fun y => { y with rel := false })))
        drainLaunches s

/-- PLAUNCH (R384): the write enters the function's FIFO, or is dropped and counted. -/
def plaunch (fn : Nat) (w : Word) : Prog := fun s =>
  if 64 ≤ (fnAt s fn).fifo.length ∨ field w 61 57 ≠ 0 ∨ field w 5 0 ≠ 0 then
    updFn fn (fun y => { y with plDrop := min 255 (y.plDrop + 1) }) s
  else
    andThen (updFn fn fun y => { y with fifo := y.fifo ++ [(field w 63 62, field w 56 0)] }) drainLaunches s

/-- PLSTAT as it reads (R384). -/
def plstat (f : Fn) : Word := (f.plstat &&& ~~~(place 0xFF 8)) ||| place f.plDrop 8

/-! ## Taking a launch (R323, R324) -/

/-- The eight words of the packet at the head of a die's queue as its engine has read it, when all could be read; the physical function's
packet stands in physical memory (R383). -/
def packetWords (s : State) (d : Nat) : Option (List Word) :=
  (fetchFor s (.packet d)).bind fun x => (List.range 8).mapM fun i => x.word 0 i

/-- The graph a packet names, when it belongs to the partition. -/
def packetGraph (s : State) (l : LaunchEntry) (ws : List Word) : Option Graph :=
  (graphAt s (field (ws.getD 0 0) 63 56)).filter fun g => g.part = l.part

/-- The partition vector of a packet. -/
def packetVec (ws : List Word) : List Nat :=
  [field (ws.getD 1 0) 63 32, field (ws.getD 1 0) 31 0, field (ws.getD 2 0) 63 32, field (ws.getD 2 0) 31 0]

/-- The PRIO of a packet, when it names a level. -/
def packetPrio (ws : List Word) : Option Nat :=
  let p := field (ws.getD 0 0) 55 52
  if p = 15 then none else some p

/-- STATUS of a packet (R324): an unreadable packet first, then the codes in ascending order. -/
def packetStatus (s : State) (l : LaunchEntry) (words : Option (List Word)) : Nat :=
  match words with
  | none => 6
  | some ws =>
    let w0 := ws.getD 0 0
    match packetGraph s l ws with
    | none => 1
    | some g =>
      let n := field w0 47 32
      let prio := packetPrio ws
      let entryPrio := prio.getD (((g.nodes[n]?).map (·.prio)).getD 0)
      if g.nodes.length ≤ n ∨ g.bodies.contains n then 2
      else if field w0 31 0 ≠ 0 ∧ (packetVec ws).sum ≠ field w0 31 0 then 3
      else if (prio.any fun p => 12 ≤ p) || (prio == some 11 && !l.priv) || (!s.chip.power.full && entryPrio == 11) then 4
      else if field w0 51 50 ≠ 0 ∨ field w0 48 48 ≠ 0 ∨ field (ws.getD 3 0) 63 57 ≠ 0 ∨ ws.getD 5 0 ≠ 0 ∨ ws.getD 6 0 ≠ 0 ∨
          ws.getD 7 0 ≠ 0 then 5
      else 0

/-- Nodes reached from some through dependence and error edges (R323). -/
def runNodes (g : Graph) : Nat → List Nat → List Nat
  | 0, seen => seen
  | fuel + 1, seen =>
    let next := fun (n : Nat) => match g.nodes[n]? with
      | some x => x.succ ++ x.errn.toList
      | none => []
    let more := (distinct (seen.flatMap next)).filter fun x => !seen.contains x
    if more.isEmpty then seen else runNodes g fuel (seen ++ more)

/-- The bodies of the while nodes among some nodes. -/
def bodiesIn (g : Graph) (l : List Nat) : List Nat :=
  l.filterMap fun n => match (g.nodes[n]?).map (·.kind) with
    | some (GKind.loop b _ _ _) => some b
    | _ => none

/-- Counters that a die's runs hold (R324): one for each node of the run (R323), none for a while node's body. -/
def countersUsed (s : State) (d : Nat) : Nat :=
  (s.chip.runs.map fun r => r.nodes.countP fun n => homeDie n.n == d && !isBody s r.run n.n).sum

/-- There is room for a run of some nodes: 1,024 runs, 16,384 counters a die (R324). -/
def runRoom (s : State) (nodes : List Nat) : Bool :=
  s.chip.runs.length < 1024 && (List.range 4).all fun d => countersUsed s d + (nodes.countP fun n => homeDie n = d) ≤ 16384

/-- Every node that a packet's run will hold. -/
def packetNodes (g : Graph) (ws : List Word) : List Nat :=
  let l := runNodes g g.nodes.length [field (ws.getD 0 0) 47 32]
  l ++ bodiesIn g l

/-- The nodes of a packet's run, which have counters (R323, R324): a while node's body is reached through no edge. -/
def countedNodes (g : Graph) (ws : List Word) : List Nat := runNodes g g.nodes.length [field (ws.getD 0 0) 47 32]

/-- What LAUNCH_QUEUE_TAKE does for the launch at the head of a die's queue: it reads the packet, refuses it, reads the words that map the
run's handles, or accepts it. -/
inductive TakeAct | none | packet (l : LaunchEntry) | refuse (l : LaunchEntry) (st : Nat) | handles (l : LaunchEntry) (ws : List Word) (g : Graph)
  | accept (l : LaunchEntry) (ws : List Word) (g : Graph)
  deriving DecidableEq, Repr

/-- New launches of a partition wait while the module leaves reduced service, and while the partition has to be set up again (R324, R382,
R398). -/
def launchWaits (s : State) (part : Nat) : Bool :=
  !s.chip.power.booted || s.chip.power.training || settingUp s part ||
    (partAt s part).any fun p => p.reduced == s.chip.power.full

/-- The act that may be made: a packet is checked when it has been read, and accepted when its resources are free (R324). -/
def takeAct (s : State) (d : Nat) : TakeAct :=
  match launchesOf s d with
  | [] => .none
  | l :: _ =>
    if launchWaits s l.part then .none
    else if (fetchFor s (.packet d)).isNone then .packet l
    else if !fetchOver s (.packet d) then .none
    else
      let st := packetStatus s l (packetWords s d)
      if st != 0 then .refuse l st
      else match (packetWords s d).bind fun ws => (packetGraph s l ws).map fun g => (ws, g) with
        | none => .none
        | some x =>
          if !runRoom s (countedNodes x.2 x.1) then .none
          else if x.2.handles.isEmpty || fetchOver s (.handles d) then .accept l x.1 x.2
          else if (fetchFor s (.handles d)).isSome then .none
          else .handles l x.1 x.2

/-- The acceptance word goes to the issuer: PLSTAT, or the operation that waits for it (R324, R338, R384). -/
def answerLaunch (d : Nat) (l : LaunchEntry) (w : Word) : Prog :=
  match l.origin with
  | .host fn => updFn fn fun y => { y with plstat := w }
  | .kiln _ => skip
  | .elem p r _ _ _ _ =>
    forSome l.req fun q => fun s =>
      let freed := field w 7 0 != 0 && q.rel
      let due := s.fc + latency (dieUnit d) p
      let give := fun (y : PipeOp) =>
        { y with wait := .none, outs := y.outs.map (fun o => { o with val := ofWord w }), rel := y.rel || freed,
                 due := some (max (y.due.getD 0) due) }
      updHeldElem r p (fun e => { e with pipe := replaceIf (fun x => x.id = q.op) give e.pipe }) s

/-- A node of a run as it starts: its counter is NPRED, the entry node's range and vector are the packet's when it gives them
(R323, R326). -/
def startNode (g : Graph) (ws : List Word) (n : Nat) : NodeRun :=
  let x := g.nodes[n]?
  let own := n == field (ws.getD 0 0) 47 32 && field (ws.getD 0 0) 31 0 != 0
  { n := n, counter := (x.map (·.npred)).getD 0, st := .waiting, skip := false,
    range := if own then field (ws.getD 0 0) 31 0 else (x.map (·.range)).getD 0,
    vec := if own then packetVec ws else (x.map (·.vec)).getD [], left := [], iter := 0, failed := false, code := 0, errWord := 0 }

/-- The address of a packet's parameter block. -/
def packetParam (ws : List Word) : Nat := field (ws.getD 3 0) 56 0

/-- The graph handles of a run, mapped from the words of its parameter block that the engine has read (R320); one whose word cannot be read
has no extent. -/
def mapHandles (s : State) (d : Nat) (g : Graph) : List (Nat × Nat × Nat) :=
  g.handles.zipIdx.map fun h => match (fetchFor s (.handles d)).bind fun x => x.word h.2 0 with
    | some w => (h.1.1, field w 56 0, h.1.2.2)
    | none => (h.1.1, 0, 0)

/-- A launch is accepted: the run gets its number and its counters, and the entry node is ready (R324, R326). One that an element issued
after its region's replay point sets NR (R372). -/
def acceptLaunch (d : Nat) (l : LaunchEntry) (ws : List Word) (g : Graph) : Prog := fun s =>
  let k := s.chip.nextRun
  let w0 := ws.getD 0 0
  let run : Run :=
    { run := k.toNat, part := l.part, graph := g.id, entry := field w0 47 32, die := d, param := packetParam ws, prio := packetPrio ws,
      cq := w0.getLsbD 49, user := ws.getD 4 0, origin := l.origin, nodes := (packetNodes g ws).map (startNode g ws),
      handles := mapHandles s d g, fnode := none, code := 0, errWord := 0, killed := false }
  seqAll [
    upd (fun c => { c with nextRun := k + 1, runs := c.runs ++ [run] }),
    (match l.origin with
      | .elem p r _ _ t1 _ => seqAll [
          onlyIf (l.req.all fun q => !q.past) (andThen (updRegion r fun y => { y with nr := true })
            (updSaved r fun v => { v with region := { v.region with nr := true } })),
          onlyIf (!t1.isEmpty) (updHeldQ r p fun q => { q with bound := q.bound ++ [k.toNat] })]
      | _ => skip),
    answerLaunch d l (place k.toNat 32),
    readyNode k.toNat (field w0 47 32)] s

/-- The queue of a die without its head. -/
def dropHead (d : Nat) : List LaunchEntry → List LaunchEntry
  | [] => []
  | x :: rest => if x.die = d then rest else x :: dropHead d rest

/-- The head of a die's queue has been taken: what was read for it is no longer needed, and launches move on. -/
def headTaken (d : Nat) (p : Prog) : Prog :=
  seqAll [
    upd (fun c => { c with launchQ := dropHead d c.launchQ }),
    p,
    dropFetch (.packet d),
    dropFetch (.handles d),
    drainLaunches]

/-- LAUNCH_QUEUE_TAKE: the head's packet is read and checked, and the head accepted or refused (R324). -/
def takeLaunch (d : Nat) : Prog := fun s =>
  match takeAct s d with
  | .none => []
  | .packet l => beginFetch (dieUnit d) l.part (.packet d) [(l.va, 64)] s
  | .refuse l st => headTaken d (answerLaunch d l (nat64 st)) s
  | .handles l ws g => beginFetch (dieUnit d) l.part (.handles d) (g.handles.map fun h => (packetParam ws + 8 * h.2.1, 8)) s
  | .accept l ws g => headTaken d (acceptLaunch d l ws g) s

/-! ## Counters (R326) -/

/-- A decrement has reached its home, and none before it waits there. -/
def decrementEnabled (s : State) (m : Nat) : Bool :=
  delivered s m (fun b => match b with | .decrement _ _ => true | _ => false) &&
    (match msgAt s m with
      | some x => firstAt s x fun b => match b with | .decrement _ _ => true | _ => false
      | none => false)

/-- COUNTER_DECREMENT: the one that brings the counter to 0 makes the node ready (R326). -/
def decrement (m : Nat) : Prog := fun s =>
  match (msgAt s m).map (·.body) with
  | some (Body.decrement run n) =>
    let waits := match nodeRun s run n with
      | some y => y.st == .waiting && y.counter != 0
      | none => false
    seqAll [
      dropMsg m,
      onlyIf waits (andThen (updNode run n fun y => { y with counter := y.counter - 1 })
        (fun s' => onlyIf (((nodeRun s' run n).map (·.counter)) == some 0) (readyNode run n) s'))] s
  | _ => []

/-! ## Dispatch (R32, R51, R328, R332, R333) -/

/-- Placement is made: in DPS0 to DPS2 or reduced service, with the fabric running (R392, R393, R397). -/
def placing (s : State) : Bool :=
  s.chip.power.booted && !s.chip.power.halted && (s.chip.power.dps ≤ 2 || !s.chip.power.full) && s.chip.power.stopEnds.isNone

/-- The image of a share's node. -/
def imageOf (s : State) (x : Share) : Option Image :=
  (runAt s x.run).bind fun run => (nodeRec s x.run x.node).bind fun n =>
    (s.chip.images.find? fun z => z.1 = run.part ∧ z.2.1 = n.image).map (·.2.2)

/-- What refuses an instance wherever it would lie (R51, R328, R397): no image there, a signature, a shape that fits nowhere, a
declaration that reduced service does not serve. -/
def refusal (s : State) (x : Share) : Option InstallError :=
  match imageOf s x, runAt s x.run with
  | some im, some run =>
    if signatureBad im then some (bare .esig 0)
    else if !shapeOk im || !placeable s run.part im then some (bare .egeom 0)
    else if !s.chip.power.full && (imageHandles im).any fun d => d.level == .hbm then some (bare .ehdecl 0)
    else none
  | _, _ => some (bare .egeom 0)

/-- The place a saved instance held is free: its tiles, access processors, mill contexts, frames, barriers, and what else it
takes (R356). -/
def savedFits (s : State) (v : Saved) : Bool :=
  let r := v.region
  (tilesOf r.rects).all (tileFree s r.part (shutFor s r.share)) &&
  (r.units.all fun u => (unitAt s u).region.isNone && !(shutUnits s r.share).contains u) &&
  (r.mills.all fun m => (freeContexts s r.share (cluOf m.1)).contains m.2) &&
  (r.reserved.all fun f => !(s.chip.regions.any fun y => y.reserved.contains f) && !frameBusy s f) &&
  (r.barMap.all fun b => !(s.chip.regions.any fun y => y.barMap.any fun z =>
    z.1 = b.1 ∧ z.2.1 = b.2.1 ∧ z.2.2.1 = b.2.2.1 ∧ z.2.2.2.2 = b.2.2.2.2)) &&
  grantsFit s r.grant && (takePatterns s r.image r.rects).isSome &&
  (r.handles.all fun h => !h.2.valid || h.2.level = 2 ||
    (if h.2.level = 0 then
      (if h.2.rep then tilesOf r.rects else [h.2.home]).all fun t => (List.range h.2.bankCount).all fun i =>
        !bankUsed (spadHolders s t) (h.2.firstBank + i)
     else (if h.2.rep then touched r.rects else [cluOf h.2.home]).all fun c => (cluHolders s c).all fun e =>
        e.cluOffset + e.ext ≤ h.2.cluOffset || h.2.cluOffset + h.2.ext ≤ e.cluOffset))

/-- The saved instances of a share. -/
def savedOf (s : State) (x : Share) : List Saved := s.chip.saved.filter fun v => x.saved.contains v.id

/-- A share has something that can be placed now. -/
def shareFits (s : State) (x : Share) : Bool :=
  (savedOf s x).any (savedFits s) || (x.open' && (fitShare s x s.nextId).isSome)

/-- A region that holds its units and can be asked to yield. -/
def askable (r : Region) (level : Nat) : Bool :=
  r.level < level && !r.kiln && !r.yr && (match r.phase with
    | .running => true
    | .waking _ => true
    | .loading _ _ => true
    | .rooting _ => true
    | _ => false)

/-- The state as if the regions that satisfy a test held nothing: no unit, no frame, no pattern-table entry. -/
def withoutRegions (s : State) (c : Region → Bool) : State :=
  let gone := s.chip.regions.filter c
  { s with frames := s.frames.filter (fun x => !(gone.any fun r => r.reserved.contains x.1)), chip := { s.chip with
      purges := s.chip.purges.filter (fun x => !(gone.any fun r => r.id = x.r)),
      regions := s.chip.regions.filter fun r => !c r,
      units := s.chip.units.map fun u => if gone.any fun r => some r.id == u.2.region then (u.1, { u.2 with region := none }) else u,
      patterns := s.chip.patterns.map fun y => (y.1, y.2.filter fun z => !(gone.any fun r => r.id = z.2.1)) } }

/-- The position that a share would take if some regions held nothing: its rectangles, units and mill contexts (R333, R356). -/
def positionWithout (s : State) (x : Share) (c : Region → Bool) : Option (List (Nat × Rect) × List Pos × List (Pos × Nat)) :=
  let t := withoutRegions s c
  match (savedOf s x).find? (savedFits t) with
  | some v => some (v.region.rects, v.region.units, v.region.mills)
  | none => if x.open' then (fitShare t x s.nextId).map fun r => (r.rects, r.units, r.mills) else none

/-- The regions to be asked to yield for a position: those below a level that hold part of it, lowest level first, then the most
recently dispatched (R333). -/
def holdersOf (s : State) (level : Nat) (at' : List (Nat × Rect) × List Pos × List (Pos × Nat)) : List Region :=
  sortBy (fun r => r.level * 2 ^ 64 + (2 ^ 64 - 1 - r.dispatched))
    (s.chip.regions.filter fun r => askable r level && (at'.2.1.any r.holds || r.mills.any at'.2.2.contains))

/-- The deadline of a level on a die (R350). -/
def deadline (s : State) (d level : Nat) : Nat :=
  ((s.chip.ydl.find? fun x => x.1 = d ∧ x.2.1 = level).map fun x => x.2.2).getD 100000

/-- YR is set in a region and its deadline starts (R350). -/
def askYield (share : Nat) (r : Region) : Prog := fun s =>
  andThen (updRegion r.id fun y => { y with yr := true, rem := deadline s r.home r.level, yrFor := some share })
    (countFor r (dieUnit r.home) true 0x18) s

/-- The first position that would fit a share if the regions below its level were away (R333); a kiln test is, where the share's
level may abort it (R378). -/
def yieldPosition (s : State) (x : Share) : Option (List (Nat × Rect) × List Pos × List (Pos × Nat)) :=
  positionWithout s x fun r => if r.kiln then s.chip.kiln.abl ≤ x.effective else r.level < x.effective

/-- The regions that a head share which does not fit asks to yield. -/
def yieldsFor (s : State) (x : Share) : List Region :=
  match yieldPosition s x with
  | some p => holdersOf s x.effective p
  | none => []

/-- What DISPATCH does for the k-th share of a die's pool. -/
inductive DispatchAct | none | refuse (e : InstallError) | fetch (r : Region) | place (r : Region) | block
  deriving DecidableEq, Repr

/-- The words of its parameter block that a region to be placed needs have not been read yet (R32). -/
def lacksParams (s : State) (share : Nat) (r : Region) : Bool := !(paramWords r.image).isEmpty && !fetchOver s (.params share)

/-- The act that may be made for a share at a place of the pool: an instance refused whatever its placement, one that fits while
none before it does (placed or backfilled, when its parameter words have been read), or the head's request to yield (R328, R332, R333);
none for a partition whose setup is in progress (R382). -/
def dispatchAct (s : State) (d k : Nat) : DispatchAct :=
  let l := pool s d
  match l[k]? with
  | none => .none
  | some x =>
    if !placing s || (runAt s x.run).any fun r => settingUp s r.part then .none
    else match (if x.open' then refusal s x else none) with
      | some e => .refuse e
      | none =>
        if (l.take k).any (shareFits s) || (savedOf s x).any (savedFits s) then .none
        else match (if x.open' then fitShare s x s.nextId else none) with
          | some r =>
            if !lacksParams s x.id r then .place r
            else if (fetchFor s (.params x.id)).isSome then .none else .fetch r
          | none => if k = 0 ∧ (x.noFit.isNone ∨ !(yieldsFor s x).isEmpty) then .block else .none

/-- A share has given out its next index. -/
def Share.taken (x : Share) : Share :=
  if x.again.isEmpty then { x with next := x.next + 1, noFit := none }
  else { x with again := x.again.filter fun i => i ≠ x.index, noFit := none }

/-- An instance refused at install fails its node with its code (R52, R328); nothing is reserved for it any longer (R333). -/
def refuseInstance (x : Share) (e : InstallError) : Prog :=
  seqAll [
    updShare x.id (fun y => y.taken),
    upd (fun c => { c with reserves := c.reserves.filter fun z => z.share ≠ x.id }),
    failShares x.run x.node (installNum e.code) (installWord e),
    reportShares x.run x.node]

/-- DISPATCH: the region is claimed, checked and woken; a failed check releases the claim (R32, R51). -/
def dispatch (d k : Nat) : Prog :=
  withId fun id => fun s =>
    match (pool s d)[k]? with
    | none => []
    | some x =>
      match dispatchAct s d k with
      | .none => []
      | .refuse e => refuseInstance x e s
      | .block => seqAll [
          updShare x.id (fun y => { y with noFit := some (y.noFit.getD s.t18) }),
          forEach (yieldsFor s x) (askYield x.id)] s
      | .fetch r => beginFetch (dieUnit d) r.part (.params x.id) ((paramWords r.image).map fun w => (r.param + 8 * w, 8)) s
      | .place r0 =>
        let r := { r0 with id := id, dispatched := id }
        match installFault s r.image r.rects with
        | some e => andThen (dropFetch (.params x.id)) (refuseInstance x e) s
        | none => seqAll [
            forEach (paramWords r.image) (fun _ => eff .free),
            dropFetch (.params x.id),
            claimRegion r,
            updShare x.id (fun y => { y.taken with live := y.live + 1 }),
            upd (fun c => { c with reserves := c.reserves.filter fun z => z.share ≠ x.id }),
            countFor r (dieUnit r.home) true 0x17,
            regionEvent r 0x20 r.rcyc] s

/-! ## Waking and loading (R110, R32) -/

/-- The first configuration of a region whose slots are still LOADING. -/
def nextLoad (s : State) (r : Region) : Option Nat :=
  (List.range r.image.configs.length).find? fun c => r.slotMap.any fun x => x.2.1 = c ∧ ((unitAt s x.1).slot x.2.2).st = .loading

/-- The install goes on with the next configuration, 2 µs, or with the root frame one fc later (R110). -/
def loadNext (k : Nat) : Prog := fun s =>
  forSome (regionAt s k) (fun r => updRegion k fun y => { y with
    phase := match nextLoad s r with
      | some c => .loading c (s.t18 + 36000)
      | none => .rooting (s.fc + 1) }) s

/-- WAKE_COMPLETE may be made. -/
def wakeDone (s : State) (k : Nat) : Bool :=
  match (regionAt s k).map (·.phase) with
  | some (Phase.waking t) => t ≤ s.t18
  | _ => false

/-- A configuration's tables stand in their slots, which become PINNED (R98, R110). -/
def loadConfig (r : Region) (c : Nat) : Prog :=
  forSome (configOf r.image c) fun cf => forEach (r.slotMap.filter fun x => x.2.1 = c) fun x => updUnit x.1 fun u =>
    u.setSlot x.2.2 fun y => if y.st = .loading then { y with st := .pinned, tables := unitTables r.image r.rects cf x.1 } else y

/-- The `.param` entries of a region are written from its parameter block (R32). -/
def writeParams (r : Region) : Prog :=
  forEach r.image.configs.zipIdx fun y => forEach y.1.elems fun e => forSome (locPos r.rects e.loc) fun p =>
    forEach e.params fun w => fun s =>
      forSome (slotFor r p y.2) (fun k => updTables p k fun t =>
        { t with side := setKey w.1 (ofWord (r.paramWord w.2)) t.side }) s

/-- The root frame of a region is allocated: k = 1, no parent (R32, R65); a frame index is given when the region has had one. -/
def rootOf' (s : State) (r : Region) : Option Nat := r.rootFrame.orElse fun _ => freeFrame s r r.homeClu

/-- The region starts: root frame, parameters, active configuration 0, entry tokens (R32, R33). -/
def startRegion (k : Nat) : Prog := fun s =>
  forSome (regionAt s k) (fun r => forSome (rootOf' s r) fun g =>
    let r' := { r with rootFrame := some g, acfg := 0 }
    seqAll [
      updFrame g (.root (getKey 0 r.homeClu r.rgns) r.part),
      writeParams r',
      activate r' 0,
      updRegion k (fun y => { y with rootFrame := some g, rootFreed := false, acfg := 0, phase := .running }),
      entryTokens r' 0 (nat64 r.index) 1]) s

/-- A part is held by a page fault. -/
def faultHolds (p : Part) : Bool := (match p.st with | .fault _ => true | _ => false) || partHeld p

/-- No request of a region is on its way but what page faults hold. -/
def drained (s : State) (k : Nat) : Bool :=
  s.chip.reqs.all fun q => q.r != k || q.parts.zipIdx.all fun x => partOver s q.id x.2 x.1 || faultHolds x.1

/-- An entry as its declaration gave it at dispatch: HFMT's changes of its format and its sub-handles are undone (R209, R374). -/
def dispatchEntry (d : HandleDecl) (e : HandleEntry) : HandleEntry :=
  { e with w0 := putField e.w0 57 54 (encodeFmt d.fmt).toNat, w3 := declW3 d }

/-- A region's on-chip state is back at its state at dispatch (R374): frames, side tables, barriers, ring pointers but those of
replay windows, handles. -/
def resetRegion (k : Nat) : Prog := fun s =>
  forSome (regionAt s k) (fun r =>
    let windows := s.chip.qs.flatMap fun q => if r.holds q.1 then
      (q.2.streams.filter fun z => z.input ∧ z.h2 ≠ 0).map fun z => (unitOf q.1, z.h2) else []
    let kept := fun (g : Ring) => windows.any fun w => w.1 == g.tile && w.2 == g.handle
    let back := fun (g : Ring) =>
      if !r.holds g.tile then g
      else if kept g then { g with rdp := g.head, rpos := g.hpos }
      else { g with head := 0, rdp := 0, tail := 0, hpos := 0, rpos := 0, tpos := 0, side := [] }
    let keep := r.handles.filter fun h => ((declOf r h.1).map (·.dyn)) == some false
    let fresh := keep.filter fun h => !(windows.any fun w => w.2 = h.1)
    let dispatched := keep.map fun h => (h.1, ((declOf r h.1).map fun d => dispatchEntry d h.2).getD h.2)
    seqAll [
      forEach r.reserved (fun f => updFrame f .reset),
      clearBars r,
      forEach r.units (fun u => updUnit u fun v => { v with slots := v.slots.map fun c => match c.st with
        | .pinned => { c with written := false, tables := c.tables.map fun t => { t with side := t.side0 } }
        | _ => c }),
      forEach (List.range r.image.configs.length) (fun c => forSome (configOf r.image c) fun cf =>
        forEach (r.slotMap.filter fun x => x.2.1 = c) fun x => updUnit x.1 fun u =>
          u.setSlot x.2.2 fun y => { y with tables := unitTables r.image r.rects cf x.1 }),
      upd (fun c => { c with rings := c.rings.map back, mats := c.mats.filter fun m => !r.holds m.1 }),
      updRegion k (fun y => { y with
        handles := dispatched, quotas := y.quotas.map (fun q => { q with used := 0 }), fpctl := 0, ssn := 0 }),
      prepareHandles { r with handles := fresh } true]) s

/-- INSTALL_PREEMPT may be made: a yield is asked of an instance that has no root frame yet (R111). -/
def preemptEnabled (s : State) (k : Nat) : Bool :=
  match regionAt s k with
  | some r => r.yr && !r.kiln && r.rootFrame.isNone && (match r.phase with
    | .waking _ => true
    | .loading _ _ => true
    | .rooting _ => true
    | _ => false)
  | none => false

/-- INSTALL_PREEMPT: LOADING slots become EMPTY, the claim is released, the instance returns to the pool (R111). -/
def installPreempt (k : Nat) : Prog := fun s =>
  forSome (regionAt s k) (fun r => seqAll [
    releaseRegion k,
    forSome (shareOfRegion s r) fun x => updShare x.id fun y => { y with live := y.live - 1, again := insertNew r.index y.again }]) s

/-! ## The end of an instance (R34, R361, R362) -/

/-- A pending operation that waits for something outside its element, or for its latency: its tokens are still to come. -/
def opGoing (x : PipeOp) : Bool := !(x.wait == .held || x.wait == .yielded || x.wait == .barrier)

/-- No token of a region is in flight (R34): none on the way, in a buffer or in a pipeline, and nothing that will send one
without another token. -/
def quietTokens (s : State) (r : Region) : Bool :=
  (s.chip.net.all fun m => !r.sends m) && (s.chip.pushes.all fun x => !(r.holds x.src || r.holds x.tile)) &&
  (s.chip.walks.all fun w => !r.holds w.p) && (s.chip.fwaits.all fun w => w.q.tagFrame.isSome || !w.q.ofRegion r) &&
  (regionElems s r).all fun p =>
    let e := elemAt s p
    e.ready.isEmpty && e.out.isEmpty && e.pendSet.isEmpty && e.loops.isEmpty && e.pipe.all fun x => !opGoing x && opStep s p x == .wait

/-- No engine, matrix element or mill context of a region is at work. -/
def quietUnits (s : State) (r : Region) : Bool :=
  (s.chip.qs.all fun q => !r.holds q.1 || (q.2.scan.isNone && (q.2.launches.all fun l => l.r != r.id) && q.2.engs.all fun e => e.kind == .strmo)) &&
  (s.chip.mats.all fun m => !r.holds m.1 || m.2.queue.isEmpty) &&
  (r.mills.all fun m => (millAt s m.1 m.2).reqs.isEmpty)

/-- No memory transaction of a region is outstanding (R34); a store whose early completion token has been delivered keeps the region
until the die's hub has let all of it pass, since it is validated and translated before that. -/
def noRequests (s : State) (k : Nat) : Bool := s.chip.reqs.all fun q => q.r != k || (!outstanding q && q.parts.all pastHub)

/-- Every request of a stopped region has been performed, but what a timeout has lost (R361, R364). -/
def requestsOver (s : State) (k : Nat) : Bool := s.chip.reqs.all fun q => q.r != k || reqOver s q

/-- No matrix instruction of a region runs any more: each has ended or has been abandoned at one of its points (R225). -/
def matricesStill (s : State) (r : Region) : Bool := s.chip.mats.all fun m => !r.holds m.1 || m.2.run.isNone

/-- A region error or an abort of a region is on its way to its control point. -/
def reportsTo (s : State) (k : Nat) : Bool :=
  s.chip.net.any fun m => match m.body with
    | .error r _ => r == k
    | .abort r _ => r == k
    | _ => false

/-- INSTANCE_COMPLETE may be made: the root frame is freed and nothing of the region moves, or the region has stopped and its
requests have been performed. -/
def instanceEnabled (s : State) (k : Nat) : Bool :=
  match regionAt s k with
  | none => false
  | some r => match r.phase with
    | .running => r.rootFreed && noRequests s k && quietTokens s r && quietUnits s r && !reportsTo s k
    | .stopping => requestsOver s k && matricesStill s r
    | _ => false

/-- The error record of a region (R362). -/
def writeError (r : Region) (e : ErrorReport) : Prog := fun s =>
  let ws := [errorW0 e r.more, errorW1 e r.run, e.value, nat64 r.errTime]
  appendRecord (dieUnit r.home) r.part (·.errorQ) (recordCount s fun x => match x with | .error p _ _ _ _ => p == r.part | _ => false)
    (.error r.part (ws.getD 0 0) (ws.getD 1 0) (ws.getD 2 0) (ws.getD 3 0)) ws s

/-- An instance ends with its error: the record, the event, and the node fails; without an error edge the host is interrupted
(R361). -/
def endWithError (r : Region) (e : ErrorReport) : Prog := fun s =>
  let edge := ((nodeRec s r.run r.node).bind (·.errn)).isSome
  seqAll [
    writeError r e,
    regionEvent r 0x26 (nat64 e.code),
    onlyIf (!edge || r.kiln) (interrupt (.failure r.part)),
    endInstance r e.code 0] s

/-- INSTANCE_COMPLETE: frames still allocated are released with FLEAK set, the region's flags stay as its final state, the region
is released, the share learns of it (R34, R327, R347, R361). -/
def instanceComplete (k : Nat) : Prog := fun s =>
  forSome (regionAt s k) (fun r =>
    match r.phase with
    | .stopping => seqAll [releaseRegion k, forSome r.error (endWithError r), drainLaunches]
    | _ => seqAll [
        onlyIf (r.reserved.any fun f => (frameAt s f).val) (setRflag k 2),
        (fun s' => forSome (regionAt s' k) (fun y => upd fun c => { c with ended := c.ended ++ [⟨y.run, y.node, y.index, y.rflags⟩] }) s'),
        regionEvent r 0x21 r.rcyc,
        releaseRegion k,
        endInstance r 0 0]) s

/-! ## Nodes (R327 to R330) -/

/-- A share's report has reached the node's home. -/
def reportReached (s : State) (m : Nat) : Bool := delivered s m fun b => match b with | .shareEnd _ _ _ _ => true | _ => false

/-- SHARE_REPORT: the node is complete when every share has reported and no instance has failed (R327). -/
def shareReport (m : Nat) : Prog := fun s =>
  match (msgAt s m).map (·.body) with
  | some (Body.shareEnd run n die failed) =>
    seqAll [
      dropMsg m,
      updNode run n (fun y => { y with left := y.left.filter fun d => d ≠ die, failed := y.failed || failed }),
      fun s' => match nodeRun s' run n with
        | some y => onlyIf (y.left.isEmpty && !y.failed && y.st == .running) (completeNode run n) s'
        | none => []] s
  | _ => []

/-- NODE_FAIL may be made: every share of a node has reported, and an instance has failed (R328). -/
def nodeFailEnabled (s : State) (run n : Nat) : Bool :=
  match nodeRun s run n with
  | some y => y.st == .running && y.failed && y.left.isEmpty && !isBody s run n && (match (nodeRec s run n).map (·.kind) with
    | some (GKind.kernel _) => true
    | _ => false)
  | none => false

/-- NODE_FAIL (R328). -/
def nodeFail (run n : Nat) : Prog := fun s =>
  forSome (nodeRun s run n) (fun y => failNode run n n y.code y.errWord) s

/-- Where the condition word of a node stands: the partition and the address, when the graph handle reaches so far (R329). -/
def conditionPlace (s : State) (run h off : Nat) : Option (Nat × Nat) :=
  (runAt s run).bind fun r => (r.handles.find? fun x => x.1 = h).bind fun x =>
    if x.2.2 < 8 * off + 8 then none else some (r.part, x.2.1 + 8 * off)

/-- No read of a node's condition word is on its way. -/
def conditionStill (s : State) (run n : Nat) : Bool := (fetchFor s (.cond run n)).isNone || fetchOver s (.cond run n)

/-- A node reads its condition word at package scope, and goes on with it; a read that meets a fault, a protection violation or data that
cannot be corrected fails the node with EPROT (R329). -/
def withCondition (run n h off : Nat) (p : Word → Prog) : Prog := fun s =>
  match conditionPlace s run h off with
  | none => failNode run n n codeEprot 0 s
  | some y =>
    if fetchOver s (.cond run n) then
      andThen (dropFetch (.cond run n)) (match (fetchFor s (.cond run n)).bind fun x => x.word 0 0 with
        | some w => p w
        | none => failNode run n n codeEprot 0) s
    else beginFetch (dieUnit (homeDie n)) y.1 (.cond run n) [(y.2, 8)] s

/-- CONDITION_NODE may be made. -/
def condEnabled (s : State) (run n : Nat) : Bool :=
  match nodeRun s run n, (nodeRec s run n).map (·.kind) with
  | some y, some (GKind.cond _ _) => y.st == .ready && conditionStill s run n
  | _, _ => false

/-- CONDITION_NODE (R329): at 0 every direct successor is marked to be skipped. -/
def conditionNode (run n : Nat) : Prog := fun s =>
  match (nodeRec s run n).map (·.kind) with
  | some (GKind.cond h off) =>
    withCondition run n h off (fun w =>
      andThen (onlyIf (w == 0) (forEach (succsOf s run n) fun m => updNode run m fun y => { y with skip := true }))
        (completeNode run n)) s
  | _ => []

/-- The body of a while node has ended its iteration. -/
def bodyOver (s : State) (run b : Nat) : Bool :=
  match nodeRun s run b with
  | some y => y.st == .complete || (y.st == .running && y.failed && y.left.isEmpty)
  | none => true

/-- WHILE_NODE may be made: the node is ready, or its body has completed or failed. -/
def whileEnabled (s : State) (run n : Nat) : Bool :=
  match nodeRun s run n, (nodeRec s run n).map (·.kind) with
  | some y, some (GKind.loop b _ _ _) => (y.st == .ready || (y.st == .running && bodyOver s run b)) && conditionStill s run n
  | _, _ => false

/-- WHILE_NODE (R330): one turn of the loop; the body's shares enter at the body's own PRIO. -/
def whileNode (run n : Nat) : Prog := fun s =>
  match nodeRun s run n, (nodeRec s run n).map (·.kind) with
  | some y, some (GKind.loop b h off bound) =>
    match nodeRun s run b with
    | some z =>
      if y.st = .running ∧ z.failed then
        andThen (updNode run b fun u => { u with st := .failed }) (failNode run n b z.code z.errWord) s
      else withCondition run n h off (fun w =>
        if w = 0 ∨ y.iter = bound then completeNode run n
        else andThen (updNode run n fun u => { u with st := .running, iter := u.iter + 1 })
          (enterShares run b (((nodeRec s run b).map (·.prio)).getD 0))) s
    | none => []
  | _, _ => []

/-! ## The end of a run (R325) -/

/-- Every node of a run has ended; bodies are not counted (R325). -/
def runOver (s : State) (r : Run) : Bool :=
  r.nodes.all fun y => y.st.over || isBody s r.run y.n

/-- RUN_END may be made. -/
def runEndEnabled (s : State) (k : Nat) : Bool :=
  match runAt s k with
  | some r => runOver s r && s.chip.shares.all fun x => x.run != k
  | none => false

/-- RSTAT of the completion word (R325). -/
def runStatus (s : State) (r : Run) : Nat :=
  let bad := r.nodes.filter fun y => y.st = .failed ∧ !isBody s r.run y.n
  if bad.isEmpty then 0
  else if bad.all fun y => match (nodeRec s r.run y.n).bind (·.errn) with
      | some t => ((nodeRun s r.run t).map (·.st)) == some .complete
      | none => false
    then 1 else 2

/-- The run completion word (R325). -/
def completionWord (s : State) (r : Run) : Word :=
  place r.run 32 ||| place (r.fnode.getD 0xFFFF) 16 ||| place r.code 8 ||| place (runStatus s r) 0

/-- Messages sent since an identifier go into a saved instance's image (R353). -/
def intoSaved (k first : Nat) : Prog := upd fun c =>
  { c with
    net := c.net.filter fun m => m.id < first,
    saved := replaceIf (fun v => v.region.id = k) (fun v => { v with net := v.net ++ c.net.filter fun m => first ≤ m.id }) c.saved }

/-- The completion word goes into the bound slot, which is freed (R338); that of a saved region waits in its image. -/
def sendCompletion (r : Run) (w : Word) : Prog := fun s =>
  match r.origin with
  | .elem p k tag out t1 rel =>
    let alive := match regionAt s k with
      | some x => x.phase != .stopping && x.phase != .ended
      | none => false
    let inImage := s.chip.saved.any fun v => v.region.id == k
    let send := seqAll [forEach t1 (fun t => sendRoute (dieUnit r.die) t 4 (ofWord w) out 0), onlyIf rel (releaseTag p tag)]
    let free := fun (q : QState) => { q with bound := q.bound.filter fun n => n ≠ r.run }
    seqAll [
      onlyIf (alive || inImage) send,
      onlyIf inImage (intoSaved k s.nextId),
      upd fun c => { c with
        qs := c.qs.map (fun q => if q.1 = p then (q.1, free q.2) else q),
        saved := c.saved.map fun v => { v with qs := v.qs.map fun q => if q.1 = p then (q.1, free q.2) else q } }] s
  | _ => []

/-- RUN_END: the completion word leaves, the record is written, counters and slots are free (R324, R325, R338). -/
def runEnd (k : Nat) : Prog := fun s =>
  forSome (runAt s k) (fun r =>
    let w := completionWord s r
    let ws := [w, r.user, nat64 (timeNs s), r.errWord]
    seqAll [
      onlyIf r.cq (seqAll [
        appendRecord (dieUnit r.die) r.part (·.complQ)
          (recordCount s fun x => match x with | .completion p _ _ _ _ => p == r.part | _ => false)
          (.completion r.part (ws.getD 0 0) (ws.getD 1 0) (ws.getD 2 0) (ws.getD 3 0)) ws,
        interrupt (.completion r.part)]),
      onlyIf (runStatus s r == 2) (interrupt (.failure r.part)),
      sendCompletion r w,
      upd (fun c => { c with
        runs := c.runs.filter fun x => x.run ≠ k
        fetches := c.fetches.filter fun x => match x.key with
          | .cond run _ => run ≠ k
          | .params share => c.shares.any fun y => y.id = share
          | _ => true }),
      drainLaunches]) s

/-! ## Aging and reservations (R331, R333) -/

/-- GECFG of a die (R331). -/
def gecfgAt (s : State) (d : Nat) : Word := getKey (place 2000 32 ||| place 10000 0) d s.chip.gecfg

/-- AGING_PERIOD may be made: a whole period more has passed since the share entered (R331). -/
def agingEnabled (s : State) (d k : Nat) : Bool :=
  match shareAt s k with
  | some x => x.die == d && field (gecfgAt s d) 31 0 != 0 && x.level < 10 && x.level + x.aged < 10 &&
      decide (x.entered + (x.aged + 1) * field (gecfgAt s d) 31 0 * 18000 ≤ s.t18)
  | none => false

/-- The first share whose aging is due. -/
def agingDue (s : State) : Option Nat := (s.chip.shares.find? fun x => agingEnabled s x.die x.id).map (·.id)

/-- AGING_PERIOD. -/
def agingPeriod (k : Nat) : Prog := updShare k fun x => { x with aged := x.aged + 1 }

/-- RESERVATION may be made: the head share has waited BFLIM since it first did not fit, and holds no reservation. -/
def reserveEnabled (s : State) (d : Nat) : Bool :=
  match pool s d with
  | x :: _ => placing s && !shareFits s x && (x.open' || !x.saved.isEmpty) && (s.chip.reserves.all fun z => z.share != x.id) &&
      (match x.noFit with
        | some t => t + field (gecfgAt s d) 63 32 * 18000 ≤ s.t18
        | none => false) && (positionWithout s x fun _ => true).isSome
  | [] => false

/-- RESERVATION: the first position that would fit if no region held anything is reserved, and the lower regions there are
asked to yield (R333). -/
def reservation (d : Nat) : Prog := fun s =>
  match pool s d with
  | x :: _ => forSome (positionWithout s x fun _ => true) (fun p => seqAll [
      upd (fun c => { c with reserves := c.reserves ++ [⟨d, x.id, p.1, p.2.1, p.2.2⟩] }),
      forEach (holdersOf s x.effective p) (askYield x.id)]) s
  | [] => []

/-! ## CONDW (R339) -/

/-- CONDW: A is stored at an element of a graph handle of the run, at package scope; A goes on when that has been performed. -/
def writeCondition (o : Ops2) (f : Firing) : Prog := fun s =>
  let a := sideA s f o.sa
  let b := lowWord (sideB s f o.sb)
  match regionOf s f.pos with
  | none => endFiring s
  | some r =>
    match ((runAt s r.run).bind fun x => x.handles.find? fun y => y.1 = field b 7 0) with
    | none => failFiring f codeEhandle 0 s
    | some h =>
      let off := 8 * field b 31 8
      if h.2.2 < off + 8 then failFiring f codeEprot 0 s
      else if poolLimit f.pos ≤ poolUse s f.pos then holdBack f s
      else issueOp f ⟨0x0F, o.ta, sideB s f o.sb, none, bothOuts o.d0 o.d1 a false, 0, .reply, false⟩ (fun k =>
        issueReq { p := f.pos, r := r.id, entry := f.entry, op := .store, client := .condw f.pos k, h := field b 7 0, n := 8,
                   lanes := [(0, off)], b := a, c := 0, idx := 0, scope := .package, str := false, ack := false, tag := f.tag,
                   out := f.tag, t0 := [], t1 := [], rel := false }) s

/-! ## The steps -/

/-- LAUNCH (R338). -/
def execLaunch (o : Ops2) (x : Xh) (s : State) : Host.Outcome State Fault Refusal := onFiring (launch o x) s
/-- CONDW (R339). -/
def execCondw (o : Ops2) (s : State) : Host.Outcome State Fault Refusal := onFiring (writeCondition o) s
/-- PLAUNCH (R384): a function of the part, 0 to 8. -/
def execPlaunch (fn : Nat) (w : Word) (s : State) : Host.Outcome State Fault Refusal :=
  actWhen (decide (fn ≤ 8) && s.chip.power.booted && !s.chip.power.halted) "PLAUNCH" (plaunch fn w) s
/-- LAUNCH_QUEUE_TAKE (R324). -/
def execLaunchQueueTake (d : Nat) (s : State) : Host.Outcome State Fault Refusal :=
  actWhen (takeAct s d != .none) "LAUNCH_QUEUE_TAKE" (takeLaunch d) s
/-- COUNTER_DECREMENT (R326). -/
def execCounterDecrement (m : Nat) (s : State) : Host.Outcome State Fault Refusal :=
  actWhen (decrementEnabled s m) "COUNTER_DECREMENT" (decrement m) s
/-- DISPATCH (R32). -/
def execDispatch (d k : Nat) (s : State) : Host.Outcome State Fault Refusal :=
  actWhen (dispatchAct s d k != .none) "DISPATCH" (dispatch d k) s
/-- WAKE_COMPLETE (R110). -/
def execWakeComplete (r : Nat) (s : State) : Host.Outcome State Fault Refusal :=
  actWhen (wakeDone s r) "WAKE_COMPLETE" (loadNext r) s
/-- INSTALL_PREEMPT (R111). -/
def execInstallPreempt (r : Nat) (s : State) : Host.Outcome State Fault Refusal :=
  actWhen (preemptEnabled s r) "INSTALL_PREEMPT" (installPreempt r) s
/-- INSTANCE_COMPLETE (R34). -/
def execInstanceComplete (r : Nat) (s : State) : Host.Outcome State Fault Refusal :=
  actWhen (instanceEnabled s r) "INSTANCE_COMPLETE" (instanceComplete r) s
/-- SHARE_REPORT (R327). -/
def execShareReport (m : Nat) (s : State) : Host.Outcome State Fault Refusal :=
  actWhen (reportReached s m) "SHARE_REPORT" (shareReport m) s
/-- NODE_FAIL (R328). -/
def execNodeFail (run n : Nat) (s : State) : Host.Outcome State Fault Refusal :=
  actWhen (nodeFailEnabled s run n) "NODE_FAIL" (nodeFail run n) s
/-- CONDITION_NODE (R329). -/
def execConditionNode (run n : Nat) (s : State) : Host.Outcome State Fault Refusal :=
  actWhen (condEnabled s run n) "CONDITION_NODE" (conditionNode run n) s
/-- WHILE_NODE (R330). -/
def execWhileNode (run n : Nat) (s : State) : Host.Outcome State Fault Refusal :=
  actWhen (whileEnabled s run n) "WHILE_NODE" (whileNode run n) s
/-- RUN_END (R325). -/
def execRunEnd (run : Nat) (s : State) : Host.Outcome State Fault Refusal :=
  actWhen (runEndEnabled s run) "RUN_END" (runEnd run) s
/-- AGING_PERIOD (R331). -/
def execAgingPeriod (s : State) : Host.Outcome State Fault Refusal :=
  actWhen (agingDue s).isSome "AGING_PERIOD" (forSome (agingDue s) agingPeriod) s
/-- RESERVATION (R333). -/
def execReservation (d : Nat) (s : State) : Host.Outcome State Fault Refusal :=
  actWhen (reserveEnabled s d) "RESERVATION" (reservation d) s

end Sys2Proof.Machine
end

