-- ==== Sys2Proof/Machine/Preempt.lean ====
section
/-! DEFINITION. Pre-emption and errors (spec/14 R350 to R364): the deadline, halting, the context image and its restore, the
withdrawal of a yield request, region errors and the watchdog. -/

namespace Sys2Proof.Machine

open Sys2Proof

/-! ## Asking to yield (R350 to R352) -/

/-- A yield is asked of a region that runs and whose root frame stands (R352). -/
def yieldsNow (r : Region) : Bool := r.yr && r.phase == .running && !r.rootFreed && r.error.isNone

/-- The request is held by a page fault: nothing of it is on its way (R290, R351). -/
def heldByFault (q : MemReq) : Bool := q.parts.any faultHolds && q.parts.all fun p => faultHolds p || p.st == .performed

/-- Everything of a request is back (R353): its parts, its end, the data of one that serves an engine. A reply that its halted element has not
taken is kept for the image. -/
def backFrom (s : State) (q : MemReq) : Bool :=
  reqDone q && (match q.doneAt with | some t => decide (t ≤ s.fc) | none => true) &&
    s.chip.net.all fun m => m.body != .done q.id || arrived s m

/-- Every allocated frame of a region is parked (R73, R351). -/
def allParked (s : State) (r : Region) : Bool :=
  r.reserved.all fun f => !(frameAt s f).val || (parkView (frameAt s f)).parks

/-- Nothing of a region's elements is in a pipeline, a buffer or a link (R351). -/
def stillElems (s : State) (r : Region) : Bool :=
  (s.chip.net.all fun m => !r.sends m) && (s.chip.pushes.all fun x => !(r.holds x.src || r.holds x.tile)) &&
  (s.chip.walks.all fun w => !r.holds w.p) && (s.chip.fwaits.all fun w => w.q.tagFrame.isSome || !w.q.ofRegion r) &&
  (regionElems s r).all fun p =>
    let e := elemAt s p
    e.out.isEmpty && e.pendSet.isEmpty && e.pipe.all fun x => !opGoing x

/-- The region is quiet (R351). -/
def regionQuiet (s : State) (k : Nat) : Bool :=
  match regionAt s k with
  | some r => allParked s r && stillElems s r && quietUnits s r && !reportsTo s k &&
      s.chip.reqs.all fun q => q.r != k || heldByFault q || (!outstanding q && q.parts.all pastHub)
  | none => false

/-- The sequencers of a region are asked to abandon (R225, R353). -/
def askAbandon (r : Region) : Prog :=
  upd fun c => { c with mats := c.mats.map fun x => if r.holds x.1 then (x.1, { x.2 with abandon := true }) else x }

/-- COOPERATIVE_SAVE may be made: the region is quiet while YR is set. -/
def cooperativeEnabled (s : State) (k : Nat) : Bool :=
  match regionAt s k with
  | some r => yieldsNow r && regionQuiet s k
  | none => false

/-- The region halts for a save: no element begins a firing (R353). `kind` is the event of its end (R354, R409). -/
def haltFor (kind k : Nat) : Prog :=
  reading (regionAt · k) fun x => forSome x fun r =>
    andThen (askAbandon r) (updRegion k fun y => { y with phase := .halting, reason := some kind })

/-- DEADLINE_EXPIRY may be made: REM has reached 0 (R351). -/
def deadlineEnabled (s : State) (k : Nat) : Bool :=
  match regionAt s k with
  | some r => yieldsNow r && r.rem == 0
  | none => false

/-- The share that asked for a region needs it no longer: it has been placed, or has ended (R352). -/
def needGone (s : State) (r : Region) : Bool :=
  match r.yrFor.bind (shareAt s) with
  | some x => x.noFit.isNone
  | none => true

/-- YR_WITHDRAW may be made: before a save begins (R352). -/
def withdrawEnabled (s : State) (k : Nat) : Bool :=
  match regionAt s k with
  | some r => r.yr && needGone s r && !inImage s k && (match r.phase with
    | .running => true
    | .waking _ => true
    | .loading _ _ => true
    | .rooting _ => true
    | _ => false)
  | none => false

/-- YR_WITHDRAW: YR is cleared, and frames parked at YIELD go on (R94, R352). -/
def withdraw (k : Nat) : Prog := fun s =>
  forSome (regionAt s k) (fun r => andThen
    (updRegion k fun y => { y with yr := false, rem := 0, yrFor := none })
    (forEach (r.reserved.filter fun f => (frameAt s f).yld) fun f => parkFrame f (.yld false))) s

/-! ## The context image (R353 to R355) -/

/-- An operation that is due cannot leave its pipeline while its region is halted: the credit it needs comes back only when a halted
element accepts a token (R245). A held result without a place waits for one, and the save with it (R172). -/
def stuckOp (s : State) (p : Pos) (x : PipeOp) : Bool :=
  let e := elemAt s p
  let spent := fun (y : PipeOp) => (tagNow y).isSome && y.defer.isNone && !creditFor s p y.sends
  ((tagNow x).isSome && x.defer.isNone && (spent x || e.pipe.any fun y => y.wait == .none && opDue s y && dueBefore y x && spent y))

/-- The pipelines of an element are empty but for what waits for something beyond it: its firings that had begun have completed,
are held, or wait for an answer, a request or a credit (R145, R172, R353). -/
def drainedElem (s : State) (p : Pos) : Bool :=
  (elemAt s p).pipe.all fun x => x.wait != .none && !(fenceOver s x) || (opDue s x && stuckOp s p x)

/-- An EVT of a region has its record on the way to the collector (R410). -/
def eventOut (s : State) (r : Region) : Bool :=
  s.chip.net.any fun m => match m.body with | .event e => e.op.isSome && r.holds e.src | _ => false

/-- CAPTURE_BEGIN may be made: firings have completed, no matrix instruction runs, and every transaction is back but those held
by page faults (R353). -/
def captureEnabled (s : State) (k : Nat) : Bool :=
  match regionAt s k with
  | some r => r.phase == .halting && (regionElems s r).all (drainedElem s) &&
      matricesStill s r && (s.chip.fills.all fun f => f.r != k) &&
      (s.chip.reqs.all fun q => q.r != k || heldByFault q || backFrom s q) &&
      !reportsTo s k && !eventOut s r
  | none => false

/-- Lines of scratchpad of a region's tiles whose dirty bit is set (R196). -/
def dirtyLines (s : State) (r : Region) : List Nat :=
  let ts := (tilesOf r.rects).map tileNo
  s.chip.spadDirty.filter fun l => ts.contains (l * 32 / spadBytes)

/-- A line of scratchpad as the save engine reads it: a checked access (R195, R354). -/
def savedLine (s : State) (r : Region) (l : Nat) : Nat × List Byte := (l, readChip s.spad s.chip.spadOwner r.part (l * 32) 32)

/-- The lines of a context image: those whose dirty bit is set, and the earlier copy of the rest (R355). -/
def imageLines (s : State) (r : Region) : List (Nat × List Byte) :=
  let new := dirtyLines s r
  new.map (savedLine s r) ++ r.kept.filter fun x => !new.contains x.1

/-- The storage of the clu handles of a region: address and length in every cluster that has it. -/
def cluRanges (r : Region) : List (Nat × Nat) :=
  (r.handles.filter fun h => h.2.valid && h.2.level == 1).flatMap fun h =>
    (if h.2.rep then touched r.rects else [cluOf h.2.home]).map fun c => (sramAddr h.2 c 0, h.2.ext)

/-- The bytes of those blocks, read as checked accesses. -/
def imageBlocks (s : State) (r : Region) : List (Nat × List Byte) :=
  (s.sram.filter fun x => (cluRanges r).any fun y => y.1 ≤ x.1 && x.1 < y.1 + y.2 && ownerOf s.chip.sramOwner (x.1 / 32) == r.part).map
    fun x => (x.1, [x.2])

/-- Bytes that the save or restore of a region moves in a cluster: lines and blocks. -/
def bytesIn (r : Region) (lines : List Nat) (c : Pos) : Nat :=
  32 * (lines.countP fun l => l * 32 / spadBytes / 32 == cluNo c) +
    ((cluRanges r).map fun y => if y.1 / sramBytes = cluNo c then y.2 else 0).sum

/-- The fc that lines and blocks take at 64 bytes an fc, the clusters in parallel (R354). -/
def copyTime (r : Region) (lines : List Nat) : Nat :=
  (touched r.rects).foldl (fun n c => max n ((bytesIn r lines c + 63) / 64)) 0

/-- Groups of 4 side-table entries of a region that are not as installed: element, configuration, group, entries (R103, R355). -/
def imageSides (s : State) (r : Region) : List (Pos × Nat × Nat × List (Nat × Wide)) :=
  r.slotMap.flatMap fun x => ((unitAt s x.1).slot x.2.2).tables.flatMap fun t =>
    (List.range 4).filterMap fun g =>
      let now := t.side.filter fun y => y.1 / 4 = g
      if now = t.side0.filter (fun y => y.1 / 4 = g) then none else some ({ x.1 with elem := t.elem }, x.2.1, g, now)

/-- The slots of a region written by WSET: unit, configuration, slot (R98, R355). -/
def imageSlots (s : State) (r : Region) : List (Pos × Nat × CfgSlot) :=
  r.slotMap.filterMap fun x =>
    let c := (unitAt s x.1).slot x.2.2
    if c.written then some (x.1, x.2.1, c) else none

/-- A private barrier of a region (R335). -/
def ownBarrier (r : Region) (b : Barrier) : Bool := r.barMap.any fun y => b.at y.1 (y.2.1, y.2.2.1) y.2.2.2.2

/-- A mill context that a region holds. -/
def ownMill (r : Region) (u : Pos) (k : Nat) : Bool := r.mills.any fun m => cluOf m.1 == cluOf u && m.2 == k

/-- What of the messages goes into the image: the region's traffic, and the replies of its requests that no element has taken (R353, R355). -/
def imageMsg (c : Chip) (r : Region) (m : Msg) : Bool :=
  r.sends m || (match m.body with
    | .done q => c.reqs.any fun x => x.id == q && x.r == r.id
    | _ => false)

/-- The context image of a region (R355). -/
def imageOfRegion (s : State) (id : Nat) (r : Region) : Saved :=
  { id := id, region := r, elems := s.chip.elems.filter fun x => r.holds x.1, slots := imageSlots s r, sides := imageSides s r,
    qs := s.chip.qs.filter fun x => r.holds x.1, mats := s.chip.mats.filter fun x => r.holds x.1,
    aps := s.chip.aps.filter fun x => r.holds x.1,
    mills := s.chip.mills.flatMap fun x => (x.2.filter fun y => ownMill r x.1 y.1).map fun y => (x.1, y.1, y.2),
    rings := s.chip.rings.filter fun g => r.holds g.tile, pushes := s.chip.pushes.filter fun x => r.holds x.src || r.holds x.tile,
    net := s.chip.net.filter (imageMsg s.chip r), reqs := s.chip.reqs.filter fun q => q.r = r.id,
    walks := s.chip.walks.filter fun w => r.holds w.p, barriers := s.chip.barriers.filter (ownBarrier r),
    fwaits := s.chip.fwaits.filter fun w => w.q.ofRegion r, purges := s.chip.purges.filter fun x => x.r = r.id,
    frames := r.reserved, spad := imageLines s r, sram := imageBlocks s r }

/-- What has gone into the image is no longer in the machine; the region keeps its units and frames until the image is
complete. -/
def liftOut (r : Region) (c : Chip) : Chip :=
  { c with
    elems := c.elems.filter fun x => !r.holds x.1,
    qs := c.qs.filter fun x => !r.holds x.1,
    mats := c.mats.filter fun x => !r.holds x.1,
    aps := c.aps.filter fun x => !r.holds x.1,
    mills := c.mills.map (stopMills r),
    rings := c.rings.filter fun g => !r.holds g.tile,
    pushes := c.pushes.filter fun x => !(r.holds x.src || r.holds x.tile),
    net := c.net.filter fun m => !imageMsg c r m,
    reqs := c.reqs.filter fun q => q.r ≠ r.id,
    walks := c.walks.filter fun w => !r.holds w.p,
    barriers := c.barriers.filter fun b => !ownBarrier r b,
    fwaits := c.fwaits.filter fun w => !w.q.ofRegion r,
    purges := c.purges.filter fun x => x.r ≠ r.id }

/-- The lines that the save engine is to read, as cells that may hold an error. -/
def saveCells (s : State) (r : Region) : List BadData :=
  (dirtyLines s r).map .spadLine ++ (cluRanges r).flatMap fun y => (linesOf y.1 y.2).map .sramLine

/-- The tile of a scratchpad line, the memory port of the cluster of a line of SRAM. -/
def cellPlace (c : BadData) : Pos :=
  match c with
  | .spadLine l => let t := l * 32 / spadBytes; ⟨t / 32 / 20, t / 32 % 20, t % 32, 0⟩
  | .sramLine l => let u := l * 32 / sramBytes; memoryPort (cluster (u / 20) (u % 20))
  | _ => dieUnit 0

/-- The byte offset in a handle's storage of a line on a tile or in a cluster, when it holds it. -/
def lineOffset (e : HandleEntry) (c : BadData) : Option Nat :=
  match c with
  | .spadLine l => if e.valid ∧ e.level = 0 ∧ (e.rep ∨ e.home = cellPlace c) then
      ((List.range (e.ext / 32)).find? fun i => spadAddr e (cellPlace c) (32 * i) = 32 * l).map (32 * ·) else none
  | .sramLine l =>
      let a := sramAddr e (cellPlace c) 0
      if e.valid ∧ e.level = 1 ∧ (e.rep ∨ cluOf e.home = cluOf (cellPlace c)) ∧ a ≤ 32 * l ∧ 32 * l < a + e.ext then some (32 * l - a) else none
  | _ => none

/-- LOC of a record about a line of a region's storage: its handle and byte offset as in CHKADDR (R194, R371). -/
def lineLoc (r : Region) (c : BadData) : Word :=
  ((r.handles.findSome? fun h => (lineOffset h.2 c).map fun o => place h.1 56 ||| place o 0)).getD 0

/-- The save engine meets data that cannot be corrected: the abort that its report brings about ends the save (R370, R371, R373). -/
def saveAbort (r : Region) : Prog := fun s =>
  forSome ((saveCells s r).find? s.chip.bad.contains) (fun c => andThen
    (logHardware (cellPlace c).die 0 r.part true (cellPlace c) (lineLoc r c) r.run 0)
    (control (cellPlace c) (controlPoint r.homeClu) (.abort r.id ⟨true, none, dieUnit r.home, 0, 0, none⟩))) s

/-- CAPTURE_BEGIN: the image is taken; it is complete when lines and blocks have been moved and, after a free time, the records
whose size the spec does not give (assumption 24). -/
def captureBegin (k : Nat) : Prog :=
  withFree fun i => withId fun id => fun s =>
    forSome (regionAt s k) (fun r =>
      let n := copyTime r (dirtyLines s r) + Config.delay i
      seqAll [
        eff (.saveFrames id r.reserved),
        saveAbort r,
        upd (fun c => { liftOut r c with saved := c.saved ++ [imageOfRegion s id r] }),
        updRegion k fun y => { y with phase := .capturing (s.fc + n) }]) s

/-- SAVE_COMPLETE may be made. -/
def saveDone (s : State) (k : Nat) : Bool :=
  match regionAt s k with
  | some r => (match r.phase with | .capturing t => decide (t ≤ s.fc) | _ => false) && !reportsTo s k
  | none => false

/-- The 64-byte units an image takes for lines and blocks, over all clusters, and a free number for its records (R354, R355). -/
def imageUnits (v : Saved) (extra : Nat) : Nat :=
  ((touched v.region.rects).map fun c => (bytesIn v.region (v.spad.map (·.1)) c + 63) / 64).sum + extra

/-- The bytes of an image stand in the partition's save area in HBM. Where in the area they stand is free, and so are they: the
spec gives no format, and they are encrypted under the partition's key (R293, R354; assumption 54). -/
def writeImage (v : Saved) : Prog :=
  withFree fun i => withFree fun j => fun s =>
    match partAt s v.region.part with
    | none => []
    | some x =>
      let len := min x.setup.saveLen (64 * imageUnits v (Config.delay i))
      let at' := x.setup.saveBase + Config.delay j % (x.setup.saveLen - len + 1)
      eff (.hbm at' (outsideBytes i at' len)) s

/-- SAVE_COMPLETE: the image stands in the save area, the units are released, the share has the instance to place again, and the
event is written (R354). -/
def saveComplete (k : Nat) : Prog := fun s =>
  forSome (regionAt s k) (fun r => forSome (s.chip.saved.find? fun v => v.region.id = k) fun v => seqAll [
    writeImage v,
    regionEvent r (r.reason.getD 0x23) r.rcyc,
    updSaved k (fun w => { w with region := { r with phase := .halting } }),
    releaseRegion k,
    forSome (shareOfRegion s r) fun x => updShare x.id fun y => { y with saved := y.saved ++ [v.id] }]) s

/-! ## Resume (R356 to R358) -/

/-- The share that has a saved instance, and its place in its die's pool. -/
def shareOfSaved (s : State) (v : Saved) : Option Share := s.chip.shares.find? fun x => x.saved.contains v.id

/-- No share before one in its die's pool fits now (R331, R332). -/
def noneBefore (s : State) (x : Share) : Bool :=
  (pool s x.die).all fun y => poolKey s x ≤ poolKey s y || !shareFits s y

/-- A saved instance held a tile that has left the logical tile map (R356). -/
def tileLost (s : State) (v : Saved) : Bool := (tilesOf v.region.rects).any s.gone.contains

/-- The saved instance of a region that holds no unit any more. -/
def savedAt (s : State) (k : Nat) : Option Saved :=
  if (regionAt s k).isSome then none else s.chip.saved.find? fun v => v.region.id = k

/-- RESUME may be made: the instance cannot be resumed at all, or its place is free and it is its turn. -/
def resumeEnabled (s : State) (k : Nat) : Bool :=
  match savedAt s k with
  | some v => (match shareOfSaved s v with
    | some x => tileLost s v || (placing s && savedFits s v && noneBefore s x)
    | none => false)
  | none => false

/-- The error of a region that ends by a kill, or on a lost tile (R356, R361). -/
def killReport (r : Region) : ErrorReport := ⟨codeEkill, controlPoint r.homeClu, 0, 0, 0⟩

/-- A saved instance is discarded and ends with EKILL (R356, R361). -/
def discardSaved (v : Saved) : Prog := fun s =>
  let r := { v.region with errTime := timeNs s }
  seqAll [
    eff (.dropSaved v.id),
    upd (fun c => { c with
      saved := c.saved.filter fun x => x.id ≠ v.id,
      barriers := c.barriers.map (fun b => { b with held := b.held.filter fun w => w.2.r ≠ r.id }),
      shares := c.shares.map fun x => { x with saved := x.saved.filter fun i => i ≠ v.id } }),
    endWithError r (killReport r)] s

/-- A slot as a resume reinstalls it: the image's tables, or those WSET had written, with the saved side-table groups (R357). -/
def restoredSlot (v : Saved) (fc : Nat) (u : Pos) (cfg : Nat) : CfgSlot :=
  let r := v.region
  let base : CfgSlot := ((v.slots.find? fun x => x.1 = u ∧ x.2.1 = cfg).map fun x => x.2.2).getD
    { st := .pinned, key := some (r.part, r.imageVa, cfg), tables := ((configOf r.image cfg).map fun cf => unitTables r.image r.rects cf u).getD [],
      written := false, used := fc }
  { base with
    st := .pinned, used := fc,
    tables := base.tables.map fun t =>
      let saved := v.sides.filter fun y => y.1 = { u with elem := t.elem } ∧ y.2.1 = cfg
      { t with side := saved.foldl (fun l y => y.2.2.2 ++ l.filter fun z => z.1 / 4 ≠ y.2.2.1) t.side } }

/-- A unit as a resume leaves it. -/
def restoreUnit (v : Saved) (fc : Nat) (u : Pos) (x : UnitState) : UnitState :=
  let r := v.region
  let y := (r.slotMap.filter fun z => z.1 = u).foldl (fun (y : UnitState) z => y.setSlot z.2.2 fun _ => restoredSlot v fc u z.2.1) x
  { y with region := some r.id, powered := usedElems r.image r.rects u, active := (slotFor r u r.acfg).getD 0 }

/-- An element as a resume leaves it: clean, with no frame parked at a YIELD (R357). -/
def restoreElem (e : Elem) : Elem :=
  { e with
    dirty := [], sideDirty := [],
    parked := (e.parked.map fun x => (x.1, { x.2 with yld := false })).filter fun x => x.2.parks }

/-- Scratchpad as a resume leaves it: saved lines, the rest of the region's tiles zero, clean, with the region's owner tag
(R195, R196, R355). -/
def restoreSpad (v : Saved) : Prog :=
  let r := v.region
  seqAll [
    forEach (tilesOf r.rects) (fun t => eff (.clearSpad (tileNo t * spadBytes) spadBytes)),
    forEach v.spad (fun x => eff (.spad (x.1 * 32) x.2)),
    upd (fun c =>
      let ts := (tilesOf r.rects).map tileNo
      { c with
        spadOwner := v.spad.foldl (fun m x => setOwner x.1 1 r.part m) c.spadOwner,
        spadDirty := c.spadDirty.filter fun l => !ts.contains (l * 32 / spadBytes) })]

/-- The blocks of clu handles as a resume leaves them. -/
def restoreSram (v : Saved) : Prog :=
  andThen
    (forEach (cluRanges v.region) fun y => andThen (eff (.clearSram y.1 y.2)) (tagSram y.1 y.2 v.region.part))
    (forEach v.sram fun x => eff (.sram x.1 x.2))

/-- Slots of a request taken anew for its parts (R272). -/
def reslot (s : State) (q : MemReq) : MemReq :=
  match takeSlots s (cluOf q.p) (q.parts.countP fun p => p.slot.isSome) with
  | some free =>
    let x := q.parts.foldl (fun (x : List Part × List Nat) p => match p.slot, x.2 with
      | some _, k :: rest => (x.1 ++ [{ p with slot := some k }], rest)
      | _, l => (x.1 ++ [p], l)) ([], free)
    { q with parts := x.1 }
  | none => q

/-- An answered fault is applied to its part: resume translates again and lowers the frame's PFC once the replay no longer faults,
reject ends the region with the FID (R290, R359, R362). -/
def applyAnswer (f : FaultRec) : Prog :=
  andThen (upd fun c => { c with faults := c.faults.filter fun x => x.fid ≠ f.fid })
    (reading (reqAt · f.req) fun x => forSome x fun q =>
      match f.answer with
      | some true => andThen (updPart q.id f.j fun p => { p with owes := !q.dead }) (retranslate q.id f.j)
      | some false => seqAll [errReq q codeEprot (nat64 f.fid), killReq q.id, endPart q.id f.j]
      | none => skip)

/-- The wakes that barrier units kept for a region are delivered (R336, R357). -/
def deliverWakes (k : Nat) : Prog := fun s =>
  forEach (s.chip.barriers.filter fun b => b.held.any fun w => w.2.r = k) (fun b =>
    andThen (putBarrier { b with held := b.held.filter fun w => w.2.r ≠ k }) (sendWakes b (b.held.filter fun w => w.2.r = k))) s

/-- Everything of an image back in the machine (R355, R357). -/
def putBack (v : Saved) (c : Chip) : Chip :=
  { c with
    elems := c.elems.filter (fun x => !v.region.holds x.1) ++ v.elems.map fun x => (x.1, restoreElem x.2),
    qs := c.qs ++ v.qs,
    mats := c.mats ++ v.mats.map fun x => (x.1, { x.2 with abandon := false }),
    aps := c.aps ++ v.aps,
    mills := v.mills.foldl (fun m x => modKey [] (cluOf x.1) (setKey x.2.1 x.2.2) m) c.mills,
    rings := c.rings ++ v.rings,
    pushes := c.pushes ++ v.pushes,
    net := c.net ++ v.net,
    walks := c.walks ++ v.walks,
    barriers := c.barriers.filter (fun b => !ownBarrier v.region b) ++ v.barriers,
    fwaits := c.fwaits ++ v.fwaits,
    purges := c.purges ++ v.purges }

/-- The region of a resumed instance while its configurations are installed again, after the wake of its units (R110, R357). -/
def resumedRegion (s : State) (v : Saved) : Region :=
  let r := v.region
  { r with
    phase := .loading r.image.configs.length (s.t18 + wakeTime s r + 36000 * r.image.configs.length),
    reason := none, kept := v.spad, patMap := (takePatterns s r.image r.rects).getD [], dispatched := s.nextId }

/-- A unit that a saved instance has again; its slots are loading (R357). -/
def reclaimUnit (v : Saved) (u : Pos) (x : UnitState) : UnitState :=
  let r := v.region
  let y := (r.slotMap.filter fun z => z.1 = u).foldl (fun (y : UnitState) z =>
    y.setSlot z.2.2 fun c => { c with st := .loading, key := some (r.part, r.imageVa, z.2.1), tables := [] }) x
  { y with region := some r.id, powered := usedElems r.image r.rects u }

/-- The place of an instance is its own again and its configurations are installed again (R356, R357, step 1); its image stays
where it is until they are. -/
def resumeSaved (v : Saved) : Prog :=
  withId fun _ => fun s =>
    let r := resumedRegion s v
    seqAll [
      upd (fun c => { c with
        regions := c.regions ++ [r],
        reserves := c.reserves.filter fun z => z.share ≠ r.share,
        shares := c.shares.map fun x => if x.saved.contains v.id then
          { x with saved := x.saved.filter fun j => j ≠ v.id, noFit := none } else x }),
      forEach r.units (fun u => updUnit u (reclaimUnit v u)),
      loadPatterns r] s

/-- The writing back of an image begins: 64 bytes per fc in each cluster, and a free time for its records (R357, step 2). -/
def beginRestore (k : Nat) (v : Saved) : Prog :=
  withFree fun i => fun s => updRegion k (fun y => { y with
    phase := .restoring (s.fc + copyTime v.region (v.spad.map (·.1)) + Config.delay i) }) s

/-- The rest of a resume (R357, steps 2 to 6): everything is back, YLD is clear, saved tokens stand where they stood, answered
faults and held wakes are delivered, YR is clear, RES rises and the region runs. -/
def restoreImage (k : Nat) (v : Saved) : Prog := fun s =>
  let r := v.region
  seqAll [
    upd (fun c => { putBack v c with saved := c.saved.filter fun x => x.id ≠ v.id }),
    forEach r.units (fun u => updUnit u (restoreUnit v s.fc u)),
    eff (.loadFrames v.id),
    forEach r.reserved (fun f => updFrame f (.yld false)),
    restoreSpad v,
    restoreSram v,
    forEach v.reqs (fun q => fun s' => [.chip { s'.chip with reqs := s'.chip.reqs ++ [reslot s' q] }]),
    (fun s' => forEach (s'.chip.faults.filter fun f => f.answer.isSome && v.reqs.any fun q => q.id = f.req) applyAnswer s'),
    deliverWakes k,
    updRegion k (fun y => { y with
      phase := .running, yr := false, rem := 0, yrFor := none, res := if y.res = 255 then y.res else y.res + 1 }),
    (fun s' => forSome (regionAt s' k) (fun y => regionEvent y 0x24 y.rcyc) s')] s

/-- RESUME. -/
def resume (k : Nat) : Prog := fun s =>
  forSome (savedAt s k) (fun v => if tileLost s v then discardSaved v else resumeSaved v) s

/-! ## The end of an install (R110, R357, R374) -/

/-- INSTALL_COMPLETE may be made: a configuration is loaded, the root frame's time has come, a rollback's reinstall has ended with
nothing of the region on its way, or a resumed instance's configurations or its image are back. -/
def loadDone (s : State) (k : Nat) : Bool :=
  match regionAt s k with
  | some r => match r.phase with
    | .loading c t => t ≤ s.t18 && (r.rootFrame.isNone || c != 0 || (drained s k && matricesStill s r))
    | .rooting t => t ≤ s.fc
    | .restoring t => t ≤ s.fc
    | _ => false
  | none => false

/-- INSTALL_COMPLETE (R32, R110); the end of a rollback (R374) and of a resume (R357). -/
def installComplete (k : Nat) : Prog := fun s =>
  match regionAt s k with
  | none => []
  | some r =>
    match r.phase, r.rootFrame with
    | .loading c _, none => andThen (loadConfig r c) (loadNext k) s
    | .rooting _, _ => startRegion k s
    | .loading c _, some _ =>
      if c = 0 then
        seqAll [
          resetRegion k,
          updRegion k (fun y => { y with rbk := if y.rbk = 255 then y.rbk else y.rbk + 1 }),
          regionEvent r 0x25 r.rcyc,
          startRegion k] s
      else forSome (s.chip.saved.find? fun v => v.region.id = k) (beginRestore k) s
    | .restoring _, _ => forSome (s.chip.saved.find? fun v => v.region.id = k) (restoreImage k) s
    | _, _ => []

/-! ## Region errors (R361) and the watchdog (R363) -/

/-- A region error has reached the control point, the first there of those that have (R361). -/
def errorEnabled (s : State) (m : Nat) : Bool :=
  delivered s m (fun b => match b with | .error _ _ => true | _ => false) &&
    (match msgAt s m with
      | some x => firstAt s x fun b => match b with | .error _ _ => true | _ => false
      | none => false)

/-- REGION_ERROR. -/
def regionError (m : Nat) : Prog := fun s =>
  match (msgAt s m).map (·.body) with
  | some (Body.error r e) => andThen (dropMsg m) (takeRegionError r e) s
  | _ => []

/-- WATCHDOG may be made: 2^20 fc in which nothing moved (R363). -/
def watchdogEnabled (s : State) (k : Nat) : Bool :=
  match regionAt s k with
  | some r => decide (2 ^ 20 ≤ r.wdog) && r.phase == .running && r.error.isNone && !r.yr
  | none => false

/-- WATCHDOG: EDEADLOCK with the home control point as its source (R363). -/
def watchdog (k : Nat) : Prog := fun s =>
  forSome (regionAt s k) (fun r => takeRegionError k ⟨codeEdeadlock, controlPoint r.homeClu, 0, 0, 0⟩) s

/-! ## The steps -/

/-- DEADLINE_EXPIRY (R351, R353). -/
def execDeadlineExpiry (r : Nat) (s : State) : Host.Outcome State Fault Refusal :=
  actWhen (deadlineEnabled s r) "DEADLINE_EXPIRY" (haltFor 0x23 r) s
/-- COOPERATIVE_SAVE (R351). -/
def execCooperativeSave (r : Nat) (s : State) : Host.Outcome State Fault Refusal :=
  actWhen (cooperativeEnabled s r) "COOPERATIVE_SAVE" (haltFor 0x22 r) s
/-- CAPTURE_BEGIN (R353). -/
def execCaptureBegin (r : Nat) (s : State) : Host.Outcome State Fault Refusal :=
  actWhen (captureEnabled s r) "CAPTURE_BEGIN" (captureBegin r) s
/-- SAVE_COMPLETE (R354). -/
def execSaveComplete (r : Nat) (s : State) : Host.Outcome State Fault Refusal :=
  actWhen (saveDone s r) "SAVE_COMPLETE" (saveComplete r) s
/-- YR_WITHDRAW (R352). -/
def execYrWithdraw (r : Nat) (s : State) : Host.Outcome State Fault Refusal :=
  actWhen (withdrawEnabled s r) "YR_WITHDRAW" (withdraw r) s
/-- RESUME (R357). -/
def execResume (r : Nat) (s : State) : Host.Outcome State Fault Refusal :=
  actWhen (resumeEnabled s r) "RESUME" (resume r) s
/-- INSTALL_COMPLETE (R110). -/
def execInstallComplete (r : Nat) (s : State) : Host.Outcome State Fault Refusal :=
  actWhen (loadDone s r) "INSTALL_COMPLETE" (installComplete r) s
/-- REGION_ERROR (R361). -/
def execRegionError (m : Nat) (s : State) : Host.Outcome State Fault Refusal :=
  actWhen (errorEnabled s m) "REGION_ERROR" (regionError m) s
/-- WATCHDOG (R363). -/
def execWatchdog (r : Nat) (s : State) : Host.Outcome State Fault Refusal :=
  actWhen (watchdogEnabled s r) "WATCHDOG" (watchdog r) s

end Sys2Proof.Machine
end

