-- ==== Sys2Proof/Machine/Health.lean ====
section
/-! DEFINITION. Errors, containment and field test (spec/15 R369 to R380): abort completions and the choice between rollback and
stop, corrected errors and their window, the kiln. -/

namespace Sys2Proof.Machine

open Sys2Proof

/-! ## Rollback or stop (R370, R372 to R374) -/

/-- An abort completion or a mismatch report has reached the control point, the first there of those that have. -/
def abortEnabled (s : State) (m : Nat) : Bool :=
  delivered s m (fun b => match b with | .abort _ _ => true | _ => false) &&
    (match msgAt s m with
      | some x => firstAt s x fun b => match b with | .abort _ _ => true | _ => false
      | none => false)

/-- The streams of a region's Q elements with their tiles, of its image too while it is being saved. -/
def streamsOf (s : State) (r : Region) : List (Pos × Stream) :=
  (s.chip.qs.filter fun q => r.holds q.1).flatMap (fun q => q.2.streams.map fun x => (unitOf q.1, x)) ++
    (s.chip.saved.filter fun v => v.region.id = r.id).flatMap fun v => v.qs.flatMap fun q => q.2.streams.map fun x => (unitOf q.1, x)

/-- The rings that an abort has met, each by its tile and its handle (R373): the one that its report names, and that of the tile whose
scratchpad aborted an access through the handle. -/
def hitRings (s : State) (e : AbortReport) : List (Pos × Nat) :=
  e.window.toList ++ (if e.abort then (match e.req.bind (reqAt s) with
    | some q => if q.level = 0 ∧ (q.parts.any fun p => p.st == .aborted) then [(unitOf q.home, q.h)] else []
    | none => []) else [])

/-- A LAUNCH of a region that it has issued since its replay point has been neither accepted nor refused (R372). -/
def launchPending (s : State) (r : Region) : Bool :=
  (s.chip.qs.any fun q => q.2.launches.any fun l => l.r == r.id && !l.past) ||
    (s.chip.saved.any fun v => v.qs.any fun q => q.2.launches.any fun l => l.r == r.id && !l.past) ||
    s.chip.launchQ.any fun l => l.req.any fun q => q.r == r.id && !q.past

/-- NR stands (R372): it is set at issue, so a LAUNCH that is still to be accepted counts (assumption 117). -/
def nrSet (s : State) (r : Region) : Bool := r.nr || launchPending s r

/-- The region can be rolled back (R373): every input stream that has sent a block since its mark has a replay window that no abort has
met. -/
def canRollBack (s : State) (r : Region) : Bool :=
  !nrSet s r && r.rollbacks < 3 &&
    (streamsOf s r).all fun x => !x.2.input || x.2.cursor ≤ x.2.mark || (x.2.h2 != 0 && !r.windowHits.contains (x.1, x.2.h2))

/-- A rollback of the region is under way (R374). -/
def rollingBack (r : Region) : Bool :=
  match r.phase with
  | .loading 0 _ => r.rootFrame.isSome
  | _ => false

/-- When a rollback that begins now has its configurations reinstalled (R110, R374). -/
def reinstallEnd (s : State) (r : Region) : Nat := s.t18 + 36000 * r.image.configs.length

/-- The decision on a report: a rollback, none for one of the fc in which the rollback began, or a stop (R373). -/
def decideReport (k : Nat) (e : AbortReport) : Prog := fun s =>
  forSome (regionAt s k) (fun r =>
    if r.error.isSome then takeRegionError k ⟨if e.abort then codeEue else codeEsdc, e.src, e.entry, e.tag, 0⟩
    else if r.phase = .loading 0 (reinstallEnd s r) ∧ rollingBack r then skip
    else if canRollBack s r then beginRollback k (reinstallEnd s r)
    else takeRegionError k ⟨if e.abort then codeEue else codeEsdc, e.src, e.entry, e.tag, 0⟩) s

/-- The pool entries of an aborted request are freed; parts of it that are still on their way are performed (R278, R370). -/
def freeAborted (k : Nat) : Prog := fun s =>
  forSome (reqAt s k) (fun q =>
    let parts := q.parts.map fun p => if p.st = .aborted then { p with st := .performed, slot := none } else p
    if parts.all fun p => p.st = .performed then dropReq k else updReq k fun x => { x with parts := parts }) s

/-- ABORT_COMPLETION. -/
def abortCompletion (m : Nat) : Prog := fun s =>
  match (msgAt s m).map (·.body) with
  | some (Body.abort k e) =>
    seqAll [
      dropMsg m,
      (fun s' => updRegion k (fun y => { y with windowHits := y.windowHits ++ hitRings s' e }) s'),
      decideReport k e,
      forSome e.req freeAborted] s
  | _ => []

/-! ## Errors in an element's storage, in buffers and caches (R369, R370) -/

/-- The element that meets an error in its stores, its buffers or its cluster's adjunct cache, and the entry and the tag it is charged
to; an entry of a store or a record has no tag (assumption 89). -/
def badHolder (s : State) (d : BadData) : Option (Pos × Nat × Tag) :=
  match d with
  | .entry p k => ((elemAt s p).entries.find? fun x => x.id = k).map fun x => (p, x.instr, 0)
  | .side p k => if k < 16 then some (p, 0, 0) else none
  | .token m => match (msgAt s m).filter fun x => x.body = .token with
    | some x => some (x.dst, routeInstr (x.hdr.extractLsb' 0 64), headerTag x.hdr)
    | none => s.chip.elems.findSome? fun y => (y.2.out.find? fun x => x.id = m).map fun x => (y.1, 0, headerTag x.hdr)
  | .adjunct p l => ((s.chip.adjunct[l]?).filter fun x => classOf p = some .m ∧ x.die = p.die ∧ x.clu = p.clu).map fun _ => (p, 0, 0)
  | _ => none

/-- Something of an instruction and a tag that has its place in an entry of a store. -/
def inEntry (p : Pos) (e : Elem) (k : Nat) (wide : Bool) (instr side : Nat) (tag : Tag) : Bool :=
  (entriesOf e (keyOf ((classOf p).getD .s) wide instr side tag)).any fun x => x.id == k

/-- A held result or a LOOPN record of an entry: its operation goes with the entry, and its frame counts it no more (R79). -/
def heldIn (p : Pos) (e : Elem) (k : Nat) : List Tag × Elem :=
  let ops := e.pipe.filter fun o => (o.wait == .held || o.wait == .yielded || o.wait == .barrier) && inEntry p e k false o.entry 3 o.tag
  let loops := e.loops.filter fun o => inEntry p e k false o.entry 3 o.tag
  (ops.map (·.tag) ++ loops.map (·.tag), { e with
    pipe := e.pipe.filter fun o => !ops.contains o,
    loops := e.loops.filter fun o => !loops.contains o })

/-- What held the data has it no longer: an entry's operands, its held result and its record, a token. -/
def discardBad (d : BadData) : Prog :=
  match d with
  | .entry p k => reading (fun s => heldIn p (elemAt s p) k) fun h => andThen
      (updElem p fun e =>
        { h.2 with
          slots := e.slots.filter fun y => !inEntry p e k y.wide y.instr y.side y.tag,
          entries := e.entries.filter fun x => x.id ≠ k })
      (forEach h.1 fun t => updFrame (frameOf t) (.pend false))
  | .token m => reading (fun s => (s, msgAt s m)) fun x => match x.2 with
      | some y => andThen (replyLost y) (dropMsg m)
      | none => forSome (badHolder x.1 d) fun h => updElem h.1 fun e => { e with out := e.out.filter fun y => y.id ≠ m }
  | .adjunct _ l => upd fun c => { c with adjunct := c.adjunct.eraseIdx l }
  | _ => skip

/-- An error of an element's own: the data is discarded, a record written, and an abort completion sent for the element's region
(R370, R371; the record's TYPE and LOC: assumption 89). -/
def elementAbort (d : BadData) (p : Pos) (entry : Nat) (tag : Tag) : Prog :=
  reading (regionOf · p) fun r => seqAll [
    discardBad d,
    logHardware p.die 0 ((r.map (·.part)).getD 0) r.isSome p 0 ((r.map (·.run)).getD 0) tag,
    forSome r fun r => control p (controlPoint r.homeClu) (.abort r.id ⟨true, none, p, entry, tag, none⟩)]

/-- The j-th datum of a holder. -/
def badDatum (q : BadHolder) (j : Nat) : BadData :=
  match q with
  | .access k => .access k j
  | .block => .block j
  | .spadLine => .spadLine j
  | .sramLine => .sramLine j
  | .entry p => .entry p j
  | .side p => .side p j
  | .token => .token j
  | .result p => .result p j
  | .adjunct p => .adjunct p j

/-- UNCORRECTABLE_DATA may happen: at a part that is about to read its block, in a block or line that exists, at an element that holds
the data, in a result that has not been sent. -/
def uncorrectableEnabled (s : State) (d : BadData) : Bool :=
  match d with
  | .access q j => uncorrectableAt s q j
  | .block b => decide (b < 2 ^ 34)
  | .spadLine l => decide (l < 2560 * (spadBytes / 32))
  | .sramLine l => decide (l < 80 * (sramBytes / 32))
  | .result p k => (opAt s p k).isSome
  | _ => (badHolder s d).isSome

/-- A token on a link or in a switch is damaged: in its residues or in its RID, and so found where they are checked (R23, R24, R369;
which: assumption 65). -/
def damageToken (m : Nat) : Prog :=
  withFree fun i => updMsg m fun x => if Config.pick i % 2 = 0 then { x with res := ~~~x.res } else { x with hdr := x.hdr ^^^ (1#72 <<< 64) }

/-- A token is on its way, past its source's buffer and not yet in its element's. -/
def onTheWay (s : State) (m : Nat) : Bool := (msgAt s m).any fun x => x.body == .token && !arrived s x

/-- UNCORRECTABLE_DATA: found by the reader of a block, or left in a block or line for the next that reads it; a result whose residue
does not match is discarded when it completes, a token on a link where its residues or its RID are checked (R369, R370). -/
def uncorrectableData (d : BadData) : Prog :=
  match d with
  | .access q j => uncorrectable q j
  | .result p k => updOp p k fun x => { x with bad := true }
  | .entry _ _ => reading (badHolder · d) fun x => forSome x fun y => elementAbort d y.1 y.2.1 y.2.2
  | .side _ _ => reading (badHolder · d) fun x => forSome x fun y => elementAbort d y.1 y.2.1 y.2.2
  | .token m => reading (fun s => (onTheWay s m, badHolder s d)) fun x =>
      if x.1 then damageToken m else forSome x.2 fun y => elementAbort d y.1 y.2.1 y.2.2
  | .adjunct _ _ => reading (badHolder · d) fun x => forSome x fun y => elementAbort d y.1 y.2.1 y.2.2
  | cell => upd fun c => { c with bad := insertNew cell c.bad }

/-! ## Corrected errors (R375) -/

/-- The die of a unit, its place in a record, its number there. -/
def namedPlace (u : UnitName) : Pos :=
  match u with
  | .tile p => unitOf p
  | .ap p => unitOf p
  | .sram d c => memoryPort (cluster d c)
  | .pc c => ⟨ctrlDie c, 0, c % 64, c / 64 % 4⟩

/-- A tile is counted against TTHR. -/
def namedTile (u : UnitName) : Bool :=
  match u with
  | .tile _ => true
  | _ => false

/-- The unit exists. -/
def namedExists (u : UnitName) : Bool :=
  match u with
  | .tile p => p.die < 4 && p.clu < 20 && p.unit < 32 && p.elem == 0
  | .ap p => p.die < 4 && p.clu < 20 && 32 ≤ p.unit && p.unit < 36 && p.elem == 0
  | .sram d c => d < 4 && c < 20
  | .pc c => c < 1024

/-- CECFG of a die as it was last written, and as it is in force: from the next correction on (R375). -/
def cecfgReset : Word := place 24 32 ||| place 64 16 ||| place 256 0
def cecfgAt (s : State) (d : Nat) : Word := getKey cecfgReset d s.chip.cecfg
def cecfgNow (s : State) (d : Nat) : Word := getKey cecfgReset d s.chip.cecfgNow

/-- The windowed count of a unit (R375). -/
def windowed (l : List Nat) : Nat := (l.take 24).sum

/-- A correction in the current bucket. -/
def bump (l : List Nat) : List Nat := (l.headD 0 + 1) :: l.drop 1

/-- An access that can meet an error that is corrected: a request at a node, a token that is about to enter a store, a firing that has
read a store or a side table, a spill or fill of a cellar. -/
inductive MetAccess
  | req (k : Nat)
  | token (m : Nat)
  | op (p : Pos) (k : Nat)
  | entry (p : Pos) (k : Nat)
  deriving DecidableEq, Repr

/-- Tokens in the input buffers of a unit's elements, and its firings that have begun. -/
def elementAccesses (s : State) (u : Pos) : List MetAccess :=
  ((s.chip.net.filter fun m => unitOf m.dst == u && m.body == .token && arrived s m).map fun m => .token m.id) ++
    (s.chip.elems.filter fun e => unitOf e.1 == u).flatMap fun e =>
      (e.2.pipe.filter fun x => x.due.any fun d => s.fc < d).map fun x => .op e.1 x.id

/-- Spills and fills that go on between a cluster's elements and its SRAM. -/
def cellarAccesses (s : State) (c : Pos) : List MetAccess :=
  (s.chip.elems.filter fun e => cluOf e.1 == c).flatMap fun e => (e.2.entries.filter fun x => match x.st with
    | .spilling _ _ => true
    | .filling _ => true
    | _ => false).map fun x => .entry e.1 x.id

/-- The accesses that a correction in a unit may have been met by (R369). -/
def accessesAt (s : State) (u : UnitName) : List MetAccess :=
  let reqs := fun (f : MemReq → Part → Bool) => (s.chip.reqs.filter fun q => q.parts.any (f q)).map fun q => MetAccess.req q.id
  match u with
  | .pc c => reqs fun _ p => p.st == .serving && (p.pa.map ctrlOf) == some c
  | .tile t => (reqs fun q p => q.level == 0 && p.st == .bank && unitOf q.home == unitOf t) ++ elementAccesses s (unitOf t)
  | .sram d c => (reqs fun q p => q.level == 1 && p.st == .bank && cluOf q.home == cluster d c) ++ cellarAccesses s (cluster d c)
  | .ap t => elementAccesses s (unitOf t)

/-- The access that a correction delays: one of those that may have met it, by a free choice (assumption 64). -/
def correctedAt (s : State) (u : UnitName) : Option MetAccess :=
  let l := accessesAt s u
  if l.isEmpty then none else l[Config.pick s.free % l.length]?

/-- An entry whose transfer ends 4 fc later. -/
def StoreEntry.later (x : StoreEntry) : StoreEntry :=
  { x with st := (match x.st with
      | .spilling d w => .spilling (d + 4) w
      | .filling d => .filling (d + 4)
      | y => y) }

/-- An access comes 4 fc later (R369). -/
def delayAccess (a : MetAccess) : Prog := fun s =>
  match a with
  | .req k => updReq k (fun y => { y with back := y.back + 4 }) s
  | .token m => updMsg m (fun y => { y with due := s.fc + 4 }) s
  | .op p k => updOp p k (fun y => { y with due := y.due.map (· + 4) }) s
  | .entry p k => updElem p (fun e => { e with entries := replaceIf (fun x => x.id = k) StoreEntry.later e.entries }) s

/-- The partition that a correction counts for (R406): that of the request that met it, else that of the unit's cluster; none for a
pseudo-channel that serves no request. -/
def correctedPart (s : State) (u : UnitName) : Option Nat :=
  match u, correctedAt s u with
  | _, some (.req k) => (reqAt s k).map (·.part)
  | .pc _, _ => none
  | _, _ => (partOfCluster s (namedPlace u)).map (·.setup.part)

/-- The threshold of a unit, and the change of CECFG that takes effect at a correction; a bucket whose length changes begins then
(R375, assumption 118). -/
def limitOf (u : UnitName) (w : Word) : Nat := if namedTile u then field w 31 16 else field w 15 0
def takeCecfg (d : Nat) : Prog := fun s =>
  let w := cecfgAt s d
  upd (fun c => { c with
    cecfgNow := setKey d w c.cecfgNow,
    bucketNext := if field w 47 32 = field (cecfgNow s d) 47 32 then c.bucketNext else setKey d s.t18 c.bucketNext }) s

/-- A correction raises a unit's windowed count above its threshold (R375): it was not above the one in force, or is not above the one
that was in force till now. -/
def crosses (s : State) (u : UnitName) (old new : Nat) : Bool :=
  let d := (namedPlace u).die
  let limit := limitOf u (cecfgAt s d)
  limit < new && (old ≤ limit || old ≤ limitOf u (cecfgNow s d))

/-- CORRECTED_ERROR: the access that met it comes back 4 fc later (R369); the bucket rises; crossing the threshold writes a record of type 4 and interrupts the host, and a tile is
marked and queued for the kiln (R375). -/
def correctedError (u : UnitName) : Prog := fun s =>
  let old := getKey [] u s.chip.buckets
  let new := bump old
  let d := (namedPlace u).die
  let part := correctedPart s u
  seqAll [
    upd (fun c => { c with buckets := setKey u new c.buckets }),
    takeCecfg d,
    forSome (correctedAt s u) delayAccess,
    eff .free,
    forSome part (fun k => countEvent k (dieUnit d) true 0x19 1),
    onlyIf (crosses s u (windowed old) (windowed new)) (andThen
      (logHardware d 4 (part.getD 0) false (namedPlace u) 0 0 0)
      (match u with
        | .tile p => onlyIf (!s.gone.contains p) (upd fun c => { c with faulty := insertNew (unitOf p) c.faulty })
        | _ => skip))] s

/-- A bucket's length in 1/18 ns: WIN/24 hours, WIN 0 taken as 1 (R375). -/
def bucketTime (s : State) (d : Nat) : Nat := max 1 (field (cecfgNow s d) 47 32) * 3600 * 1000000000 * 18 / 24

/-- BUCKET_ROTATE may be made: the die's current bucket is over. -/
def bucketOver (s : State) (d : Nat) : Bool := d < 4 && decide (getKey 0 d s.chip.bucketNext + bucketTime s d ≤ s.t18)

/-- The first die whose bucket is over. -/
def bucketDue (s : State) : Option Nat := (List.range 4).find? (bucketOver s)

/-- BUCKET_ROTATE: every unit of the die begins a bucket (R375). -/
def bucketRotate (d : Nat) : Prog := fun s =>
  upd (fun c => { c with
    buckets := c.buckets.map (fun x => if (namedPlace x.1).die = d then (x.1, 0 :: x.2.take 23) else x),
    bucketNext := setKey d (getKey 0 d c.bucketNext + bucketTime s d) c.bucketNext }) s

/-! ## The kiln (R377 to R380) -/

/-- The kiln image: a Q element that scans with pattern set 0, and an S element that frees the root frame with the result
(assumption 16: the spec gives the firmware no text). -/
def kilnImage : Image :=
  let code := fun (e : Nat) (ws : List Word32) (entries : List Nat) (routes : List Word) =>
    ({ loc := ⟨0, false, 0, 0, e⟩, words := ws, bodies := [63], entries := entries, routes := routes, side := [], filled := [],
       live := [], vcs := [], params := [] } : ElemCode)
  { sig := some true, level := 0, cost := 0, dies := 1, shape := [⟨0, 0, 1, 1⟩], stages := 1, stageRects := [], ap := [], mill := [],
    patterns := [], sameShape := true,
    configs := [{ elems := [code 18 [0xE600041F#32, 0#32] [0] [placeBit true 63], code 0 [0x060007FF#32] [] []],
                  frames := [], rates := [], handles := [], rings := [] }] }

/-- The kiln's region, when it holds a tile. -/
def kilnRegion (s : State) : Option Region := s.chip.regions.find? (·.kiln)

/-- The partition of a kiln node: that of the tile's group, or 0 (R377). -/
def kilnPart (s : State) (p : Pos) : Nat := ((partOfCluster s p).map fun x => x.setup.part).getD 0

/-- The rectangles of an image with one of them over a tile, at every place where all their tiles pass; the others at their first. -/
def placesOver (home : Nat) (im : Image) (ok : Pos → Bool) (p : Pos) : List (List (Nat × Rect)) :=
  (im.shape.zipIdx.filter fun x => slotDie home x.2 = p.die).flatMap fun x =>
    (origins x.1).filter (fun z => (rectTiles p.die z).contains p && (rectTiles p.die z).all ok) |>.filterMap fun z =>
      im.shape.zipIdx.mapM fun y => if y.2 = x.2 then some (p.die, z) else
        (firstPlace (slotDie home y.2) y.1 ok).map fun w => (slotDie home y.2, w)

/-- A share is able to use a tile now: wherever on it an instance of it would fit, or where a saved one goes on (R377). -/
def takesTile (s : State) (x : Share) (p : Pos) : Bool :=
  ((savedOf s x).any fun v => savedFits s v && v.region.holds p) ||
    (x.open' && (match runAt s x.run, nodeRec s x.run x.node with
      | some run, some n =>
        (match s.chip.images.find? fun z => z.1 = run.part ∧ z.2.1 = n.image with
          | some z => (placesOver x.die z.2.2 (tileFree s run.part (shutFor s x.id)) p).any fun rects => (claimShare s x run n z.2.2 rects s.nextId).isSome
          | none => false)
      | _, _ => false))

/-- A tile's rectangle on its die. -/
def tileRect (p : Pos) : Rect := ⟨8 * (p.clu % 4) + p.unit % 8, 4 * (p.clu / 4) + p.unit / 8, 1, 1⟩

/-- The kiln node of a tile, placed there (R16, R377). -/
def kilnClaim (s : State) (p : Pos) (id : Nat) : Option Region :=
  claimAt s kilnImage { blankRegion id (kilnPart s p) kilnImage 0 [(p.die, tileRect p)] with
    priv := true, kiln := true, shDie := p.die, dispatched := id }

/-- The first queued tile, when the kiln node may be placed on it now: free, reserved for none (R333), and of no use to any share of
its die's pool (R377). -/
def kilnTile (s : State) : Option (Pos × Region) :=
  (s.chip.faulty.head?).bind fun p =>
    if s.chip.kiln.en && (kilnRegion s).isNone && placing s && (unitAt s p).region.isNone && !s.gone.contains p &&
        !s.chip.power.gated.contains (cluOf p) && !(s.chip.reserves.any fun z => z.units.contains p) &&
        ((pool s p.die).all fun x => !takesTile s x p) then
      (kilnClaim s p s.nextId).map fun r => (p, r)
    else none

/-- KILN_SUBMIT: the node is placed, woken and installed like any other (R110, R377). -/
def kilnSubmit : Prog := fun s =>
  match kilnTile s with
  | none => []
  | some (p, _) => withId (fun id => fun s' => forSome (kilnClaim s' p id) (fun r => andThen (claimRegion r)
      (upd fun c => { c with kiln := { c.kiln with tile := some p } })) s') s

/-- An event of the kiln (R409): types 0x30 to 0x33. -/
def kilnEvent (p : Pos) (kind : Nat) (sig : BitVec 32) : Prog := fun s =>
  emitEvent { time := timeNs s, kind := kind, part := kilnPart s p, src := dieUnit 0, run := 0,
              arg0 := place p.die 11 ||| place p.clu 6 ||| place p.unit 0, arg1 := sig.zeroExtend 64 } s

/-- The result of a KILN: signature above, code below (R379). -/
def kilnResult (sig : BitVec 32) (r : Nat) : Wide := ofWord ((sig.zeroExtend 64 <<< 32) ||| nat64 r)

/-- The region of a firing is exactly its tile. -/
def oneTile (r : Region) (p : Pos) : Bool := r.units == [unitOf p]

/-- KILN fires (R379): refused with 3 at once, or the tile is handed to the scan engine. -/
def kilnTest (o : Ops2) (x : Xh) (f : Firing) : Prog := fun s =>
  match regionOf s f.pos with
  | none => endFiring s
  | some r =>
    if !r.priv then failFiring f codeEsys 0 s
    else if !s.chip.faulty.contains (unitOf f.pos) || !oneTile r f.pos then
      sendAfter f 0xE6 o.ta (sideB s f o.sb) (some 0) (bothOuts o.d0 o.d1 (kilnResult 0 3) false) 0 s
    else
      andThen (kilnEvent (unitOf f.pos) 0x30 0)
        (issueOp f ⟨0xE6, o.ta, sideB s f o.sb, some 0, bothOuts o.d0 o.d1 0 false, 0, .reply, false⟩ (fun k => andThen
          (fun s' => updQ f.pos (fun q => { q with scan := some ⟨k, field (x.f.zeroExtend 64) 3 0, s'.t18 + 3600000, false⟩ }) s')
          (upd fun c => { c with kiln := { c.kiln with busy := true, tile := some (unitOf f.pos) } }))) s

/-- The scan of a Q element whose time has come: 200 µs, then 2 µs of reinstalling. -/
def scanOver (s : State) (p : Pos) : Bool :=
  match (qAt s p).scan with
  | some x => x.ends ≤ s.t18 && !halted s p
  | none => false

/-- The first Q element whose scan is over. -/
def scanDue (s : State) : Option Pos := (s.chip.qs.map (·.1)).find? (scanOver s)

/-- What a scan leaves of a tile: slots but those kept EMPTY, scratchpad zero with the owner tag of the kiln node's partition, no
ring, table or store; of its elements only the operations of the scanned one, which stand outside the tile's tables (R377). -/
def scanTile (part : Nat) (u : Pos) (keep : Nat → Bool) (scanned : Option Pos) : Prog :=
  seqAll [
    updUnit u (fun x => { x with slots := x.slots.mapIdx fun k c => if keep k then c else CfgSlot.reset }),
    eff (.clearSpad (tileNo u * spadBytes) spadBytes),
    tagSpad (tileNo u * spadBytes) spadBytes (some part) false,
    upd fun c => { c with
      elems := (c.elems.filter fun y => unitOf y.1 ≠ u ∨ some y.1 = scanned).map fun y =>
        if some y.1 = scanned then (y.1, { Elem.reset with pipe := y.2.pipe, out := y.2.out, lastFire := y.2.lastFire }) else y
      qs := (c.qs.filter fun y => unitOf y.1 ≠ u ∨ some y.1 = scanned).map fun y =>
        if some y.1 = scanned then (y.1, { QState.reset with scan := y.2.scan }) else y
      rings := c.rings.filter fun y => y.tile ≠ u
      mats := c.mats.filter fun y => unitOf y.1 ≠ u }]

/-- The verdict on a tile: on a pass the mark goes and the buckets are zero; on a fail the tile leaves the logical tile map
with a record of type 6 (R376, R379). -/
def judge (p : Pos) (sig : BitVec 32) (ok : Bool) : Prog := fun s =>
  seqAll [
    upd (fun c => { c with
      faulty := c.faulty.filter fun q => q ≠ p,
      buckets := if ok then delKey (.tile p) c.buckets else c.buckets,
      kiln := if ok then { c.kiln with pass := c.kiln.pass + 1 } else { c.kiln with fail := c.kiln.fail + 1 } }),
    onlyIf (!ok) (andThen (eff (.removeTile p)) (logHardware p.die 6 (kilnPart s p) false p 0 0 0)),
    kilnEvent p (if ok then 0x31 else 0x32) sig] s

/-- KILN_SCAN_END: the signature is judged; when the configuration is back, the result leaves (R379). -/
def scanEnd (p : Pos) : Prog := fun s =>
  match (qAt s p).scan, regionOf s p with
  | some x, some r =>
    let u := unitOf p
    if !x.scanned then
      withFree (fun i =>
        let sig := Config.kilnCaptured (tileNo u) x.set i
        let ok := sig == Config.kilnExpected x.set
        seqAll [
          scanTile r.part u (fun k => r.slotMap.any fun y => y.1 = u ∧ y.2.2 = k) (some p),
          judge u sig ok,
          updOp p x.op (fun y => { y with outs := y.outs.map fun o => { o with val := kilnResult sig (if ok then 0 else 1) } }),
          upd (fun c => { c with kiln := { c.kiln with busy := false } }),
          updQ p fun q => { q with scan := some { x with scanned := true, ends := s.t18 + 36000 } }]) s
    else andThen (updQ p fun q => { q with scan := none })
      (updOp p x.op fun y => { y with wait := .none, due := some s.fc }) s
  | _, _ => []

/-- A share of at least level ABL needs a tile that the kiln's region holds: to be placed (R332), as the head for the position it
asks for, or for the one it has reserved (R333, R378). -/
def kilnNeeded (s : State) : Bool :=
  match kilnRegion s with
  | some r => s.chip.shares.any fun x => s.chip.kiln.abl ≤ x.effective && (x.open' || !x.saved.isEmpty) && !shareFits s x &&
      ((match positionWithout s x (·.kiln) with
        | some at' => at'.2.1.any r.holds
        | none => false) ||
       (((pool s x.die).head?.any fun y => y.id = x.id) && (match yieldPosition s x with
        | some at' => at'.2.1.any r.holds
        | none => false)) ||
       (s.chip.reserves.any fun z => z.share = x.id && z.units.any r.holds))
  | none => false

/-- KILN_ABORT may be made: a test is under way, or its region is being set up, and no verdict has been given. -/
def kilnAbortEnabled (s : State) : Bool :=
  placing s && kilnNeeded s && (s.chip.qs.all fun y => match y.2.scan with
    | some x => !x.scanned
    | none => true)

/-- KILN_ABORT: the scan stops, the tile is reset and free, the region ends without an error, the tile stays queued (R378). -/
def kilnAbort : Prog := fun s =>
  forSome (kilnRegion s) (fun r => seqAll [
    forEach r.units (fun u => kilnEvent u 0x33 0),
    forEach r.units (fun u => scanTile r.part u (fun _ => false) none),
    releaseRegion r.id,
    upd fun c => { c with kiln := { c.kiln with busy := false, tile := none, abort := c.kiln.abort + 1 } }]) s

/-! ## The steps -/

/-- KILN (R379). -/
def execKiln (o : Ops2) (x : Xh) (s : State) : Host.Outcome State Fault Refusal := onFiring (kilnTest o x) s
/-- UNCORRECTABLE_DATA (R370). -/
def execUncorrectableData (q : BadHolder) (j : Nat) (s : State) : Host.Outcome State Fault Refusal :=
  actWhen (uncorrectableEnabled s (badDatum q j)) "UNCORRECTABLE_DATA" (uncorrectableData (badDatum q j)) s
/-- ABORT_COMPLETION (R373). -/
def execAbortCompletion (m : Nat) (s : State) : Host.Outcome State Fault Refusal :=
  actWhen (abortEnabled s m) "ABORT_COMPLETION" (abortCompletion m) s
/-- CORRECTED_ERROR (R375). -/
def execCorrectedError (u : UnitName) (s : State) : Host.Outcome State Fault Refusal :=
  actWhen (namedExists u) "CORRECTED_ERROR" (correctedError u) s
/-- BUCKET_ROTATE (R375): of a die whose bucket is over. -/
def execBucketRotate (s : State) : Host.Outcome State Fault Refusal :=
  actWhen (bucketDue s).isSome "BUCKET_ROTATE" (forSome (bucketDue s) bucketRotate) s
/-- KILN_SUBMIT (R377). -/
def execKilnSubmit (s : State) : Host.Outcome State Fault Refusal :=
  actWhen (kilnTile s).isSome "KILN_SUBMIT" kilnSubmit s
/-- KILN_SCAN_END (R379): of a scan that is over. -/
def execKilnScanEnd (s : State) : Host.Outcome State Fault Refusal :=
  actWhen (scanDue s).isSome "KILN_SCAN_END" (forSome (scanDue s) scanEnd) s
/-- KILN_ABORT (R378). -/
def execKilnAbort (s : State) : Host.Outcome State Fault Refusal := actWhen (kilnAbortEnabled s) "KILN_ABORT" kilnAbort s

end Sys2Proof.Machine
end

