-- ==== Sys2Proof/Machine/Outside.lean ====
section
/-! DEFINITION. The host, peers, power and boot (spec/16 R381 to R400, spec/13 R318 to R322, spec/11 R290, R292, spec/14 R361, spec/15
R371, spec/04 R108): the commands of PCMD with their status, accesses through BAR1, the windows, the power states, bring-up and
attestation. -/

namespace Sys2Proof.Machine

open Sys2Proof

/-! ## Commands (R385) -/

/-- The module is up and answers the host: not in DPS4 (R392, R399). -/
def hostServed (s : State) : Bool := s.chip.power.booted && !s.chip.power.halted

/-- A command of a function can be performed: the function's earlier one is done (R385). -/
def commandEnabled (s : State) (fn : Nat) : Bool := fn ≤ 8 && hostServed s && (fnAt s fn).pcwork.isNone

/-- The status of a command in PCSTAT. -/
def setStatus (fn : Nat) (v : Word) : Prog := updFn fn fun y => { y with pcstat := v }

/-- A command that only the physical function (`pf`) or only a virtual function may give, with its status (R385). -/
def commandOf (fn : Nat) (pf : Bool) (st : State → Nat) (p : Prog) : Prog := fun s =>
  if pf != (fn == 0) then setStatus fn 1 s
  else if st s = 0 then andThen p (setStatus fn 0) s
  else setStatus fn (nat64 (st s)) s

/-- The partition of a virtual function that is set up for the service in force (R398). -/
def partSet (s : State) (fn : Nat) : Bool :=
  match partAt s (partOfFn fn) with
  | some p => p.reduced == !s.chip.power.full
  | none => false

/-! ## Partitions (R381, R382) -/

/-- Clusters of a group (R381). -/
def groupClusters (g : Nat) : List Pos := (List.range 10).map fun i => cluster (g / 2) (10 * (g % 2) + i)

/-- A region holds a unit of a cluster. -/
def clusterHeld (s : State) (c : Pos) : Bool := s.chip.regions.any fun r => r.units.any fun u => cluOf u == cluOf c

/-- The operands of PSETUP are in range, and no other partition owns a group, key or package barrier that it names (R334, R381,
R382). -/
def setupGood (s : State) (a : PartSetup) : Bool :=
  a.part < 8 && !a.groups.isEmpty && a.groups.all (fun g => g < 8) && a.keys.all (fun k => k < 64) && a.pkgBars.all (fun b => b < 16) &&
    decide (a.saveBase + a.saveLen ≤ 2 ^ 40) && s.chip.partitions.all fun p => p.setup.part == a.part ||
      (!(p.setup.groups.any a.groups.contains) && !(p.setup.keys.any a.keys.contains) && !(p.setup.pkgBars.any a.pkgBars.contains))

/-- The groups a PSETUP affects: those it assigns and those it takes away. -/
def setupGroups (s : State) (a : PartSetup) : List Nat :=
  distinct (a.groups ++ ((partAt s a.part).map fun p => p.setup.groups).getD [])

/-- The status of PSETUP. -/
def setupStatus (a : PartSetup) (s : State) : Nat :=
  if !setupGood s a then 3
  else if (setupGroups s a).any fun g => (groupClusters g).any (clusterHeld s) then 2
  else 0

/-- A cluster's scratchpads and SRAM are zero with an owner tag, its TLB and its adjunct cache empty (R195, R382). -/
def wipeCluster (part : Nat) (c : Pos) : Prog :=
  seqAll [
    eff (.clearSpad (cluNo c * 32 * spadBytes) (32 * spadBytes)),
    eff (.clearSram (cluNo c * sramBytes) sramBytes),
    upd fun k => { k with
      spadOwner := tagRange (cluNo c * 32 * spadBytes) (32 * spadBytes) part k.spadOwner,
      spadDirty := k.spadDirty.filter fun l => l * 32 / spadBytes / 32 ≠ cluNo c,
      sramOwner := tagRange (cluNo c * sramBytes) sramBytes part k.sramOwner,
      cluTlb := delKey (cluOf c) k.cluTlb,
      adjunct := k.adjunct.filter fun x => !(x.die = c.die ∧ x.clu = c.clu) }]

/-- The period of a function's samplers in fc (R403). -/
def samplePeriod (f : Fn) : Nat := 2 ^ max 6 (min 24 (field f.smpcfg 4 0))

/-- A PSETUP ends: lines are zero under the new owner, TLB entries dropped, and the partition is set up (R382, R389, R397); in
its clusters the round of samples begins anew (R403). -/
def setupPartition (a : PartSetup) : Prog := fun s =>
  seqAll [
    forEach (a.groups.flatMap groupClusters) (wipeCluster a.part),
    upd fun c => { c with
      partitions := ⟨a, [], [], !c.power.full⟩ :: c.partitions.filter (fun p => p.setup.part ≠ a.part),
      dieTlb := c.dieTlb.map (fun x => (x.1, x.2.filter fun t => t.part ≠ a.part)),
      counters := (c.counters.filter fun x => match x.1.clu with
        | some k => !a.groups.contains (2 * x.1.die + k / 10)
        | none => true),
      smpNext := (a.groups.flatMap groupClusters).foldl
        (fun m u => setKey u (s.fc + samplePeriod (fnAt s (a.part + 1)), 0) m) c.smpNext },
    drainLaunches] s

/-- A partition in which nothing can be placed. -/
def Partition.unplaced (p : Partition) : Partition := { p with setup := { p.setup with groups := [] } }

/-- PSETUP begins: it ends within 100 µs, and until then nothing is placed in the partition (R382, assumption 106). -/
def beginSetup (fn : Nat) (a : PartSetup) : Prog := fun s =>
  if fn ≠ 0 then setStatus fn 1 s
  else if setupStatus a s ≠ 0 then setStatus fn (nat64 (setupStatus a s)) s
  else withFree (fun i => andThen
    (upd fun c => { c with partitions := replaceIf (fun p => p.setup.part = a.part) Partition.unplaced c.partitions })
    (updFn fn fun y => { y with pcwork := some (.setup a (s.t18 + Config.delay i % 100001 * 18)) })) s

/-! ## Graphs (R318 to R322) -/

/-- The dependence successors of node n in a graph image. -/
def edgesFrom (g : GraphImage) (n : Nat) : List Nat := (g.edges.filter fun e => e.1 = n).map (·.2)

/-- Something of a graph image names nothing, or the image table or an image name cannot be had (R319, R322). -/
def graphRef (table : Nat → Option Word) (n : Nat) (g : GraphImage) : Bool :=
  let k := g.nodes.length
  (g.edges ++ g.errEdges).any (fun e => k ≤ e.1 || k ≤ e.2) ||
  (g.nodes.any fun x => match x.kind with
    | .kernel i => g.names ≤ i
    | .cond h _ => !(g.handles.any fun y => y.1 = h)
    | .loop b h _ _ => k ≤ b || !(g.handles.any fun y => y.1 = h)) ||
  n < g.names || (List.range g.names).any fun i => match table i with
    | some w => field w 63 57 != 0
    | none => true

/-- The bodies of a graph image's while nodes. -/
def bodyNodes (g : GraphImage) : List Nat := g.nodes.filterMap fun x => match x.kind with | .loop b _ _ _ => some b | _ => none

/-- The form of a graph image is broken (R322). -/
def graphForm (g : GraphImage) : Bool :=
  ((bodyNodes g).any fun b => (g.edges ++ g.errEdges).any (fun e => e.1 = b || e.2 = b) ||
    (match (g.nodes[b]?).map (·.kind) with | some (GKind.kernel _) => false | _ => true)) ||
  (g.errEdges.any fun e => g.edges.any fun d => d.2 = e.2) ||
  (List.range g.nodes.length).any fun n => 1 < g.errEdges.countP fun e => e.1 = n

/-- Nodes of a set with no dependence edge from another of the set are taken away, again and again; a cycle is what stays. -/
def peel (g : GraphImage) : Nat → List Nat → List Nat
  | 0, l => l
  | fuel + 1, l => peel g fuel (l.filter fun n => g.edges.any fun e => e.2 = n ∧ l.contains e.1)

/-- The dependence edges form a cycle (R322). -/
def graphCycle (g : GraphImage) : Bool := !(peel g g.nodes.length (List.range g.nodes.length)).isEmpty

/-- The range and vector of a graph node (R320). -/
def nodeRange (x : GNode) : Nat × List Nat := x.launch.getD (1, [1, 0, 0, 0])

/-- A limit is broken (R322). -/
def graphLimit (g : GraphImage) : Bool :=
  g.nodes.any fun x => (nodeRange x).2.sum != (nodeRange x).1 || (x.prio == 11 && !g.privileged) ||
    (match x.kind with | .loop _ _ _ b => b == 0 || decide (2 ^ 32 ≤ b) | _ => false)

/-- The lowest free entry of the graph table (R318). -/
def freeGraph (s : State) : Option Nat := (List.range 256).find? fun k => (graphAt s k).isNone

/-- The graph image at an address of a partition. -/
def graphImageAt (s : State) (part va : Nat) : Option GraphImage :=
  (s.chip.graphImages.find? fun x => x.1 = part ∧ x.2.1 = va).map fun x => x.2.2

/-- The descriptor's words name no image, or an address of the wrong form (R319). -/
def graphOperands (s : State) (part : Nat) (im tab : Word) : Option GraphImage :=
  if field im 63 57 ≠ 0 ∨ field tab 63 57 ≠ 0 ∨ field im 5 0 ≠ 0 then none else graphImageAt s part im.toNat

/-- The code of an install whose image and image table have been read, the table's words as they came; where several causes hold, the one
the model names first (R319, R322, assumption 26). -/
def graphStatus (table : Nat → Option Word) (n : Nat) (g : GraphImage) (s : State) : Nat :=
  if graphRef table n g then 0x42
  else if g.nodes.isEmpty ∨ 4096 < g.nodes.length then 0x43
  else if graphForm g then 0x41
  else if graphCycle g then 0x40
  else if graphLimit g then 0x43
  else if (freeGraph s).isNone then 0x44
  else 0

/-- The cost a node counts with (R321). -/
def nodeCost (g : GraphImage) (n : Nat) : Nat :=
  match g.nodes[n]? with
  | some x => (match x.kind with
    | .kernel _ => x.cost
    | .cond _ _ => 0
    | .loop b _ _ _ => ((g.nodes[b]?).map (·.cost)).getD 0)
  | none => 0

/-- Distance to sink, saturating (R321). -/
def distance (g : GraphImage) : Nat → Nat → Nat
  | 0, n => min (2 ^ 32 - 1) (nodeCost g n)
  | fuel + 1, n => min (2 ^ 32 - 1) (nodeCost g n + ((edgesFrom g n).map (distance g fuel)).foldl max 0)

/-- The node records of a graph image (R320). -/
def recordsOf (table : Nat → Option Word) (g : GraphImage) : List NodeRec :=
  g.nodes.zipIdx.map fun y =>
    let x := y.1
    { kind := x.kind, prio := x.prio, home := homeDie y.2, npred := g.edges.countP fun e => e.2 = y.2,
      errn := (g.errEdges.find? fun e => e.1 = y.2).map (·.2), cost := x.cost, dist := distance g g.nodes.length y.2,
      range := (nodeRange x).1, vec := (nodeRange x).2,
      image := match x.kind with | .kernel i => field ((table i).getD 0) 56 0 | _ => 0,
      succ := edgesFrom g y.2 }

/-- TYPE, CH, COFF, BOUND and BODY of a node's kind (R320). -/
def kindFields (k : GKind) : Nat × Nat × Nat × Nat × Nat :=
  match k with
  | .kernel _ => (0, 0, 0, 0, 0xFFFF)
  | .cond h off => (1, h, off, 0, 0xFFFF)
  | .loop b h off bound => (2, h, off, bound, b)

/-- The eight words of a node's 64-byte record (R320); `succ` is the address of its successor list, which the spec does not give
(assumption 80). -/
def recordWords (x : NodeRec) (succ : Nat) : List Word :=
  let k := kindFields x.kind
  [place k.1 62 ||| place x.prio 58 ||| place x.home 56 ||| place x.npred 40 ||| place (x.errn.getD 0xFFFF) 24 ||| place x.cost 0,
   place x.dist 32 ||| place x.range 0,
   place (x.vec.getD 0 0) 32 ||| place (x.vec.getD 1 0) 0,
   place (x.vec.getD 2 0) 32 ||| place (x.vec.getD 3 0) 0,
   place x.image 0,
   place succ 0,
   place k.2.1 56 ||| place k.2.2.1 32 ||| place k.2.2.2.1 0,
   place x.succ.length 48 ||| place k.2.2.2.2 32]

/-- The records of a graph's nodes as GINSTALL writes them into HBM; their successor lists, two bytes for each successor, stand one after
another from a free address of the graph image up (R318, R320, assumption 80). -/
def writtenRecords (i : Nat) (l : List NodeRec) : List (List Word) :=
  let first := (lowWord (Config.word i)).toNat
  l.zipIdx.map fun y => recordWords y.1 (field (nat64 (first + 2 * ((l.take y.2).map fun x => x.succ.length).sum)) 56 0)

/-- Where in HBM the record of a node of a graph-table entry stands (assumption 80). -/
def recordPlace (g n : Nat) : Nat := Config.graphPlace g % 2 ^ 22 * 2 ^ 18 + 64 * n

/-- The records go into HBM, each from its node's home die; under reduced service there is no HBM (R318, R397). -/
def writeRecords (part g : Nat) (l : List (List Word)) : Prog := fun s =>
  onlyIf s.chip.power.full
    (forEach l.zipIdx fun x => writeOut (dieUnit (homeDie x.2)) part none none (recordPlace g x.2) (wordBytes x.1)) s

/-- A graph whose image has been read is installed, or refused with its code (R318, R319). -/
def endInstall (fn n : Nat) (g : GraphImage) (table : Nat → Option Word) : Prog := fun s =>
  let part := partOfFn fn
  let l := recordsOf table g
  if graphStatus table n g s ≠ 0 then setStatus fn (nat64 (graphStatus table n g s)) s
  else forSome (freeGraph s) (fun k => withFree fun i => seqAll [
    (upd fun c => { c with graphs := c.graphs ++ [⟨k, part, l, writtenRecords i l, g.handles, bodyNodes g⟩] }),
    writeRecords part k (writtenRecords i l),
    setStatus fn (place k 8)]) s

/-- GINSTALL begins: the engine reads the graph image and the image table at package scope (R318, R319, R385). -/
def installGraph (fn : Nat) (im tab : Word) (n : Nat) : Prog := fun s =>
  if fn = 0 then setStatus fn 1 s
  else if !partSet s fn then setStatus fn 3 s
  else match graphOperands s (partOfFn fn) im tab with
    | none => setStatus fn 0x42 s
    | some g => andThen
        (beginFetch (dieUnit 0) (partOfFn fn) (.graph fn) [(im.toNat, g.size), (tab.toNat, 8 * min n g.names)])
        (updFn fn fun y => { y with pcwork := some (.graph im tab n) }) s

/-- GINSTALL ends when both have been read; a fault, a protection violation or uncorrectable data gives GREF (R319). -/
def graphRead (fn : Nat) (im tab : Word) (n : Nat) : Prog := fun s =>
  match fetchFor s (.graph fn), graphOperands s (partOfFn fn) im tab with
  | some x, some g =>
    andThen (dropFetch (.graph fn))
      (if (x.range 0).isNone then setStatus fn 0x42 else endInstall fn n g (x.word 1)) s
  | _, _ => andThen (dropFetch (.graph fn)) (setStatus fn 0x42) s

/-- The status of GREMOVE (R318, R385). -/
def removeStatus (part g : Nat) (s : State) : Nat :=
  match (graphAt s g).filter fun x => x.part = part with
  | none => 3
  | some _ => if s.chip.runs.any fun r => r.graph = g then 2 else 0

/-- GREMOVE. -/
def removeGraph (g : Nat) : Prog := upd fun c => { c with graphs := c.graphs.filter fun x => x.id ≠ g }

/-! ## Translations and faults (R290, R292) -/

/-- A TLB entry is of a scope; a walk in progress may come to a page of any size, and so to one that holds the address. -/
def scopeHits (a : TlbScope) (part : Nat) (t : TlbEntry) : Bool :=
  t.part == part && (match a with | .page va => va / 2 ^ pageBits t.level == t.page | .whole => true)
def missHits (a : TlbScope) (part : Nat) (m : Miss) : Bool :=
  m.part == part && (match a with | .page va => va / 2 ^ pageBits 2 == m.va / 2 ^ pageBits 2 | .whole => true)

/-- Every request translated before a bound has been performed at package scope; one that keeps its leaves is translated (R292, R308). -/
def translatedDone (s : State) (bound part : Nat) : Bool :=
  s.chip.reqs.all fun q => q.part != part || bound ≤ q.id || q.parts.all fun p =>
    (p.pa.isNone && !settled q) || partPerformed p || p.st == .aborted

/-- TLBINV: entries are dropped, walks in progress will be repeated, and the command ends when what they translated has been
performed (R292). -/
def invalidate (fn : Nat) (a : TlbScope) : Prog := fun s =>
  let part := partOfFn fn
  if fn = 0 then setStatus fn 1 s
  else if !partSet s fn then setStatus fn 3 s
  else seqAll [
    upd (fun c => { c with
      cluTlb := c.cluTlb.map (fun x => (x.1, x.2.filter fun t => !scopeHits a part t)),
      dieTlb := c.dieTlb.map (fun x => (x.1, x.2.filter fun t => !scopeHits a part t)),
      misses := c.misses.map fun m => if m.walking && missHits a part m then { m with again := true } else m }),
    updFn fn (fun y => { y with pcwork := some (.inv s.nextId part) }),
    (fun s' => onlyIf (translatedDone s' s.nextId part) (updFn fn fun y => { y with pcwork := none, pcstat := 0 }) s')] s

/-- The fault record a FANSWER names. -/
def openFault (s : State) (fn fid : Nat) : Option FaultRec :=
  s.chip.faults.find? fun f => f.fid = fid ∧ f.part = partOfFn fn ∧ f.answer.isNone

/-- FANSWER: the answer is applied, or kept for a request in a context image (R290, R357). -/
def answerFault (fn fid : Nat) (resume : Bool) : Prog :=
  commandOf fn false (fun s => if (openFault s fn fid).isSome then 0 else 3) fun s =>
    forSome (openFault s fn fid) (fun f =>
      let g := { f with answer := some resume }
      andThen (upd fun c => { c with faults := replaceIf (fun x => x.fid = fid) (fun _ => g) c.faults })
        (onlyIf (!(s.chip.saved.any fun v => v.reqs.any fun q => q.id = f.req)) (applyAnswer g))) s

/-! ## KILL, ELOG (R361, R371) -/

/-- KILL: every instance of the run ends with EKILL, those saved and those not yet dispatched too (R361). -/
def killRun (fn run : Nat) : Prog :=
  commandOf fn false (fun s => if (runAt s run).any fun r => r.part == partOfFn fn then 0 else 3) fun s =>
    let nodes := distinct ((s.chip.shares.filter fun x => x.run = run).map (·.node))
    seqAll [
      updRun run (fun r => { r with killed := true }),
      forEach (s.chip.regions.filter fun r => r.run = run ∧ !r.kiln) (fun r => takeRegionError r.id (killReport r)),
      forEach (s.chip.saved.filter fun v => v.region.run = run ∧ (regionAt s v.region.id).isNone) discardSaved,
      forEach nodes fun n => andThen (failShares run n codeEkill 0) (reportShares run n)] s

/-- The status of ELOG; under reduced service the ring lies in the memory there is (R397). -/
def elogStatus (d base len : Nat) (s : State) : Nat :=
  if 4 ≤ d || base % 32 != 0 || !localHbm base || !localHbm (base + 32 * len) ||
      (!s.chip.power.full && !(List.range (32 * len)).all fun i => (reducedAddr s (base + i)).isSome) then 3 else 0

/-- ELOG: the die's ring begins empty at its base (R371). -/
def setLog (d base len : Nat) : Prog := upd fun c =>
  { c with logs := ⟨d, base, len, 0, 0, ((c.logs.find? fun l => l.die = d).map (·.lost)).getD 0⟩ :: c.logs.filter fun l => l.die ≠ d }

/-! ## Power (R392 to R396) -/

/-- Everything that DPS4 does not keep is at reset (R392); the tile map and the kiln's queue are non-volatile (R376), the dies' temperatures
are what they are, and a clamp in force stays (R395). -/
def powerOff : Prog := fun s =>
  seqAll [
    eff .clearHbm,
    eff (.clearSpad 0 (80 * 32 * spadBytes)),
    eff (.clearSram 0 (80 * sramBytes)),
    forEach (s.chip.saved.map (·.id)) (fun k => eff (.dropSaved k)),
    forEach (s.frames.map (·.1)) (fun f => updFrame f .reset),
    upd fun c => { Chip.reset with
      faulty := c.faulty
      power := { Chip.reset.power with halted := true, thc := c.power.thc, junction := c.power.junction } }] s

/-- A clamp ends with a PWR when every die's junction has fallen below 100 °C (R395). -/
def clampStays (s : State) : Bool := s.chip.power.thc && s.chip.power.junction.any fun x => decide ((100 : Int) ≤ x.2)

/-- The status of PWR (R393). -/
def pwrStatus (dps : Nat) (s : State) : Nat :=
  if !s.chip.power.full then 2
  else if 4 < dps then 3
  else if 3 ≤ dps && !s.chip.regions.isEmpty then 2
  else 0

/-- The fabric stops, and runs again in a state at a time (R393). -/
def stopFor (ns dps : Nat) : Prog := fun s =>
  upd (fun c => { c with power := { c.power with stopEnds := some (s.t18 + 18 * ns, dps) } }) s

/-- A power state takes effect (R392, R393). -/
def changePower (dps : Nat) : Prog := fun s =>
  let stays := clampStays s
  let want := if stays && dps < 2 then 2 else dps
  andThen (upd fun c => { c with power := { c.power with thc := stays } })
    (if dps = 4 then powerOff
     else if dps = 3 then upd fun c => { c with power := { c.power with dps := 3, stopEnds := none } }
     else if s.chip.power.dps = 3 then stopFor 20000 want else stopFor 5000 want) s

/-- PWR. In DPS4 it starts a boot (R393, R399). -/
def powerCommand (fn dps : Nat) : Prog := fun s =>
  if s.chip.power.halted then
    onlyIf (fn == 0 && decide (dps < 4)) (upd fun c => { c with power := { c.power with halted := false } }) s
  else commandOf fn true (pwrStatus dps) (changePower dps) s

/-- PWR may be given in DPS4 too. -/
def pwrEnabled (s : State) (fn : Nat) : Bool := commandEnabled s fn || (fn ≤ 8 && s.chip.power.halted)

/-- The status of CGATE (R393, R394). -/
def gateStatus (mask : List Pos) (s : State) : Nat :=
  if !s.chip.power.full then 2
  else if mask.any fun c => 4 ≤ c.die || 20 ≤ c.clu then 3
  else if mask.any (clusterHeld s) then 2
  else 0

/-- A cluster that is powered off keeps nothing (R394). -/
def gateCluster (c : Pos) : Prog :=
  andThen (wipeCluster 0 c) (upd fun k => { k with units := k.units.filter fun x => cluOf x.1 ≠ cluOf c })

/-- CGATE: the clusters of the mask are off, the others on (R394). -/
def gateClusters (mask : List Pos) : Prog :=
  andThen (forEach (distinct (mask.map cluOf)) gateCluster)
    (upd fun c => { c with power := { c.power with gated := distinct (mask.map cluOf) } })

/-- FABRIC_STOP_END may be made. -/
def stopOver (s : State) : Bool :=
  match s.chip.power.stopEnds with
  | some x => x.1 ≤ s.t18
  | none => false

/-- The controllers begin to refresh their banks: no row open, none owed (R283). -/
def beginRefresh : Prog := fun s => upd (fun c => { c with ctrls := [], power := { c.power with refFrom := s.t18 } }) s

/-- FABRIC_STOP_END: the fabric runs in the new state (R393); a clamp that came during the stop holds (R395). -/
def fabricStopEnd : Prog := fun s =>
  match s.chip.power.stopEnds with
  | some x =>
    andThen (upd fun c => { c with power := { c.power with dps := if c.power.thc && x.2 < 2 then 2 else x.2, stopEnds := none } })
      (onlyIf (s.chip.power.dps == 3) beginRefresh) s
  | none => []

/-- THERMAL_CLAMP: a reading of a die's junction; at 110 °C the clock is clamped, THC set and the host interrupted (R395). -/
def thermalClamp (d : Nat) (t : Int) : Prog := fun s =>
  andThen (upd fun c => { c with power := { c.power with junction := setKey d t c.power.junction } })
    (onlyIf (decide (110 ≤ t) && !s.chip.power.thc)
      (andThen (upd fun c => { c with power := { c.power with thc := true, dps := if c.power.dps < 2 then 2 else c.power.dps } })
        (interrupt .clamp))) s

/-! ## Windows, exports, peers (R387 to R390) -/

/-- The status of WINSET (R389). -/
def winStatus (pt w : Nat) (e : Word) (s : State) : Nat :=
  if w < 1 || 0xFFE < w || 17 < field e 14 10 || field e 61 32 != 0 || field e 9 0 != 0 || !partSet s (pt + 1) then 3 else 0

/-- WINSET: requests issued before keep the entry that it replaces (R389). -/
def setWindow (pt w : Nat) (e : Word) : Prog :=
  reading (·.nextId) fun n => upd fun c => { c with
    partitions := replaceIf (fun p => p.setup.part = pt)
      (fun p => { p with windows := setKey w e p.windows, past := p.past ++ [(n, w, getKey 0 w p.windows)] }) c.partitions }

/-- The status of EXPSET (R389). -/
def expStatus (i : Nat) (e : Word) (s : State) : Nat :=
  if 1023 < i || field e 61 32 != 0 || field e 11 0 != 0 || !partSet s (field e 14 12 + 1) then 3 else 0

/-- EXPSET. -/
def setExport (i : Nat) (e : Word) : Prog := upd fun c => { c with exports := setKey i e c.exports }

/-- An export entry lets a peer's request in (R389). -/
def exportLets (a : PeerAccess) (e : Word) : Bool :=
  e.getLsbD 63 && field e 31 18 == a.module && field e 17 15 == a.part && field e 14 12 == a.own &&
    (e.getLsbD 62 || (match a.op with | .read _ => true | _ => false))

/-- The bytes a peer asks for are 1 to 64 of local memory; an atomic's are 4, or but for the FP32 add 8, aligned (R300, R390). -/
def peerSize (a : PeerAccess) : Bool :=
  let ok := fun n => 1 ≤ n && n ≤ 64 && localHbm a.pa && localHbm (a.pa + n - 1)
  match a.op with
  | .read n => ok n
  | .write v => ok v.length
  | .atomic op n _ _ => (n == 4 || (n == 8 && op != .fadd)) && a.pa % n == 0 && ok n

/-- The request of a peer at the home controllers (R316, R389); it has been on its way for a free time. -/
def peerAccess (k : Nat) (a : PeerAccess) : Prog :=
  withFree fun i =>
    let req := fun op n b c parts => systemReq (dieUnit (ctrlDie (ctrlOf a.pa))) a.own op (.peer k) n b c a.pa parts (Config.delay i) 0
    match a.op with
    | .read n => req .engRead 1 0 0 (bytesParts a.pa n none)
    | .write v => req .engWrite 1 (ofBytes v) 0 (bytesParts a.pa v.length none)
    | .atomic op n b c => req (.atomic op) n (ofWord b) (ofWord c) [([(0, 0)], a.pa, none)]

/-- PEER_REQUEST: it goes to the home controllers, which perform it, or is refused, as every one is under reduced service, which has no HBM
(R316, R389, R390, R397). -/
def peerRequest (a : PeerAccess) : Prog :=
  withId fun k => fun s =>
    if !(s.chip.power.full && (s.chip.exports.any fun x => exportLets a x.2) && peerSize a) then
      upd (fun c => { c with peerOut := c.peerOut ++ [⟨k, .answer, a, none⟩] }) s
    else andThen (upd fun c => { c with peerIn := c.peerIn ++ [(k, a)] }) (peerAccess k a) s

/-! ## BAR1 (R383, R397) -/

/-- The physical address and the key of a function's BAR1 access, within the 64 GiB of the window: translated for a virtual function, as
it is and under no key for the physical one (R293, R383, assumption 88). -/
def barAddr (s : State) (fn a : Nat) (writes : Bool) : Option (Nat × Option Nat) :=
  if 2 ^ 36 ≤ a then none else vaPlace s (partOfFn fn) a writes

/-- A BAR1 access under full service goes to the home controllers, a request for each 64-byte block (R282, R316, R383). A read's
bytes stand in `bar1` as they come; one that translation refuses does nothing. -/
def barRequests (fn va : Nat) (v : Option (List Byte)) (n : Nat) : Prog := fun s =>
  forEach (blocksAt va n) (fun x => forSome (barAddr s fn (va + x.1) v.isSome) fun y => withFree fun i =>
    systemReq (dieUnit 0) (partOfFn fn) (if v.isSome then .engWrite else .engRead) (.host fn x.1) 1
      (ofBytes (((v.getD []).drop x.1).take x.2)) 0 y.1 (bytesParts y.1 x.2 y.2) (Config.delay i) 0) s

/-- The partitions that find an object a function puts at an address: its own, or for the physical function under reduced
service every one (R397). -/
def objectParts (s : State) (fn : Nat) : List Nat :=
  if fn = 0 then (if s.chip.power.full then [8] else s.chip.partitions.map fun p => p.setup.part) else [partOfFn fn]

/-- HOST_BAR1_ACCESS (R383): what a read returns is kept; an access that translation refuses does nothing. -/
def barAccess (fn : Nat) (a : HostAccess) : Prog := fun s =>
  match a with
  | .read va n =>
    if s.chip.power.full then andThen (updFn fn fun y => { y with bar1 := List.replicate n 0 }) (barRequests fn va none n) s
    else updFn fn (fun y => { y with bar1 := (stillBytes s (partOfFn fn) va n).getD [] }) s
  | .write va v =>
    if s.chip.power.full then barRequests fn va (some v) v.length s
    else (if fn = 0 then writeReduced va v else writeRange (dieUnit 0) (partOfFn fn) none va v) s
  | .putImage va im => forEach (objectParts s fn) (fun p => upd fun c => { c with
      images := (p, va, im) :: c.images.filter fun x => !(x.1 = p ∧ x.2.1 = va) }) s
  | .putGraph va g => forEach (objectParts s fn) (fun p => upd fun c => { c with
      graphImages := (p, va, g) :: c.graphImages.filter fun x => !(x.1 = p ∧ x.2.1 = va) }) s

/-! ## CSRAMCFG (R108) -/

/-- CSRAMCFG_WRITE: the fields, or ERR (R108); a virtual function's write is ignored (R386). -/
def writeCsram (fn : Nat) (u : Pos) (v : Word) : Prog := fun s =>
  let old := csramAt s u
  let held := clusterHeld s u || s.chip.regions.any fun r => r.mills.any fun m => cluOf m.1 == cluOf u
  let good := field v 20 16 + field v 12 8 + field v 4 0 == 16 && !held
  let err := if good then old.getLsbD 31 && !v.getLsbD 31 else true
  let fields := (if good then v else old) &&& (place 0x1F 16 ||| place 0x1F 8 ||| place 0x1F 0)
  onlyIf (fn == 0) (upd fun c => { c with
    csram := setKey (cluOf u) (fields ||| placeBit err 31) c.csram,
    adjunct := if good then c.adjunct.filter fun x => !(x.die = u.die ∧ x.clu = u.clu) else c.adjunct }) s

/-! ## Boot and attestation (R397 to R400) -/

/-- BOOT may be made: the module comes out of reset or is told to leave DPS4 (R399). -/
def bootEnabled (s : State) : Bool := !s.chip.power.booted && !s.chip.power.halted

/-- The stages of the firmware from one on: each is verified and measured before it runs; a failed check halts the boot in DPS4 with the
digests of the stages before it (R399). After the last one reduced service begins (R397). -/
def bootStages : List Nat → Prog
  | [] => upd fun c => { c with power := { c.power with booted := true, dps := 5 } }
  | i :: rest =>
    if Config.stageOk i then andThen (eff (.measure i (Config.stageDigest i))) (bootStages rest)
    else upd fun c => { c with power := { c.power with halted := true } }

/-- BOOT (R397, R399). -/
def boot : Prog := andThen (eff .clearMeasure) (bootStages (List.range 4))

/-- TRAINING_END may happen: reduced service has begun (R397). -/
def trainingEnabled (s : State) : Bool := hostServed s && !s.chip.power.full && !s.chip.power.training

/-- FULL_SERVICE may be made: training has ended, and every reduced-service run (R398). -/
def fullEnabled (s : State) : Bool := hostServed s && s.chip.power.training && s.chip.runs.isEmpty && s.chip.regions.isEmpty

/-- FULL_SERVICE: FULL is 1, DPS0 begins, a clamp holds; the waiting launches go on (R395, R398). -/
def fullService : Prog :=
  seqAll [
    upd (fun c => { c with power := { c.power with full := true, training := false, dps := if c.power.thc then 2 else 0 } }),
    beginRefresh,
    drainLaunches]

/-- ATTEST (R400). -/
def attest (fn : Nat) (nonce : BitVec 256) : Prog := fun s =>
  updFn fn (fun y => { y with attest := some (s.measure, nonce, Config.attestSig s.measure nonce), pcstat := 0 }) s

/-! ## Descriptors (R319, R384, R385, R389) -/

/-- The operands of PSETUP in a descriptor; the spec gives them no places (assumption 107). -/
def setupOperands (ws : List Word) : PartSetup :=
  let x := Config.operand 1 ws
  let l := Config.operands 1 ws
  { part := x 0, groups := l 0, root := x 1, keys := l 1, hbase := x 2, faultQ := ⟨x 3, x 4⟩, complQ := ⟨x 5, x 6⟩,
    errorQ := ⟨x 7, x 8⟩, saveBase := x 9, saveLen := x 10, pkgBars := l 2, tkey := BitVec.ofNat 256 (x 11) }

/-- GREMOVE, ELOG, CGATE, WINSET, EXPSET, FANSWER and the like act at once; the others begin (R385). -/
def removeCommand (fn g : Nat) : Prog := commandOf fn false (removeStatus (partOfFn fn) g) (removeGraph g)
def logCommand (fn d base len : Nat) : Prog := commandOf fn true (elogStatus d base len) (setLog d base len)
def gateCommand (fn : Nat) (mask : List Pos) : Prog := commandOf fn true (gateStatus mask) (gateClusters mask)
def windowCommand (fn pt w : Nat) (e : Word) : Prog := commandOf fn true (winStatus pt w e) (setWindow pt w e)
def exportCommand (fn i : Nat) (e : Word) : Prog := commandOf fn true (expStatus i e) (setExport i e)

/-- The command that a descriptor's eight words hold, its code in word 0 [7:0]: operands where the spec gives their places, else free ones
(assumption 107); a code that names no command has a bad operand (R319, R385, R389). -/
def describedCommand (fn : Nat) (ws : List Word) : Prog :=
  let code := field (ws.getD 0 0) 7 0
  let w := fun i => ws.getD i 0
  let x := Config.operand code ws
  match code with
  | 0x01 => beginSetup fn (setupOperands ws)
  | 0x02 => installGraph fn (w 1) (w 2) (w 3).toNat
  | 0x03 => removeCommand fn (w 1).toNat
  | 0x04 => invalidate fn (if x 0 = 0 then .whole else .page (x 1))
  | 0x05 => answerFault fn (x 0) (decide (x 1 = 0))
  | 0x06 => killRun fn (x 0)
  | 0x07 => logCommand fn (x 0) (x 1) (x 2)
  | 0x08 => powerCommand fn (x 0)
  | 0x09 => gateCommand fn ((Config.operands code ws 0).map fun c => cluster (c / 20 % 4) (c % 20))
  | 0x0A => attest fn (BitVec.ofNat 256 (x 0))
  | 0x0B => windowCommand fn (field (w 1) 2 0) (field (w 2) 11 0) (w 3)
  | 0x0C => exportCommand fn (w 1).toNat (w 2)
  | _ => setStatus fn 3

/-- A write of PCMD: the 64-byte descriptor at the address is read in the function's memory (R384, R385). -/
def beginCommand (fn : Nat) (va : Word) : Prog :=
  andThen (beginFetch (dieUnit 0) (partOfFn fn) (.command fn) [(va.toNat, 64)])
    (updFn fn fun y => { y with pcwork := some .descriptor })

/-- A descriptor has been read, or cannot be. -/
def descriptorRead (fn : Nat) : Prog := fun s =>
  andThen (dropFetch (.command fn))
    (match (fetchFor s (.command fn)).bind fun x => (List.range 8).mapM fun i => x.word 0 i with
      | some ws => describedCommand fn ws
      | none => setStatus fn 3) s

/-- The command of a function that is in progress ends, or its descriptor has come, when what it waits for has happened (R292, R319, R382,
R385). -/
def endCommand (fn : Nat) : Prog := fun s =>
  let clear := updFn fn fun y => { y with pcwork := none }
  match (fnAt s fn).pcwork with
  | some (.inv bound part) => onlyIf (translatedDone s bound part) (andThen clear (setStatus fn 0)) s
  | some (.setup a till) => onlyIf (decide (till ≤ s.t18)) (seqAll [clear, setupPartition a, setStatus fn 0]) s
  | some (.graph im tab n) => onlyIf (fetchOver s (.graph fn)) (andThen clear (graphRead fn im tab n)) s
  | some .descriptor => onlyIf (fetchOver s (.command fn)) (andThen clear (descriptorRead fn)) s
  | none => []

/-! ## The steps -/

/-- PSETUP (R382). -/
def execPsetup (fn : Nat) (a : PartSetup) (s : State) : Host.Outcome State Fault Refusal :=
  actWhen (commandEnabled s fn) "PSETUP" (beginSetup fn a) s
/-- GINSTALL (R318). -/
def execGinstall (fn : Nat) (im tab : Word) (n : Nat) (s : State) : Host.Outcome State Fault Refusal :=
  actWhen (commandEnabled s fn) "GINSTALL" (installGraph fn im tab n) s
/-- GREMOVE (R385). -/
def execGremove (fn g : Nat) (s : State) : Host.Outcome State Fault Refusal :=
  actWhen (commandEnabled s fn) "GREMOVE" (removeCommand fn g) s
/-- TLBINV (R292). -/
def execTlbinv (fn : Nat) (a : TlbScope) (s : State) : Host.Outcome State Fault Refusal :=
  actWhen (commandEnabled s fn) "TLBINV" (invalidate fn a) s
/-- FANSWER (R290). -/
def execFanswer (fn fid : Nat) (resume : Bool) (s : State) : Host.Outcome State Fault Refusal :=
  actWhen (commandEnabled s fn) "FANSWER" (answerFault fn fid resume) s
/-- KILL (R361). -/
def execKill (fn run : Nat) (s : State) : Host.Outcome State Fault Refusal :=
  actWhen (commandEnabled s fn) "KILL" (killRun fn run) s
/-- ELOG (R371). -/
def execElog (fn d base len : Nat) (s : State) : Host.Outcome State Fault Refusal :=
  actWhen (commandEnabled s fn) "ELOG" (logCommand fn d base len) s
/-- PWR (R393). -/
def execPwr (fn dps : Nat) (s : State) : Host.Outcome State Fault Refusal :=
  actWhen (pwrEnabled s fn) "PWR" (powerCommand fn dps) s
/-- CGATE (R394). -/
def execCgate (fn : Nat) (mask : List Pos) (s : State) : Host.Outcome State Fault Refusal :=
  actWhen (commandEnabled s fn) "CGATE" (gateCommand fn mask) s
/-- ATTEST (R400). -/
def execAttest (fn : Nat) (nonce : BitVec 256) (s : State) : Host.Outcome State Fault Refusal :=
  actWhen (commandEnabled s fn) "ATTEST" (attest fn nonce) s
/-- WINSET (R389). -/
def execWinset (fn pt w : Nat) (e : Word) (s : State) : Host.Outcome State Fault Refusal :=
  actWhen (commandEnabled s fn) "WINSET" (windowCommand fn pt w e) s
/-- EXPSET (R389). -/
def execExpset (fn i : Nat) (e : Word) (s : State) : Host.Outcome State Fault Refusal :=
  actWhen (commandEnabled s fn) "EXPSET" (exportCommand fn i e) s
/-- FABRIC_STOP_END (R393). -/
def execFabricStopEnd (s : State) : Host.Outcome State Fault Refusal := actWhen (stopOver s) "FABRIC_STOP_END" fabricStopEnd s
/-- CSRAMCFG_WRITE (R108). -/
def execCsramcfgWrite (fn : Nat) (u : Pos) (v : Word) (s : State) : Host.Outcome State Fault Refusal :=
  actWhen (decide (fn ≤ 8) && hostServed s && decide (u.die < 4 ∧ u.clu < 20)) "CSRAMCFG_WRITE" (writeCsram fn u v) s
/-- THERMAL_CLAMP (R395). -/
def execThermalClamp (d : Nat) (t : Int) (s : State) : Host.Outcome State Fault Refusal :=
  actWhen (decide (d < 4)) "THERMAL_CLAMP" (thermalClamp d t) s
/-- LINK_RETRAIN_FAIL (R391): the module enters DPS4. -/
def execLinkRetrainFail (l : Nat) (s : State) : Host.Outcome State Fault Refusal :=
  actWhen (decide (l < 4) && hostServed s) "LINK_RETRAIN_FAIL" powerOff s
/-- BOOT (R399). -/
def execBoot (s : State) : Host.Outcome State Fault Refusal := actWhen (bootEnabled s) "BOOT" boot s
/-- TRAINING_END (R398): new launches wait from now on. -/
def execTrainingEnd (s : State) : Host.Outcome State Fault Refusal :=
  actWhen (trainingEnabled s) "TRAINING_END" (upd fun c => { c with power := { c.power with training := true } }) s
/-- FULL_SERVICE (R398). -/
def execFullService (s : State) : Host.Outcome State Fault Refusal := actWhen (fullEnabled s) "FULL_SERVICE" fullService s
/-- PEER_REQUEST (R389). -/
def execPeerRequest (a : PeerAccess) (s : State) : Host.Outcome State Fault Refusal :=
  actWhen (hostServed s) "PEER_REQUEST" (peerRequest a) s
/-- HOST_BAR1_ACCESS (R383). -/
def execHostBar1Access (fn : Nat) (a : HostAccess) (s : State) : Host.Outcome State Fault Refusal :=
  actWhen (decide (fn ≤ 8) && hostServed s) "HOST_BAR1_ACCESS" (barAccess fn a) s

end Sys2Proof.Machine
end

