-- ==== Sys2Proof/Machine/Observe.lean ====
section
/-! DEFINITION. Observation (spec/17 R401 to R409, spec/16 R386): the rings of a function, sampling and its stall reasons,
counter selectors, the event collector, and the writes of host registers. -/

namespace Sys2Proof.Machine

open Sys2Proof

/-! ## Rings (R401, R402) -/

/-- The number of records a LEN write gives: 0, or a power of two from 64 to 2^24; any other number is taken as 0
(assumption 27). -/
def ringLen (v : Word) : Nat :=
  let n := field v 24 0
  if (List.range 19).any fun i => n = 2 ^ (6 + i) then n else 0

/-- OBS_RING_CONFIG: BASE or LEN is written, WP and RP become 0 (R401). -/
def configRing (fn : Nat) (ring : ObsRing) (len : Bool) (v : Word) : Prog :=
  updObs fn ring fun o =>
    if len then { o with len := ringLen v, wp := 0, rp := 0 } else { o with base := field v 56 6 * 64, wp := 0, rp := 0 }

/-- A record leaves for its ring. -/
def queueRecord (fn : Nat) (ring : ObsRing) (ws : List Word) : Prog :=
  withFree fun i => withId fun k => fun s => upd (fun c => { c with obs := c.obs ++ [⟨k, fn, ring, ws, s.fc + Config.delay i, .waiting⟩] }) s

/-- RECORD_PERFORMED may be made: the record has reached its ring, or its write has been performed or lost, and no earlier one of its ring
waits (R402, assumption 101). -/
def recordEnabled (s : State) (k : Nat) : Bool :=
  match s.chip.obs.find? fun x => x.id = k with
  | some x => x.due ≤ s.fc && x.st != .writing && s.chip.obs.all fun y => !(y.fn == x.fn && y.ring == x.ring && y.id < x.id)
  | none => false

/-- A record is over. -/
def endRecord (k : Nat) : Prog := upd fun c => { c with obs := c.obs.filter fun y => y.id ≠ k }

/-- A record is dropped and counted (R401, R402). -/
def loseRecord (x : ObsRec) : Prog :=
  andThen (endRecord x.id) (updObs x.fn x.ring fun o => { o with drops := min (2 ^ 32 - 1) (o.drops + 1) })

/-- RECORD_PERFORMED: the record's write goes to memory at package scope, and WP advances once it has been performed; with LEN 0 it is
discarded, and on a full ring or a write that meets a fault or a protection violation it is dropped and counted (R401, R402). -/
def performRecord (k : Nat) : Prog := fun s =>
  match s.chip.obs.find? fun x => x.id = k with
  | none => []
  | some x =>
    let o := ringOf (fnAt s x.fn) x.ring
    let va := o.base + 32 * (o.wp.toNat % o.len)
    let part := partOfFn x.fn
    match x.st with
    | .waiting =>
      if o.len = 0 then endRecord k s
      else if (o.wp - o.rp).toNat = o.len ∨ !rangeGood s part va 32 true then loseRecord x s
      else andThen (markObs k .writing) (writeRange (dieUnit 0) part (some k) va (wordBytes x.words)) s
    | .written => seqAll [
        endRecord k,
        addRecord (.observed x.fn x.ring (x.words.getD 0 0) (x.words.getD 1 0) (x.words.getD 2 0) (x.words.getD 3 0)),
        updObs x.fn x.ring fun o => { o with wp := o.wp + 1 }] s
    | .lost => loseRecord x s
    | .writing => []

/-! ## Stall reasons (R404) -/

/-- What the sampler says of an element: reason, instruction entry, tag. -/
structure Stall where
  reason : Nat
  entry : Option Nat
  tag : Option Tag
  deriving DecidableEq, Repr

/-- The reason a parked frame gives (R73): yield, page fault, barrier. -/
def parkReason (v : ParkView) : Option Nat :=
  if v.yld then some 14 else if v.pfc then some 15 else if v.bwc then some 13 else none

/-- The parking of a tag's frame as an element has it. -/
def parkOf (s : State) (p : Pos) (tag : Tag) : ParkView := getKey ⟨false, false, false⟩ (frameOf tag) (elemAt s p).parked

/-- A side that an instruction holding some tokens still lacks. -/
def lackReason (s : State) (p : Pos) (x : Slot) : Nat :=
  match entryView s p x.instr with
  | some v =>
    match (tSides v).find? fun k => (slotOf (elemAt s p) x.instr k x.tag).isNone with
    | some k => 1 + k
    | none => 2
  | none => 1

/-- The running matrix instruction as an item, from the fc at which it could have gone on (R223, R404): RING_EMPTY while the next slot of
its ring is missing, ADJ_REPLAY while the next deferred row waits for its lines. -/
def matrixStall (s : State) (p : Pos) : List (Nat × Stall) :=
  match matRunning s p with
  | none => []
  | some (o, r) =>
    let reason : Option Nat := match r.phase with
      | .load => if slotWaits s (ringB s p o) then some 11 else none
      | .rows => if slotWaits s (ringA s p o) then some 11 else none
      | .replay => if r.deferred.head?.any fun d => !d.complete o.al || decide (s.fc < d.seen) then some 10 else none
      | _ => none
    match reason with
    | some n => if r.due ≤ s.fc then [(r.due, ⟨n, some o.entry, some o.tag⟩)] else []
    | none => []

/-- A push of an operation waits at a full ring (R199). -/
def pushWaits (s : State) (p : Pos) (op : Nat) : Bool :=
  s.chip.pushes.any fun x => x.due ≤ s.fc && ((ringAt s x.tile x.q).map fun g => ringRoom g x.data.length) == some false &&
    (match x.who with
      | .op q k _ => q == p && k == op
      | .walk q k => q == p && k == op
      | _ => false)

/-- Why something waits for entries of its element's store (R77): a fill or a lookup gives CELLAR, a spill or a set with no way to be had
MSTORE_FULL. -/
def storeReason (s : State) (p : Pos) (keys : List StoreEntry) : Nat :=
  let e := elemAt s p
  if keys.any fun k => (match lookOf e k with | .looking _ => true | _ => false) ||
      (entriesOf e k).any fun x => (match x.st with | .filling _ => true | _ => false) then 6 else 5

/-- The key of a held result or a LOOPN record of an instruction. -/
def resultKey (p : Pos) (entry : Nat) (tag : Tag) : StoreEntry := keyOf ((classOf p).getD .s) false entry 3 tag

/-- Why a held result or a record that is not parked waits: for its entry, its tag or room (R70, R79, R144). -/
def heldReason (s : State) (p : Pos) (entry who : Nat) (tag : Tag) (given : Bool) (outs : List Out) : Nat :=
  if heldEntry s p entry who tag = .wait then storeReason s p [resultKey p entry tag]
  else if !given then 7 else if !roomFor s p outs then 4 else 7

/-- A coordinate of a mill context waits for room or a credit of its access processor (R267). -/
def coordWaits (s : State) (p : Pos) (op : Nat) : Bool :=
  s.chip.mills.any fun x => x.2.any fun y => (walkingAt s x.1 y.1).any fun q =>
    q.p == p && q.op == op && !isCount q && decide (y.2.due ≤ s.fc) && !y.2.coords.isEmpty && (opTag s p op).isSome &&
      !roomFor s p (outOf (reqDest s q false) 0 false false)

/-- The walk of an operation waits for room or a credit (R245). -/
def walkWaits (s : State) (p : Pos) (op : Nat) : Bool :=
  s.chip.net.any fun m => (replyWalk s m).any fun w => w.p == p && w.op == op && w.emits && (opTag s p op).isSome &&
    !roomFor s p (outOf w.d0 0 false false)

/-- Why a pending operation waits. -/
def opReason (s : State) (p : Pos) (x : PipeOp) : Nat :=
  match x.wait with
  | .barrier => 13
  | .yielding => (parkReason (parkOf s p x.tag)).getD (if heldNeed s p x = .wait then storeReason s p [resultKey p x.entry x.tag] else 14)
  | .yielded => (parkReason (parkOf s p x.tag)).getD (if yieldWaits s x then 14 else heldReason s p x.entry x.id x.tag (tagNow x).isSome x.outs)
  | .held => (parkReason (parkOf s p x.tag)).getD (heldReason s p x.entry x.id x.tag (tagNow x).isSome x.outs)
  | .fence _ _ => 9
  | .engine _ => 18
  | .reply =>
    if x.out = .waits then 7
    else if pushWaits s p x.id then 12
    else if walkWaits s p x.id || coordWaits s p x.id then 4
    else if x.op = 0x05 ∨ x.op = 0x06 ∨ x.op = 0x08 ∨ x.op = 0x09 then 8
    else 18
  | .none =>
    if x.out = .waits then (if heldNeed s p x = .wait then storeReason s p [resultKey p x.entry x.tag] else 7)
    else if (tagNow x).isSome then 4 else 7

/-- The instructions that issue requests to memory: those of R295, CONDW (R339) and the walks of an access processor (R244). -/
def asksMemory (op : Nat) : Bool := op == 0x0F || (0x90 ≤ op && op ≤ 0x9D) || (0xC7 ≤ op && op ≤ 0xC9)

/-- The instructions that take an entry of the store when they fire: LOOPN, BAR and SSTEP (R79). -/
def takesEntry (op : Nat) : Bool := op == 0x07 || op == 0xB1 || op == 0xAC

/-- Why a ready firing is blocked. -/
def firingReason (s : State) (p : Pos) (f : Firing) : Nat :=
  match parkReason (parkOf s p f.tag) with
  | some r => r
  | none =>
    if outBlocked s p || walkBlocked s p then 4
    else match entryView s p f.entry with
      | some v =>
        if asksMemory v.op ∧ poolLimit p ≤ poolUse s p then 9
        else if takesEntry v.op ∧ resultNeed s p (resultKey p f.entry f.tag) f.id true = .wait then storeReason s p [resultKey p f.entry f.tag]
        else 18
      | none => 18

/-- The merge unit of a Q element that has begun a run and waits: for the head of a side, or for room (R256). -/
def mergeStall (s : State) (p : Pos) : List (Nat × Stall) :=
  match mrgEntry s p with
  | none => []
  | some (i, v) =>
    let g := (qAt s p).merge
    let begun := !(g.qa.isEmpty && g.qb.isEmpty) || g.na != 0 || g.nb != 0 || g.doneA || g.doneB
    if !begun then []
    else if let some t := mergeParked s p v g then [(g.since, ⟨(parkReason (parkOf s p t)).getD 13, some i, some t⟩)]
    else if mergeNext (mrgMode v) g = .wait then [(g.since, ⟨if !g.doneA && g.qa.isEmpty then 1 else 2, some i, none⟩)]
    else if !roomFor s p ((mergeOuts v g (mergeNext (mrgMode v) g)).map (·.1)) then [(g.since, ⟨4, some i, none⟩)]
    else []

/-- A token at its element that waits for its store (R77). -/
def tokenStall (s : State) (p : Pos) (m : Msg) : Option (Nat × Stall) :=
  match arrivalOf s m with
  | .operand instr side tag v =>
    let keys := operandKeys ((classOf p).getD .s) instr tag v
    match m.look with
    | .looking _ => some (m.due, ⟨6, some instr, some tag⟩)
    | _ => if tokenNeed s m = .wait ∧ !heldBack s m instr side tag v ∧ !setBefore s m then
        some (m.due, ⟨storeReason s p keys, some instr, some tag⟩) else none
  | _ => none

/-- The items of an element that wait, each with the fc from which it has waited (R404). -/
def stallItems (s : State) (p : Pos) : List (Nat × Stall) :=
  let e := elemAt s p
  (e.slots.map fun x => (x.since, ⟨lackReason s p x, some x.instr, some x.tag⟩)) ++
  ((e.pipe.filter fun x => x.wait != .none || opDue s x).map fun x => (x.since, ⟨opReason s p x, some x.entry, some x.tag⟩)) ++
  ((e.loops.filter fun x => x.due ≤ s.fc).map fun x =>
    (x.since, ⟨(parkReason (parkOf s p x.tag)).getD (heldReason s p x.entry x.id x.tag x.given.isSome x.out), some x.entry, some x.tag⟩)) ++
  ((s.chip.net.filter fun m => m.dst = p ∧ m.body = .token ∧ arrived s m).filterMap (tokenStall s p)) ++
  (((qAt s p).engs.filter fun x => x.kind = .rpush ∧ pushWaits s p x.id).map fun x => (x.lastSend, ⟨12, some x.entry, some x.tag⟩)) ++
  (((regionOf s p).map fun r => (r.switchWait.filter fun h => h.p = p).map fun h => (h.since, ⟨18, some h.entry, some h.tag⟩)).getD []) ++
  mergeStall s p ++ matrixStall s p ++
  (e.ready.map fun f => (f.since, ⟨firingReason s p f, some f.entry, some f.tag⟩))

/-- The stall reason of an element in this fc (R404). -/
def stallOf (s : State) (p : Pos) : Stall :=
  match regionOf s p with
  | none => ⟨19, none, none⟩
  | some r =>
    if (elemAt s p).lastFire = some s.fc then ⟨0, none, none⟩
    else match r.phase with
      | .waking _ => ⟨17, none, none⟩
      | .loading _ _ => ⟨17, none, none⟩
      | .rooting _ => ⟨17, none, none⟩
      | .restoring _ => ⟨17, none, none⟩
      | _ => match leastBy (fun x => x.1) (stallItems s p) with
        | some x => x.2
        | none => if r.switch.isSome then ⟨16, none, none⟩ else ⟨19, none, none⟩

/-! ## Sampling (R403, R405) -/

/-- When a cluster's sampler takes its next element, and which place of the round it is. -/
def sampleNext (s : State) (fn : Nat) (u : Pos) : Nat × Nat :=
  getKey ((fnAt s fn).smpStart + samplePeriod (fnAt s fn), 0) (cluOf u) s.chip.smpNext

/-- The element at a place of the round (R403). -/
def sampledElem (u : Pos) (n : Nat) : Pos :=
  if n < 608 then ⟨u.die, u.clu, n / 19, n % 19⟩ else ⟨u.die, u.clu, 32 + (n - 608), 0⟩

/-- SAMPLE_TICK may be made: the function's sampling is on, the cluster is its partition's, and the period is over. -/
def sampleEnabled (s : State) (fn : Nat) (u : Pos) : Bool :=
  1 ≤ fn && fn ≤ 8 && (fnAt s fn).smpcfg.getLsbD 63 && ((partOfCluster s u).map fun p => p.setup.part) == some (partOfFn fn) &&
    u.die < 4 && u.clu < 20 && (sampleNext s fn u).1 ≤ s.fc

/-- The words of a sample record (R405). -/
def sampleWords (s : State) (part : Nat) (p : Pos) : List Word :=
  let x := stallOf s p
  let r := regionOf s p
  let g := fun (f : Region → Nat) => (r.map f).getD 0
  [nat64 (dieTime s p.die),
   place (g (·.run)) 32 ||| place part 29 ||| place p.die 26 ||| place p.clu 21 ||| place p.unit 15 ||| place p.elem 10 |||
     place (g (·.acfg)) 8 ||| place (x.entry.getD 0xFF) 0,
   place ((g fun y => y.rcyc.toNat) % 2 ^ 32) 32 ||| place x.reason 24 ||| placeBit x.tag.isSome 23 ||| ((x.tag.getD 0).zeroExtend 64),
   place (g (·.node)) 48 ||| place (g (·.graph)) 40 ||| place (g (·.index)) 0]

/-- SAMPLE_TICK: one element's reason becomes a record, unless it belongs to no region and NOIDLE is set; the round goes on
(R403). -/
def sampleTick (fn : Nat) (u : Pos) : Prog := fun s =>
  let n := sampleNext s fn u
  let p := sampledElem u n.2
  andThen
    (onlyIf ((regionOf s p).isSome || !(fnAt s fn).smpcfg.getLsbD 5) (queueRecord fn .sample (sampleWords s (partOfFn fn) p)))
    (upd fun c => { c with smpNext := setKey (cluOf u) (n.1 + samplePeriod (fnAt s fn), (n.2 + 1) % 612) c.smpNext }) s

/-- SMPCFG_WRITE: the fields, and the period begins anew in every cluster of the partition (R403). -/
def writeSmpcfg (fn : Nat) (v : Word) : Prog := fun s =>
  andThen (updFn fn fun y => { y with smpcfg := v &&& (placeBit true 63 ||| place 0x3F 0), smpStart := s.fc })
    (upd fun c => { c with smpNext := c.smpNext.filter fun x =>
      ((partOfCluster s x.1).map fun p => p.setup.part) ≠ some (partOfFn fn) }) s

/-! ## Selectors and registers (R386, R401, R406, R408) -/

/-- SELECTOR_WRITE: the event code, and the counter is 0 in every cluster or die (R406). -/
def writeSelector (fn : Nat) (die : Bool) (i : Nat) (v : Word) : Prog :=
  andThen
    (updFn fn fun y => if die then { y with dsel := setKey i (v.extractLsb' 0 8) y.dsel } else { y with csel := setKey i (v.extractLsb' 0 8) y.csel })
    (upd fun c => { c with counters := c.counters.filter fun x => !(x.1.part = partOfFn fn ∧ x.1.n = i ∧ x.1.clu.isNone = die) })

/-- The number of a selector exists. -/
def selectorGood (die : Bool) (i : Nat) : Bool := if die then i < 32 else i < 16

/-- REGISTER_WRITE: the value is stored; a virtual function's write at the physical function's offsets is ignored (R386). -/
def writeRegister (fn : Nat) (a : HostReg) (v : Word) : Prog :=
  match a with
  | .gecfg d => onlyIf (fn == 0 && decide (d < 4)) (upd fun c => { c with gecfg := setKey d v c.gecfg })
  | .cecfg d => onlyIf (fn == 0 && decide (d < 4)) (upd fun c => { c with cecfg := setKey d (nat64 (field v 47 0)) c.cecfg })
  | .ydl d l => onlyIf (fn == 0 && decide (d < 4 ∧ l < 12)) (upd fun c =>
      { c with ydl := (d, l, field v 31 0) :: c.ydl.filter fun x => !(x.1 = d ∧ x.2.1 = l) })
  | .rp ring => updObs fn ring fun o => { o with rp := v.extractLsb' 0 32 }
  | .evmask => updFn fn fun y => { y with evmask := v &&& 0x1F }
  | .pcmd => beginCommand fn v
  | .unnamed _ => skip

/-- PSTAT, as a function reads it: a virtual function sees THC only (R384, R396). -/
def pstat (s : State) (fn : Nat) : Word :=
  let p := s.chip.power
  placeBit p.thc 7 ||| (if fn = 0 then placeBit p.full 6 ||| place p.dps 0 else 0)

/-- A register of an observation ring by its place in the ring's block (R401). -/
def readRing (o : ObsState) : Nat → Option Word
  | 0x00 => some (nat64 o.base)
  | 0x08 => some (nat64 o.len)
  | 0x10 => some (o.wp.zeroExtend 64)
  | 0x18 => some (o.rp.zeroExtend 64)
  | 0x20 => some (nat64 o.drops)
  | _ => none

/-- What the registers of the dies and clusters read as: 0 at offsets that the table does not name (R386). -/
def readHostSet (s : State) (off : Nat) : Word :=
  let d := (off - 0x1000) / 0x200
  let at' := (off - 0x1000) % 0x200
  if off % 8 ≠ 0 then 0
  else if 0x1800 ≤ off then
    if (off - 0x1800) / 8 < 80 then csramAt s ⟨(off - 0x1800) / 8 / 20, (off - 0x1800) / 8 % 20, 0, 0⟩ else 0
  else if at' = 0 then gecfgAt s d
  else if at' = 0x08 then cecfgAt s d
  else if 0x40 ≤ at' ∧ at' < 0xA0 then nat64 (deadline s d ((at' - 0x40) / 8))
  else 0

/-- What a function reads at an offset of BAR0 (R384, R386, R401, R403, R406, R408); none where the spec gives no register that is read.
A read changes nothing. -/
def readRegister (s : State) (fn off : Nat) : Option Word :=
  let f := fnAt s fn
  if 0x1000 ≤ off ∧ off < 0x2000 then some (if fn = 0 then readHostSet s off else 0)
  else if 0x100 ≤ off ∧ off < 0x280 ∧ off % 8 = 0 then
    some ((selectorOf f (0x180 ≤ off) ((off - if 0x180 ≤ off then 0x180 else 0x100) / 8)).zeroExtend 64)
  else match off with
    | 0x008 => some (plstat f)
    | 0x018 => some f.pcstat
    | 0x020 => some (pstat s fn)
    | 0x068 => some f.smpcfg
    | 0x0A8 => some f.evmask
    | _ => if 0x040 ≤ off ∧ off < 0x080 then readRing f.sample (off - 0x040)
      else if 0x080 ≤ off ∧ off < 0x0C0 then readRing f.event (off - 0x080)
      else none

/-! ## The event collector (R408, R409) -/

/-- The bit of EVMASK of an event type. -/
def eventClass (kind : Nat) : Nat :=
  if kind < 0x10 then 0 else if kind < 0x20 then 1 else if kind < 0x30 then 2 else if kind < 0x40 then 3 else 4

/-- The words of an event record (R409). -/
def eventWords (e : EventRec) : List Word :=
  [nat64 e.time,
   place e.kind 56 ||| place e.part 53 ||| place e.src.die 51 ||| place e.src.clu 46 ||| place (e.src.unit % 64) 40 |||
     place e.src.elem 35 ||| place e.run 0,
   e.arg0, e.arg1]

/-- A record reached the collector before another: in an earlier fc, or in the same fc and sent before it (assumption 121). -/
def reachedFirst (x m : Msg) : Bool := decide (x.due < m.due) || (x.due == m.due && decide (x.id < m.id))

/-- EVENT_COLLECT may be made: the record has reached the collector, the first there of those that have. -/
def collectEnabled (s : State) (m : Nat) : Bool :=
  delivered s m (fun b => match b with | .event _ => true | _ => false) &&
    (match msgAt s m with
      | some x => s.chip.net.all fun y => !((match y.body with | .event _ => true | _ => false) && arrived s y && reachedFirst y x)
      | none => false)

/-- EVENT_COLLECT: a record of an enabled class goes to its partition's ring (R408); the EVT that sent it sends its value now, whatever
becomes of the record (R410). -/
def collectEvent (m : Nat) : Prog := fun s =>
  match (msgAt s m).map (·.body) with
  | some (Body.event e) =>
    andThen (dropMsg m)
      (andThen
        (onlyIf ((fnAt s (e.part + 1)).evmask.getLsbD (eventClass e.kind)) (queueRecord (e.part + 1) .event (eventWords e)))
        (forSome e.op fun k => answerOp packageUnit e.src k fun o => { o with wait := .none })) s
  | _ => []

/-! ## The steps -/

/-- A function's registers can be written. -/
def regEnabled (s : State) (fn : Nat) : Bool := fn ≤ 8 && hostServed s

/-- OBS_RING_CONFIG (R401). -/
def execObsRingConfig (fn : Nat) (ring : ObsRing) (len : Bool) (v : Word) (s : State) : Host.Outcome State Fault Refusal :=
  actWhen (regEnabled s fn) "OBS_RING_CONFIG" (configRing fn ring len v) s
/-- DROPS_WRITE (R401): any write sets it to 0. -/
def execDropsWrite (fn : Nat) (ring : ObsRing) (_v : Word) (s : State) : Host.Outcome State Fault Refusal :=
  actWhen (regEnabled s fn) "DROPS_WRITE" (updObs fn ring fun o => { o with drops := 0 }) s
/-- SMPCFG_WRITE (R403). -/
def execSmpcfgWrite (fn : Nat) (v : Word) (s : State) : Host.Outcome State Fault Refusal :=
  actWhen (regEnabled s fn) "SMPCFG_WRITE" (writeSmpcfg fn v) s
/-- SELECTOR_WRITE (R406). -/
def execSelectorWrite (fn : Nat) (die : Bool) (i : Nat) (v : Word) (s : State) : Host.Outcome State Fault Refusal :=
  actWhen (regEnabled s fn && selectorGood die i) "SELECTOR_WRITE" (writeSelector fn die i v) s
/-- REGISTER_WRITE (R386). -/
def execRegisterWrite (fn : Nat) (a : HostReg) (v : Word) (s : State) : Host.Outcome State Fault Refusal :=
  actWhen (regEnabled s fn) "REGISTER_WRITE" (writeRegister fn a v) s
/-- SAMPLE_TICK (R403). -/
def execSampleTick (fn : Nat) (u : Pos) (s : State) : Host.Outcome State Fault Refusal :=
  actWhen (sampleEnabled s fn u) "SAMPLE_TICK" (sampleTick fn u) s
/-- RECORD_PERFORMED (R402). -/
def execRecordPerformed (k : Nat) (s : State) : Host.Outcome State Fault Refusal :=
  actWhen (recordEnabled s k) "RECORD_PERFORMED" (performRecord k) s
/-- EVENT_COLLECT (R408). -/
def execEventCollect (m : Nat) (s : State) : Host.Outcome State Fault Refusal :=
  actWhen (collectEnabled s m) "EVENT_COLLECT" (collectEvent m) s

end Sys2Proof.Machine
end

