-- ==== Sys2Proof/Machine/Scalar.lean ====
section
/-! DEFINITION. The meanings of the instructions of the S element and of the integer instructions of the A element (spec/06
R141 to R167): one for each opcode, over the operations of Machine/Arith.lean, with the latencies of R143. -/

namespace Sys2Proof.Machine

open Sys2Proof

/-- An instruction of two sides whose result goes to D0 and D1 after a latency (R142). -/
def alu2 (op : Nat) (o : Ops2) (lat : Nat) (g : Word → Word → Word) (f : Firing) : Prog := fun s =>
  sendAfter f op o.ta (sideB s f o.sb) (some lat)
    (bothOuts o.d0 o.d1 (ofWord (g (lowWord (sideA s f o.sa)) (lowWord (sideB s f o.sb)))) false) 0 s

/-- An instruction of side A alone. -/
def alu1 (op : Nat) (o : Ops1) (lat : Nat) (g : Word → Word) (f : Firing) : Prog := fun s =>
  sendAfter f op o.ta 0 (some lat) (bothOuts o.d0 o.d1 (ofWord (g (lowWord (sideA s f o.sa)))) false) 0 s

/-- A division: it does not fire while the divider is busy (R144). -/
def divide (op : Nat) (o : Ops2) (g : Word → Word → Word) (f : Firing) : Prog :=
  either (fun s => s.fc < (elemAt s f.pos).divBusy) (holdBack f)
    (andThen (fun s => updElem f.pos (fun e => { e with divBusy := s.fc + 18 }) s) (alu2 op o 18 g f))

/-- FPCTL as a firing reads it, once for all of its work (R132). -/
def ctlAt (s : State) (f : Firing) : FpCtl := fpCtl (fpctlUsed s f.pos)

/-- The FP32 datum in a value's low bits (R142). -/
def low32 (w : Word) : BitVec 32 := w.extractLsb' 0 32

/-- An FP32 instruction of two sides: its result and its flags (R142, R155). -/
def fpu2 (op : Nat) (o : Ops2) (lat : Nat) (g : FpCtl → Word → Word → Word × Flags) (f : Firing) : Prog := fun s =>
  let r := g (ctlAt s f) (lowWord (sideA s f o.sa)) (lowWord (sideB s f o.sb))
  sendAfter f op o.ta (sideB s f o.sb) (some lat) (bothOuts o.d0 o.d1 (ofWord r.1) false) r.2 s

/-- An FP32 instruction of side A alone. -/
def fpu1 (op : Nat) (o : Ops1) (lat : Nat) (g : FpCtl → Word → Word × Flags) (f : Firing) : Prog := fun s =>
  let r := g (ctlAt s f) (lowWord (sideA s f o.sa))
  sendAfter f op o.ta 0 (some lat) (bothOuts o.d0 o.d1 (ofWord r.1) false) r.2 s

/-- An FP32 result in the low bits, every bit above 0 (R142). -/
def inLow (r : BitVec 32 × Flags) : Word × Flags := (r.1.zeroExtend 64, r.2)

/-- A truth value and its flags. -/
def truth (r : Bool × Flags) : Word × Flags := (ofBool64 r.1, r.2)

/-- ADD (R147). -/
def execAdd (o : Ops2) (s : State) : Host.Outcome State Fault Refusal :=
  onFiring (alu2 0x20 o 1 (fun a b => a + b)) s

/-- SUB (R147). -/
def execSub (o : Ops2) (s : State) : Host.Outcome State Fault Refusal :=
  onFiring (alu2 0x21 o 1 (fun a b => a - b)) s

/-- MUL (R147). -/
def execMul (o : Ops2) (s : State) : Host.Outcome State Fault Refusal :=
  onFiring (alu2 0x22 o 3 (fun a b => a * b)) s

/-- MULHS (R147). -/
def execMulhs (o : Ops2) (s : State) : Host.Outcome State Fault Refusal :=
  onFiring (alu2 0x23 o 3 mulhs) s

/-- MULHU (R147). -/
def execMulhu (o : Ops2) (s : State) : Host.Outcome State Fault Refusal :=
  onFiring (alu2 0x24 o 3 mulhu) s

/-- DIVS (R148). -/
def execDivs (o : Ops2) (s : State) : Host.Outcome State Fault Refusal :=
  onFiring (divide 0x25 o divs) s

/-- DIVU (R148). -/
def execDivu (o : Ops2) (s : State) : Host.Outcome State Fault Refusal :=
  onFiring (divide 0x26 o divu) s

/-- REMS (R148). -/
def execRems (o : Ops2) (s : State) : Host.Outcome State Fault Refusal :=
  onFiring (divide 0x27 o rems) s

/-- REMU (R148). -/
def execRemu (o : Ops2) (s : State) : Host.Outcome State Fault Refusal :=
  onFiring (divide 0x28 o remu) s

/-- AND (R149). -/
def execAnd (o : Ops2) (s : State) : Host.Outcome State Fault Refusal :=
  onFiring (alu2 0x29 o 1 (fun a b => a &&& b)) s

/-- OR (R149). -/
def execOr (o : Ops2) (s : State) : Host.Outcome State Fault Refusal :=
  onFiring (alu2 0x2A o 1 (fun a b => a ||| b)) s

/-- XOR (R149). -/
def execXor (o : Ops2) (s : State) : Host.Outcome State Fault Refusal :=
  onFiring (alu2 0x2B o 1 (fun a b => a ^^^ b)) s

/-- ANDN (R149). -/
def execAndn (o : Ops2) (s : State) : Host.Outcome State Fault Refusal :=
  onFiring (alu2 0x2C o 1 (fun a b => a &&& ~~~b)) s

/-- SHL (R149). -/
def execShl (o : Ops2) (s : State) : Host.Outcome State Fault Refusal :=
  onFiring (alu2 0x2D o 1 shl) s

/-- SHR (R149). -/
def execShr (o : Ops2) (s : State) : Host.Outcome State Fault Refusal :=
  onFiring (alu2 0x2E o 1 shr) s

/-- SRA (R149). -/
def execSra (o : Ops2) (s : State) : Host.Outcome State Fault Refusal :=
  onFiring (alu2 0x2F o 1 sra) s

/-- ROL (R149). -/
def execRol (o : Ops2) (s : State) : Host.Outcome State Fault Refusal :=
  onFiring (alu2 0x30 o 1 rol) s

/-- MINS (R150). -/
def execMins (o : Ops2) (s : State) : Host.Outcome State Fault Refusal :=
  onFiring (alu2 0x31 o 1 mins) s

/-- MINU (R150). -/
def execMinu (o : Ops2) (s : State) : Host.Outcome State Fault Refusal :=
  onFiring (alu2 0x32 o 1 minu) s

/-- MAXS (R150). -/
def execMaxs (o : Ops2) (s : State) : Host.Outcome State Fault Refusal :=
  onFiring (alu2 0x33 o 1 maxs) s

/-- MAXU (R150). -/
def execMaxu (o : Ops2) (s : State) : Host.Outcome State Fault Refusal :=
  onFiring (alu2 0x34 o 1 maxu) s

/-- CEQ (R150). -/
def execCeq (o : Ops2) (s : State) : Host.Outcome State Fault Refusal :=
  onFiring (alu2 0x35 o 1 (fun a b => ofBool64 (a == b))) s

/-- CNE (R150). -/
def execCne (o : Ops2) (s : State) : Host.Outcome State Fault Refusal :=
  onFiring (alu2 0x36 o 1 (fun a b => ofBool64 (a != b))) s

/-- CLTS (R150). -/
def execClts (o : Ops2) (s : State) : Host.Outcome State Fault Refusal :=
  onFiring (alu2 0x37 o 1 (fun a b => ofBool64 (decide (a.toInt < b.toInt)))) s

/-- CLTU (R150). -/
def execCltu (o : Ops2) (s : State) : Host.Outcome State Fault Refusal :=
  onFiring (alu2 0x38 o 1 (fun a b => ofBool64 (decide (a.toNat < b.toNat)))) s

/-- CLES (R150). -/
def execCles (o : Ops2) (s : State) : Host.Outcome State Fault Refusal :=
  onFiring (alu2 0x39 o 1 (fun a b => ofBool64 (decide (a.toInt ≤ b.toInt)))) s

/-- CLEU (R150). -/
def execCleu (o : Ops2) (s : State) : Host.Outcome State Fault Refusal :=
  onFiring (alu2 0x3A o 1 (fun a b => ofBool64 (decide (a.toNat ≤ b.toNat)))) s

/-- CLZ (R151). -/
def execClz (o : Ops1) (s : State) : Host.Outcome State Fault Refusal :=
  onFiring (alu1 0x3B o 1 clz) s

/-- POPC (R151). -/
def execPopc (o : Ops1) (s : State) : Host.Outcome State Fault Refusal :=
  onFiring (alu1 0x3C o 1 popc) s

/-- BFX (R152). -/
def execBfx (o : Ops2) (s : State) : Host.Outcome State Fault Refusal :=
  onFiring (alu2 0x3D o 1 bfx) s

/-- SEXT (R153). -/
def execSext (o : Ops2) (s : State) : Host.Outcome State Fault Refusal :=
  onFiring (alu2 0x3E o 1 sext) s

/-- ZEXT (R153). -/
def execZext (o : Ops2) (s : State) : Host.Outcome State Fault Refusal :=
  onFiring (alu2 0x3F o 1 zext) s

/-- FADD (R156). -/
def execFadd (o : Ops2) (s : State) : Host.Outcome State Fault Refusal :=
  onFiring (fpu2 0x40 o 4 fun c a b => inLow (fadd c (low32 a) (low32 b))) s

/-- FSUB (R156). -/
def execFsub (o : Ops2) (s : State) : Host.Outcome State Fault Refusal :=
  onFiring (fpu2 0x41 o 4 fun c a b => inLow (fsub c (low32 a) (low32 b))) s

/-- FMUL (R156). -/
def execFmul (o : Ops2) (s : State) : Host.Outcome State Fault Refusal :=
  onFiring (fpu2 0x42 o 4 fun c a b => inLow (fmul c (low32 a) (low32 b))) s

/-- FFMA with its side C: to D0 only (R142, R156). -/
def fusedAdd (o : Ops3) (f : Firing) : Prog := fun s =>
  let r := ffma (ctlAt s f) (low32 (lowWord (sideA s f o.sa))) (low32 (lowWord (sideB s f o.sb)))
    (low32 (lowWord (sideC s f o.sc)))
  sendAfter f 0x43 o.ta (sideB s f o.sb) (some 4) (outOf (dstNat o.d0) (ofWord (r.1.zeroExtend 64)) false false) r.2 s

/-- FFMA (R156). -/
def execFfma (o : Ops3) (s : State) : Host.Outcome State Fault Refusal :=
  onFiring (fusedAdd o) s

/-- FMIN (R157). -/
def execFmin (o : Ops2) (s : State) : Host.Outcome State Fault Refusal :=
  onFiring (fpu2 0x44 o 1 fun c a b => inLow (fminmax false c (low32 a) (low32 b))) s

/-- FMAX (R157). -/
def execFmax (o : Ops2) (s : State) : Host.Outcome State Fault Refusal :=
  onFiring (fpu2 0x45 o 1 fun c a b => inLow (fminmax true c (low32 a) (low32 b))) s

/-- FABS (R158). -/
def execFabs (o : Ops1) (s : State) : Host.Outcome State Fault Refusal :=
  onFiring (fpu1 0x46 o 1 fun c a => ((fabsBits c (low32 a)).zeroExtend 64, 0)) s

/-- FNEG (R158). -/
def execFneg (o : Ops1) (s : State) : Host.Outcome State Fault Refusal :=
  onFiring (fpu1 0x47 o 1 fun c a => ((fnegBits c (low32 a)).zeroExtend 64, 0)) s

/-- FCEQ (R159). -/
def execFceq (o : Ops2) (s : State) : Host.Outcome State Fault Refusal :=
  onFiring (fpu2 0x48 o 1 fun c a b => truth (fceq c (low32 a) (low32 b))) s

/-- FCLT (R159). -/
def execFclt (o : Ops2) (s : State) : Host.Outcome State Fault Refusal :=
  onFiring (fpu2 0x49 o 1 fun c a b => truth (fclt c (low32 a) (low32 b))) s

/-- FCLE (R159). -/
def execFcle (o : Ops2) (s : State) : Host.Outcome State Fault Refusal :=
  onFiring (fpu2 0x4A o 1 fun c a b => truth (fcle c (low32 a) (low32 b))) s

/-- FCUN (R159). -/
def execFcun (o : Ops2) (s : State) : Host.Outcome State Fault Refusal :=
  onFiring (fpu2 0x4B o 1 fun c a b => truth (fcun c (low32 a) (low32 b))) s

/-- FRSQ (R160). -/
def execFrsq (o : Ops1) (s : State) : Host.Outcome State Fault Refusal :=
  onFiring (fpu1 0x4C o 6 fun c a => inLow (frsq c (low32 a))) s

/-- FRCP (R160). -/
def execFrcp (o : Ops1) (s : State) : Host.Outcome State Fault Refusal :=
  onFiring (fpu1 0x4D o 6 fun c a => inLow (frcp c (low32 a))) s

/-- FEXP2 (R160). -/
def execFexp2 (o : Ops1) (s : State) : Host.Outcome State Fault Refusal :=
  onFiring (fpu1 0x4E o 6 fun c a => inLow (fexp2 c (low32 a))) s

/-- FLOG2 (R160). -/
def execFlog2 (o : Ops1) (s : State) : Host.Outcome State Fault Refusal :=
  onFiring (fpu1 0x4F o 6 fun c a => inLow (flog2 c (low32 a))) s

/-- FCLASS (R161). -/
def execFclass (o : Ops1) (s : State) : Host.Outcome State Fault Refusal :=
  onFiring (fpu1 0x50 o 1 fun c a => ((fclass c (low32 a)).zeroExtend 64, 0)) s

/-- FRND (R162). -/
def execFrnd (o : Ops2) (s : State) : Host.Outcome State Fault Refusal :=
  onFiring (fpu2 0x51 o 3 fun c a b => inLow (frnd c (low32 a) (field b 2 0))) s

/-- FCVTI (R163). -/
def execFcvti (o : Ops2) (s : State) : Host.Outcome State Fault Refusal :=
  onFiring (fpu2 0x52 o 3 fun c a b => fcvti c (low32 a) b) s

/-- ICVTF (R164). -/
def execIcvtf (o : Ops2) (s : State) : Host.Outcome State Fault Refusal :=
  onFiring (fpu2 0x53 o 3 fun c a b => inLow (icvtf c a b)) s

/-- FPACK (R165). -/
def execFpack (o : Ops2) (s : State) : Host.Outcome State Fault Refusal :=
  onFiring (alu2 0x54 o 1 fun a b => (low32 b ++ low32 a : BitVec 64)) s

/-- FHI (R165). -/
def execFhi (o : Ops1) (s : State) : Host.Outcome State Fault Refusal :=
  onFiring (fpu1 0x55 o 1 fun _ a => ((a.extractLsb' 32 32).zeroExtend 64, 0)) s

/-- FSCALB (R166). -/
def execFscalb (o : Ops2) (s : State) : Host.Outcome State Fault Refusal :=
  onFiring (fpu2 0x56 o 4 fun c a b => inLow (fscalb c (low32 a) b)) s

/-- FCVT (R167). -/
def execFcvt (o : Ops2) (s : State) : Host.Outcome State Fault Refusal :=
  onFiring (fpu2 0x57 o 3 fun c a b => fcvt c a b) s

end Sys2Proof.Machine
end

