-- ==== Sys2Proof/Machine/Vector.lean ====
section
/-! DEFINITION. The meanings of the forty instructions of the V element (spec/07 R168 to R184): one for each opcode, over the
lane operations of Machine/Arith.lean, with the latencies of R172. -/

namespace Sys2Proof.Machine

open Sys2Proof

/-- FPCTL as a V firing reads it, once for all lanes and steps (R184). -/
def vctlAt (s : State) (f : Firing) : FpCtl := fpCtl (fpctlUsed s f.pos)

/-- A V instruction of two sides with a wide result (R169). -/
def vec2 (op : Nat) (o : Ops2) (lat : Nat) (g : FpCtl → Wide → Wide → Wide × Flags) (f : Firing) : Prog := fun s =>
  let r := g (vctlAt s f) (sideA s f o.sa) (sideB s f o.sb)
  sendAfter f op o.ta (sideB s f o.sb) (some lat) (bothOuts o.d0 o.d1 r.1 true) r.2 s

/-- A V instruction of side A alone with a wide result. -/
def vec1 (op : Nat) (o : Ops1) (lat : Nat) (g : FpCtl → Wide → Wide × Flags) (f : Firing) : Prog := fun s =>
  let r := g (vctlAt s f) (sideA s f o.sa)
  sendAfter f op o.ta 0 (some lat) (bothOuts o.d0 o.d1 r.1 true) r.2 s

/-- A V instruction of three sides, C selected by the extension word (R43). -/
def vec3 (op : Nat) (o : Ops2) (sc : Src) (lat : Nat) (g : FpCtl → Wide → Wide → Wide → Wide × Flags) (f : Firing) :
    Prog := fun s =>
  let r := g (vctlAt s f) (sideA s f o.sa) (sideB s f o.sb) (sideC s f sc)
  sendAfter f op o.ta (sideB s f o.sb) (some lat) (bothOuts o.d0 o.d1 r.1 true) r.2 s

/-- A V instruction with a narrow result (R169). -/
def vecNarrow2 (op : Nat) (o : Ops2) (lat : Nat) (g : FpCtl → Wide → Wide → Word × Flags) (f : Firing) : Prog := fun s =>
  let r := g (vctlAt s f) (sideA s f o.sa) (sideB s f o.sb)
  sendAfter f op o.ta (sideB s f o.sb) (some lat) (bothOuts o.d0 o.d1 (ofWord r.1) false) r.2 s

/-- A V instruction of side A alone with a narrow result. -/
def vecNarrow1 (op : Nat) (o : Ops1) (lat : Nat) (g : FpCtl → Wide → Word × Flags) (f : Firing) : Prog := fun s =>
  let r := g (vctlAt s f) (sideA s f o.sa)
  sendAfter f op o.ta 0 (some lat) (bothOuts o.d0 o.d1 (ofWord r.1) false) r.2 s

/-- A lane operation without flags on two sides (R179). -/
def lanes2 (g : BitVec 32 → BitVec 32 → BitVec 32) (a b : Wide) : Wide × Flags := mapLanes2 (fun x y => plain (g x y)) a b

/-- An FP32 reduction's encoding in the low bits (R182). -/
def reduced (r : BitVec 32 × Flags) : Word × Flags := (r.1.zeroExtend 64, r.2)

/-- VADD (R174). -/
def execVadd (o : Ops2) (s : State) : Host.Outcome State Fault Refusal :=
  onFiring (vec2 0x60 o 4 fun c a b => mapLanes2 (fadd c) a b) s

/-- VSUB (R174). -/
def execVsub (o : Ops2) (s : State) : Host.Outcome State Fault Refusal :=
  onFiring (vec2 0x61 o 4 fun c a b => mapLanes2 (fsub c) a b) s

/-- VMUL (R174). -/
def execVmul (o : Ops2) (s : State) : Host.Outcome State Fault Refusal :=
  onFiring (vec2 0x62 o 4 fun c a b => mapLanes2 (fmul c) a b) s

/-- VFMA (R174). -/
def execVfma (o : Ops2) (sc : Src) (s : State) : Host.Outcome State Fault Refusal :=
  onFiring (vec3 0x63 o sc 4 fun c x y z => mapLanes3 (ffma c) x y z) s

/-- VMIN (R175). -/
def execVmin (o : Ops2) (s : State) : Host.Outcome State Fault Refusal :=
  onFiring (vec2 0x64 o 1 fun c a b => mapLanes2 (fminmax false c) a b) s

/-- VMAX (R175). -/
def execVmax (o : Ops2) (s : State) : Host.Outcome State Fault Refusal :=
  onFiring (vec2 0x65 o 1 fun c a b => mapLanes2 (fminmax true c) a b) s

/-- VABS (R175). -/
def execVabs (o : Ops1) (s : State) : Host.Outcome State Fault Refusal :=
  onFiring (vec1 0x66 o 1 fun c a => mapLanes1 (fun x => plain (fabsBits c x)) a) s

/-- VNEG (R175). -/
def execVneg (o : Ops1) (s : State) : Host.Outcome State Fault Refusal :=
  onFiring (vec1 0x67 o 1 fun c a => mapLanes1 (fun x => plain (fnegBits c x)) a) s

/-- VRCP (R176). -/
def execVrcp (o : Ops1) (s : State) : Host.Outcome State Fault Refusal :=
  onFiring (vec1 0x68 o 6 fun c a => mapLanes1 (frcp c) a) s

/-- VRSQ (R176). -/
def execVrsq (o : Ops1) (s : State) : Host.Outcome State Fault Refusal :=
  onFiring (vec1 0x69 o 6 fun c a => mapLanes1 (frsq c) a) s

/-- VEXP2 (R176). -/
def execVexp2 (o : Ops1) (s : State) : Host.Outcome State Fault Refusal :=
  onFiring (vec1 0x6A o 6 fun c a => mapLanes1 (fexp2 c) a) s

/-- VLOG2 (R176). -/
def execVlog2 (o : Ops1) (s : State) : Host.Outcome State Fault Refusal :=
  onFiring (vec1 0x6B o 6 fun c a => mapLanes1 (flog2 c) a) s

/-- VCEQ (R177). -/
def execVceq (o : Ops2) (s : State) : Host.Outcome State Fault Refusal :=
  onFiring (vec2 0x6C o 1 fun c a b => mapLanes2 (fun x y => maskOf (fceq c x y)) a b) s

/-- VCLT (R177). -/
def execVclt (o : Ops2) (s : State) : Host.Outcome State Fault Refusal :=
  onFiring (vec2 0x6D o 1 fun c a b => mapLanes2 (fun x y => maskOf (fclt c x y)) a b) s

/-- VCLE (R177). -/
def execVcle (o : Ops2) (s : State) : Host.Outcome State Fault Refusal :=
  onFiring (vec2 0x6E o 1 fun c a b => mapLanes2 (fun x y => maskOf (fcle c x y)) a b) s

/-- VSEL (R178). -/
def execVsel (o : Ops2) (sc : Src) (s : State) : Host.Outcome State Fault Refusal :=
  onFiring (vec3 0x6F o sc 1 fun _ x y z => mapLanes3 (fun p q m => plain (if m = 0 then q else p)) x y z) s

/-- VRSUM (R182). -/
def execVrsum (o : Ops1) (s : State) : Host.Outcome State Fault Refusal :=
  onFiring (vecNarrow1 0x70 o 16 fun c a => reduced (tree16 (fadd c) (lanes a))) s

/-- VRMAX (R182). -/
def execVrmax (o : Ops1) (s : State) : Host.Outcome State Fault Refusal :=
  onFiring (vecNarrow1 0x71 o 5 fun c a => reduced (tree16 (fminmax true c) (lanes a))) s

/-- VSCAN (R183). -/
def execVscan (o : Ops2) (s : State) : Host.Outcome State Fault Refusal :=
  onFiring (vec2 0x72 o 16 fun c a b => vscan c a (lane b 0)) s

/-- VSHUF (R181). -/
def execVshuf (o : Ops2) (s : State) : Host.Outcome State Fault Refusal :=
  onFiring (vec2 0x73 o 2 fun _ a b => (vshuf a b, 0)) s

/-- VBCAST (R181). -/
def execVbcast (o : Ops2) (s : State) : Host.Outcome State Fault Refusal :=
  onFiring (vec2 0x74 o 2 fun _ a b => (vbcast a b, 0)) s

/-- VIADD (R179). -/
def execViadd (o : Ops2) (s : State) : Host.Outcome State Fault Refusal :=
  onFiring (vec2 0x75 o 1 fun _ a b => lanes2 (fun x y => x + y) a b) s

/-- VISUB (R179). -/
def execVisub (o : Ops2) (s : State) : Host.Outcome State Fault Refusal :=
  onFiring (vec2 0x76 o 1 fun _ a b => lanes2 (fun x y => x - y) a b) s

/-- VIMUL (R179). -/
def execVimul (o : Ops2) (s : State) : Host.Outcome State Fault Refusal :=
  onFiring (vec2 0x77 o 3 fun _ a b => lanes2 (fun x y => x * y) a b) s

/-- VAND (R179). -/
def execVand (o : Ops2) (s : State) : Host.Outcome State Fault Refusal :=
  onFiring (vec2 0x78 o 1 fun _ a b => lanes2 (fun x y => x &&& y) a b) s

/-- VOR (R179). -/
def execVor (o : Ops2) (s : State) : Host.Outcome State Fault Refusal :=
  onFiring (vec2 0x79 o 1 fun _ a b => lanes2 (fun x y => x ||| y) a b) s

/-- VXOR (R179). -/
def execVxor (o : Ops2) (s : State) : Host.Outcome State Fault Refusal :=
  onFiring (vec2 0x7A o 1 fun _ a b => lanes2 (fun x y => x ^^^ y) a b) s

/-- VSHL (R179). -/
def execVshl (o : Ops2) (s : State) : Host.Outcome State Fault Refusal :=
  onFiring (vec2 0x7B o 1 fun _ a b => lanes2 (fun x y => x <<< laneAmount y) a b) s

/-- VSHR (R179). -/
def execVshr (o : Ops2) (s : State) : Host.Outcome State Fault Refusal :=
  onFiring (vec2 0x7C o 1 fun _ a b => lanes2 (fun x y => x >>> laneAmount y) a b) s

/-- VSRA (R179). -/
def execVsra (o : Ops2) (s : State) : Host.Outcome State Fault Refusal :=
  onFiring (vec2 0x7D o 1 fun _ a b => lanes2 (fun x y => x.sshiftRight (laneAmount y)) a b) s

/-- VIMIN (R179). -/
def execVimin (o : Ops2) (s : State) : Host.Outcome State Fault Refusal :=
  onFiring (vec2 0x7E o 1 fun _ a b => lanes2 (fun x y => if x.toInt ≤ y.toInt then x else y) a b) s

/-- VIMAX (R179). -/
def execVimax (o : Ops2) (s : State) : Host.Outcome State Fault Refusal :=
  onFiring (vec2 0x7F o 1 fun _ a b => lanes2 (fun x y => if x.toInt ≤ y.toInt then y else x) a b) s

/-- VCVTI (R180). -/
def execVcvti (o : Ops2) (s : State) : Host.Outcome State Fault Refusal :=
  onFiring (vec2 0x80 o 3 fun c a b => mapLanes1 (vcvti c (lane b 0)) a) s

/-- VCVTF (R180). -/
def execVcvtf (o : Ops2) (s : State) : Host.Outcome State Fault Refusal :=
  onFiring (vec2 0x81 o 3 fun c a b => mapLanes1 (vcvtf c (lane b 0)) a) s

/-- VINS (R181). -/
def execVins (o : Ops2) (sc : Src) (s : State) : Host.Outcome State Fault Refusal :=
  onFiring (vec3 0x82 o sc 2 fun _ x y z => (vins x y z, 0)) s

/-- VEXT (R181). -/
def execVext (o : Ops2) (s : State) : Host.Outcome State Fault Refusal :=
  onFiring (vecNarrow2 0x83 o 2 fun _ a b => (vext a b, 0)) s

/-- VSPLAT (R181). -/
def execVsplat (o : Ops2) (s : State) : Host.Outcome State Fault Refusal :=
  onFiring (vec2 0x84 o 2 fun _ a b => (vsplat a b, 0)) s

/-- VCLASS (R177). -/
def execVclass (o : Ops1) (s : State) : Host.Outcome State Fault Refusal :=
  onFiring (vec1 0x85 o 1 fun c a => mapLanes1 (fun x => plain (fclass c x)) a) s

/-- VRND (R180). -/
def execVrnd (o : Ops2) (s : State) : Host.Outcome State Fault Refusal :=
  onFiring (vec2 0x86 o 3 fun c a b => mapLanes1 (fun x => frnd c x ((lane b 0).extractLsb' 0 3).toNat) a) s

/-- The lane products, each rounded once, reduced by the tree (R182). -/
def vdot (c : FpCtl) (a b : Wide) : Word × Flags :=
  let m := mapLanes2 (fmul c) a b
  let r := tree16 (fadd c) (lanes m.1)
  (r.1.zeroExtend 64, m.2 ||| r.2)

/-- VDOT (R182). -/
def execVdot (o : Ops2) (s : State) : Host.Outcome State Fault Refusal :=
  onFiring (vecNarrow2 0x87 o 20 vdot) s

end Sys2Proof.Machine
end

