-- ==== Sys2Proof/Machine/Dispatch.lean ====
section
/-! DEFINITION. One arm for every constructor of Instr: a direct call of its meaning. -/

namespace Sys2Proof.Machine

open Sys2Proof

/-- What an instruction or a step of the part does to the state. -/
def exec (i : Instr) (s : State) : Host.Outcome State Fault Refusal :=
  match i with
  | .mov o => Sys2Proof.Machine.execMov o s
  | .steer o => Sys2Proof.Machine.execSteer o s
  | .merge o => Sys2Proof.Machine.execMerge o s
  | .join o => Sys2Proof.Machine.execJoin o s
  | .falloc o => Sys2Proof.Machine.execFalloc o s
  | .ffree o => Sys2Proof.Machine.execFfree o s
  | .loopn o => Sys2Proof.Machine.execLoopn o s
  | .call o => Sys2Proof.Machine.execCall o s
  | .ret o => Sys2Proof.Machine.execRet o s
  | .yield o => Sys2Proof.Machine.execYield o s
  | .trap sa => Sys2Proof.Machine.execTrap sa s
  | .assert o => Sys2Proof.Machine.execAssert o s
  | .wset o => Sys2Proof.Machine.execWset o s
  | .switch o => Sys2Proof.Machine.execSwitch o s
  | .condw o => Sys2Proof.Machine.execCondw o s
  | .add o => Sys2Proof.Machine.execAdd o s
  | .sub o => Sys2Proof.Machine.execSub o s
  | .mul o => Sys2Proof.Machine.execMul o s
  | .mulhs o => Sys2Proof.Machine.execMulhs o s
  | .mulhu o => Sys2Proof.Machine.execMulhu o s
  | .divs o => Sys2Proof.Machine.execDivs o s
  | .divu o => Sys2Proof.Machine.execDivu o s
  | .rems o => Sys2Proof.Machine.execRems o s
  | .remu o => Sys2Proof.Machine.execRemu o s
  | .and o => Sys2Proof.Machine.execAnd o s
  | .or o => Sys2Proof.Machine.execOr o s
  | .xor o => Sys2Proof.Machine.execXor o s
  | .andn o => Sys2Proof.Machine.execAndn o s
  | .shl o => Sys2Proof.Machine.execShl o s
  | .shr o => Sys2Proof.Machine.execShr o s
  | .sra o => Sys2Proof.Machine.execSra o s
  | .rol o => Sys2Proof.Machine.execRol o s
  | .mins o => Sys2Proof.Machine.execMins o s
  | .minu o => Sys2Proof.Machine.execMinu o s
  | .maxs o => Sys2Proof.Machine.execMaxs o s
  | .maxu o => Sys2Proof.Machine.execMaxu o s
  | .ceq o => Sys2Proof.Machine.execCeq o s
  | .cne o => Sys2Proof.Machine.execCne o s
  | .clts o => Sys2Proof.Machine.execClts o s
  | .cltu o => Sys2Proof.Machine.execCltu o s
  | .cles o => Sys2Proof.Machine.execCles o s
  | .cleu o => Sys2Proof.Machine.execCleu o s
  | .clz o => Sys2Proof.Machine.execClz o s
  | .popc o => Sys2Proof.Machine.execPopc o s
  | .bfx o => Sys2Proof.Machine.execBfx o s
  | .sext o => Sys2Proof.Machine.execSext o s
  | .zext o => Sys2Proof.Machine.execZext o s
  | .fadd o => Sys2Proof.Machine.execFadd o s
  | .fsub o => Sys2Proof.Machine.execFsub o s
  | .fmul o => Sys2Proof.Machine.execFmul o s
  | .ffma o => Sys2Proof.Machine.execFfma o s
  | .fmin o => Sys2Proof.Machine.execFmin o s
  | .fmax o => Sys2Proof.Machine.execFmax o s
  | .fabs o => Sys2Proof.Machine.execFabs o s
  | .fneg o => Sys2Proof.Machine.execFneg o s
  | .fceq o => Sys2Proof.Machine.execFceq o s
  | .fclt o => Sys2Proof.Machine.execFclt o s
  | .fcle o => Sys2Proof.Machine.execFcle o s
  | .fcun o => Sys2Proof.Machine.execFcun o s
  | .frsq o => Sys2Proof.Machine.execFrsq o s
  | .frcp o => Sys2Proof.Machine.execFrcp o s
  | .fexp2 o => Sys2Proof.Machine.execFexp2 o s
  | .flog2 o => Sys2Proof.Machine.execFlog2 o s
  | .fclass o => Sys2Proof.Machine.execFclass o s
  | .frnd o => Sys2Proof.Machine.execFrnd o s
  | .fcvti o => Sys2Proof.Machine.execFcvti o s
  | .icvtf o => Sys2Proof.Machine.execIcvtf o s
  | .fpack o => Sys2Proof.Machine.execFpack o s
  | .fhi o => Sys2Proof.Machine.execFhi o s
  | .fscalb o => Sys2Proof.Machine.execFscalb o s
  | .fcvt o => Sys2Proof.Machine.execFcvt o s
  | .vadd o => Sys2Proof.Machine.execVadd o s
  | .vsub o => Sys2Proof.Machine.execVsub o s
  | .vmul o => Sys2Proof.Machine.execVmul o s
  | .vfma o sc => Sys2Proof.Machine.execVfma o sc s
  | .vmin o => Sys2Proof.Machine.execVmin o s
  | .vmax o => Sys2Proof.Machine.execVmax o s
  | .vabs o => Sys2Proof.Machine.execVabs o s
  | .vneg o => Sys2Proof.Machine.execVneg o s
  | .vrcp o => Sys2Proof.Machine.execVrcp o s
  | .vrsq o => Sys2Proof.Machine.execVrsq o s
  | .vexp2 o => Sys2Proof.Machine.execVexp2 o s
  | .vlog2 o => Sys2Proof.Machine.execVlog2 o s
  | .vceq o => Sys2Proof.Machine.execVceq o s
  | .vclt o => Sys2Proof.Machine.execVclt o s
  | .vcle o => Sys2Proof.Machine.execVcle o s
  | .vsel o sc => Sys2Proof.Machine.execVsel o sc s
  | .vrsum o => Sys2Proof.Machine.execVrsum o s
  | .vrmax o => Sys2Proof.Machine.execVrmax o s
  | .vscan o => Sys2Proof.Machine.execVscan o s
  | .vshuf o => Sys2Proof.Machine.execVshuf o s
  | .vbcast o => Sys2Proof.Machine.execVbcast o s
  | .viadd o => Sys2Proof.Machine.execViadd o s
  | .visub o => Sys2Proof.Machine.execVisub o s
  | .vimul o => Sys2Proof.Machine.execVimul o s
  | .vand o => Sys2Proof.Machine.execVand o s
  | .vor o => Sys2Proof.Machine.execVor o s
  | .vxor o => Sys2Proof.Machine.execVxor o s
  | .vshl o => Sys2Proof.Machine.execVshl o s
  | .vshr o => Sys2Proof.Machine.execVshr o s
  | .vsra o => Sys2Proof.Machine.execVsra o s
  | .vimin o => Sys2Proof.Machine.execVimin o s
  | .vimax o => Sys2Proof.Machine.execVimax o s
  | .vcvti o => Sys2Proof.Machine.execVcvti o s
  | .vcvtf o => Sys2Proof.Machine.execVcvtf o s
  | .vins o sc => Sys2Proof.Machine.execVins o sc s
  | .vext o => Sys2Proof.Machine.execVext o s
  | .vsplat o => Sys2Proof.Machine.execVsplat o s
  | .vclass o => Sys2Proof.Machine.execVclass o s
  | .vrnd o => Sys2Proof.Machine.execVrnd o s
  | .vdot o => Sys2Proof.Machine.execVdot o s
  | .ld o x => Sys2Proof.Machine.execLd o x s
  | .st o x => Sys2Proof.Machine.execSt o x s
  | .ldw o x => Sys2Proof.Machine.execLdw o x s
  | .stw o x => Sys2Proof.Machine.execStw o x s
  | .ldg o x => Sys2Proof.Machine.execLdg o x s
  | .sts o x => Sys2Proof.Machine.execSts o x s
  | .aadd o x => Sys2Proof.Machine.execAadd o x s
  | .afadd o x => Sys2Proof.Machine.execAfadd o x s
  | .amin o x => Sys2Proof.Machine.execAmin o x s
  | .amax o x => Sys2Proof.Machine.execAmax o x s
  | .axchg o x => Sys2Proof.Machine.execAxchg o x s
  | .acas o x => Sys2Proof.Machine.execAcas o x s
  | .aand o x => Sys2Proof.Machine.execAand o x s
  | .aor o x => Sys2Proof.Machine.execAor o x s
  | .fence o x => Sys2Proof.Machine.execFence o x s
  | .halloc o x => Sys2Proof.Machine.execHalloc o x s
  | .hfree o x => Sys2Proof.Machine.execHfree o x s
  | .hmap o x => Sys2Proof.Machine.execHmap o x s
  | .hfmt o x => Sys2Proof.Machine.execHfmt o x s
  | .hdesc o x => Sys2Proof.Machine.execHdesc o x s
  | .rpush o x => Sys2Proof.Machine.execRpush o x s
  | .copy o x => Sys2Proof.Machine.execCopy o x s
  | .strmi o x => Sys2Proof.Machine.execStrmi o x s
  | .strmo o x => Sys2Proof.Machine.execStrmo o x s
  | .relm o x => Sys2Proof.Machine.execRelm o x s
  | .mrg o x => Sys2Proof.Machine.execMrg o x s
  | .launch o x => Sys2Proof.Machine.execLaunch o x s
  | .sstep o x => Sys2Proof.Machine.execSstep o x s
  | .bari o x => Sys2Proof.Machine.execBari o x s
  | .bar o x => Sys2Proof.Machine.execBar o x s
  | .bara o x => Sys2Proof.Machine.execBara o x s
  | .bard o x => Sys2Proof.Machine.execBard o x s
  | .mldb o x => Sys2Proof.Machine.execMldb o x s
  | .mma o x => Sys2Proof.Machine.execMma o x s
  | .mmas o x => Sys2Proof.Machine.execMmas o x s
  | .mmap o x => Sys2Proof.Machine.execMmap o x s
  | .mzero o x => Sys2Proof.Machine.execMzero o x s
  | .mout o x => Sys2Proof.Machine.execMout o x s
  | .madj o x => Sys2Proof.Machine.execMadj o x s
  | .mstat o x => Sys2Proof.Machine.execMstat o x s
  | .cload o x => Sys2Proof.Machine.execCload o x s
  | .cprobe o x => Sys2Proof.Machine.execCprobe o x s
  | .cflush o x => Sys2Proof.Machine.execCflush o x s
  | .cclr o x => Sys2Proof.Machine.execCclr o x s
  | .prun o x => Sys2Proof.Machine.execPrun o x s
  | .prunt o x => Sys2Proof.Machine.execPrunt o x s
  | .pcnt o x => Sys2Proof.Machine.execPcnt o x s
  | .csrw o x => Sys2Proof.Machine.execCsrw o x s
  | .nmx o x => Sys2Proof.Machine.execNmx o x s
  | .gathb o x => Sys2Proof.Machine.execGathb o x s
  | .sysrd o x => Sys2Proof.Machine.execSysrd o x s
  | .syswr o x => Sys2Proof.Machine.execSyswr o x s
  | .rdtime o => Sys2Proof.Machine.execRdtime o s
  | .rdcoord o => Sys2Proof.Machine.execRdcoord o s
  | .evt o x => Sys2Proof.Machine.execEvt o x s
  | .perfrd o => Sys2Proof.Machine.execPerfrd o s
  | .kiln o x => Sys2Proof.Machine.execKiln o x s
  | .tokenArrival m => Sys2Proof.Machine.execTokenArrival m s
  | .flitHop m => Sys2Proof.Machine.execFlitHop m s
  | .pipelineCompletion p k => Sys2Proof.Machine.execPipelineCompletion p k s
  | .tokenInject p m => Sys2Proof.Machine.execTokenInject p m s
  | .spill p k => Sys2Proof.Machine.execSpill p k s
  | .cellarLookup p m => Sys2Proof.Machine.execCellarLookup p m s
  | .frameOperation m => Sys2Proof.Machine.execFrameOperation m s
  | .nextSend p k => Sys2Proof.Machine.execNextSend p k s
  | .loopnEmission p k => Sys2Proof.Machine.execLoopnEmission p k s
  | .frameGrant w => Sys2Proof.Machine.execFrameGrant w s
  | .frameRelease w => Sys2Proof.Machine.execFrameRelease w s
  | .purgeAcknowledged m => Sys2Proof.Machine.execPurgeAcknowledged m s
  | .parkChange m => Sys2Proof.Machine.execParkChange m s
  | .fpctlApply m => Sys2Proof.Machine.execFpctlApply m s
  | .switchDecision m => Sys2Proof.Machine.execSwitchDecision m s
  | .unitEmptyReport r u => Sys2Proof.Machine.execUnitEmptyReport r u s
  | .slotChange r => Sys2Proof.Machine.execSlotChange r s
  | .transactionAcquire q => Sys2Proof.Machine.execTransactionAcquire q s
  | .memoryRequest q j => Sys2Proof.Machine.execMemoryRequest q j s
  | .internalCompletion m => Sys2Proof.Machine.execInternalCompletion m s
  | .hbmServe q j => Sys2Proof.Machine.execHbmServe q j s
  | .refreshDue c b => Sys2Proof.Machine.execRefreshDue c b s
  | .refreshIssue c b => Sys2Proof.Machine.execRefreshIssue c b s
  | .refreshEnd c b => Sys2Proof.Machine.execRefreshEnd c b s
  | .catchUp c => Sys2Proof.Machine.execCatchUp c s
  | .catchUpEnd c => Sys2Proof.Machine.execCatchUpEnd c s
  | .temperatureReading g t => Sys2Proof.Machine.execTemperatureReading g t s
  | .pendingMiss q j => Sys2Proof.Machine.execPendingMiss q j s
  | .walkComplete k => Sys2Proof.Machine.execWalkComplete k s
  | .faultRetry q j => Sys2Proof.Machine.execFaultRetry q j s
  | .transactionTimeout q j => Sys2Proof.Machine.execTransactionTimeout q j s
  | .lateReply q j => Sys2Proof.Machine.execLateReply q j s
  | .peerRequest a => Sys2Proof.Machine.execPeerRequest a s
  | .hostBar1Access fn a => Sys2Proof.Machine.execHostBar1Access fn a s
  | .ringPush k => Sys2Proof.Machine.execRingPush k s
  | .copyUnit p k => Sys2Proof.Machine.execCopyUnit p k s
  | .strmiBlock p k => Sys2Proof.Machine.execStrmiBlock p k s
  | .engineCompletion p k => Sys2Proof.Machine.execEngineCompletion p k s
  | .mergeRecord p => Sys2Proof.Machine.execMergeRecord p s
  | .millRequest u c => Sys2Proof.Machine.execMillRequest u c s
  | .millCoordinate u c => Sys2Proof.Machine.execMillCoordinate u c s
  | .millSlot u c => Sys2Proof.Machine.execMillSlot u c s
  | .sequencerBegin p => Sys2Proof.Machine.execSequencerBegin p s
  | .chunkLoad p => Sys2Proof.Machine.execChunkLoad p s
  | .matrixRow p => Sys2Proof.Machine.execMatrixRow p s
  | .adjunctFill k => Sys2Proof.Machine.execAdjunctFill k s
  | .adapterPass p => Sys2Proof.Machine.execAdapterPass p s
  | .commit p => Sys2Proof.Machine.execCommit p s
  | .abandon p => Sys2Proof.Machine.execAbandon p s
  | .plaunch fn w => Sys2Proof.Machine.execPlaunch fn w s
  | .launchQueueTake d => Sys2Proof.Machine.execLaunchQueueTake d s
  | .counterDecrement m => Sys2Proof.Machine.execCounterDecrement m s
  | .dispatch d k => Sys2Proof.Machine.execDispatch d k s
  | .wakeComplete r => Sys2Proof.Machine.execWakeComplete r s
  | .installComplete r => Sys2Proof.Machine.execInstallComplete r s
  | .installPreempt r => Sys2Proof.Machine.execInstallPreempt r s
  | .instanceComplete r => Sys2Proof.Machine.execInstanceComplete r s
  | .shareReport m => Sys2Proof.Machine.execShareReport m s
  | .nodeFail run n => Sys2Proof.Machine.execNodeFail run n s
  | .conditionNode run n => Sys2Proof.Machine.execConditionNode run n s
  | .whileNode run n => Sys2Proof.Machine.execWhileNode run n s
  | .runEnd run => Sys2Proof.Machine.execRunEnd run s
  | .agingPeriod => Sys2Proof.Machine.execAgingPeriod s
  | .reservation d => Sys2Proof.Machine.execReservation d s
  | .barrierOperation m => Sys2Proof.Machine.execBarrierOperation m s
  | .barrierWake m => Sys2Proof.Machine.execBarrierWake m s
  | .deadlineExpiry r => Sys2Proof.Machine.execDeadlineExpiry r s
  | .cooperativeSave r => Sys2Proof.Machine.execCooperativeSave r s
  | .captureBegin r => Sys2Proof.Machine.execCaptureBegin r s
  | .saveComplete r => Sys2Proof.Machine.execSaveComplete r s
  | .yrWithdraw r => Sys2Proof.Machine.execYrWithdraw r s
  | .resume r => Sys2Proof.Machine.execResume r s
  | .regionError m => Sys2Proof.Machine.execRegionError m s
  | .watchdog r => Sys2Proof.Machine.execWatchdog r s
  | .uncorrectableData q j => Sys2Proof.Machine.execUncorrectableData q j s
  | .abortCompletion m => Sys2Proof.Machine.execAbortCompletion m s
  | .correctedError u => Sys2Proof.Machine.execCorrectedError u s
  | .bucketRotate => Sys2Proof.Machine.execBucketRotate s
  | .kilnSubmit => Sys2Proof.Machine.execKilnSubmit s
  | .kilnScanEnd => Sys2Proof.Machine.execKilnScanEnd s
  | .kilnAbort => Sys2Proof.Machine.execKilnAbort s
  | .psetup fn a => Sys2Proof.Machine.execPsetup fn a s
  | .ginstall fn im tab n => Sys2Proof.Machine.execGinstall fn im tab n s
  | .gremove fn g => Sys2Proof.Machine.execGremove fn g s
  | .tlbinv fn a => Sys2Proof.Machine.execTlbinv fn a s
  | .fanswer fn fid resume => Sys2Proof.Machine.execFanswer fn fid resume s
  | .kill fn run => Sys2Proof.Machine.execKill fn run s
  | .elog fn d base len => Sys2Proof.Machine.execElog fn d base len s
  | .pwr fn dps => Sys2Proof.Machine.execPwr fn dps s
  | .cgate fn mask => Sys2Proof.Machine.execCgate fn mask s
  | .attest fn nonce => Sys2Proof.Machine.execAttest fn nonce s
  | .winset fn pt w e => Sys2Proof.Machine.execWinset fn pt w e s
  | .expset fn k e => Sys2Proof.Machine.execExpset fn k e s
  | .fabricStopEnd => Sys2Proof.Machine.execFabricStopEnd s
  | .csramcfgWrite fn u v => Sys2Proof.Machine.execCsramcfgWrite fn u v s
  | .obsRingConfig fn ring len v => Sys2Proof.Machine.execObsRingConfig fn ring len v s
  | .dropsWrite fn ring v => Sys2Proof.Machine.execDropsWrite fn ring v s
  | .smpcfgWrite fn v => Sys2Proof.Machine.execSmpcfgWrite fn v s
  | .selectorWrite fn die k v => Sys2Proof.Machine.execSelectorWrite fn die k v s
  | .registerWrite fn a v => Sys2Proof.Machine.execRegisterWrite fn a v s
  | .sampleTick fn u => Sys2Proof.Machine.execSampleTick fn u s
  | .recordPerformed k => Sys2Proof.Machine.execRecordPerformed k s
  | .eventCollect m => Sys2Proof.Machine.execEventCollect m s
  | .thermalClamp d t => Sys2Proof.Machine.execThermalClamp d t s
  | .linkRetrainFail l => Sys2Proof.Machine.execLinkRetrainFail l s
  | .flitRetry m late => Sys2Proof.Machine.execFlitRetry m late s
  | .boot => Sys2Proof.Machine.execBoot s
  | .trainingEnd => Sys2Proof.Machine.execTrainingEnd s
  | .fullService => Sys2Proof.Machine.execFullService s
  | .handleCopyUpdate m => Sys2Proof.Machine.execHandleCopyUpdate m s
  | .systemRegisterRequest m => Sys2Proof.Machine.execSystemRegisterRequest m s
  | .framePurge m => Sys2Proof.Machine.execFramePurge m s

end Sys2Proof.Machine
end

