-- ==== Sys2Proof/Machine/Fetch.lean ====
section
/-! DEFINITION. Where an element's next instruction comes from (spec/02 R36, R55, spec/04 R97): the words at the entry of the
firing in the active slot, and how a state is made to fire a given instruction. -/

namespace Sys2Proof.Machine

open Sys2Proof

/-- The words of a firing: those at its entry and at the next in the table its element fires from (R36, R97). -/
def fetchWords (s : State) (f : Firing) : Word32 × Word32 :=
  let t := tablesAt s f.pos
  (t.word f.entry, t.word (f.entry + 1))

/-- The instruction of a firing, when its words are one. -/
def fetched (s : State) (f : Firing) : Option Instr :=
  let w := fetchWords s f
  (decodeWords w.1 w.2).toOption

/-- An element of a class that may hold an opcode (R49): of S, V, M, Q and A the first that does. -/
def elementFor (op : Nat) : Pos :=
  let cs := classesOf op
  if cs.contains .s then ⟨0, 0, 0, 0⟩
  else if cs.contains .v then ⟨0, 0, 0, 16⟩
  else if cs.contains .m then ⟨0, 0, 0, 17⟩
  else if cs.contains .q then ⟨0, 0, 0, 18⟩
  else ⟨0, 0, 32, 0⟩

/-- The unit of an element with words at entry 0 of its table in slot 0. -/
def unitWith (e : Nat) (w x : Word32) : UnitState :=
  { slots := [{ st := .pinned, key := none,
                tables := [{ ElemTables.reset e with words := [w, x] }], written := false, used := 0 }],
    active := 0, region := none, powered := [e] }

/-- A firing at entry 0 of an element, with tag 0 and payloads 0. -/
def firstFiring (p : Pos) : Firing := ⟨0, p, 0, 0, 0, 0, 0, 0, 0⟩

/-- A state that has taken up a firing of the words given (assumption 3). -/
def fireWords (s : State) (w x : Word32) : State :=
  let p := elementFor (w.extractLsb' 24 8).toNat
  { s with
    chip := { s.chip with units := (unitOf p, unitWith p.elem w x) :: s.chip.units.filter fun y => y.1 ≠ unitOf p },
    cur := some (firstFiring p) }

end Sys2Proof.Machine
end

