-- ==== Sys2Proof/Machine/Moves.lean ====
section
/-! DEFINITION. What the machine may do next (spec/95, spec/00 R8, R10, assumptions 2, 3, 5): the steps of the part that may be
made, the firings that may begin, the inputs that are due, and the passing of a fabric cycle. A step that may be made is
never put off by the passing of time; among several the next is a free choice. -/

namespace Sys2Proof.Machine

open Sys2Proof

/-! ## Steps of the part -/

/-- What can come of a message on its way, or at the element that it changes. -/
def messageMoves (m : Msg) : List Instr :=
  .flitHop m.id :: (match m.body with
    | .token => [.cellarLookup m.dst m.id]
    | .request _ => [.tokenInject m.src m.id]
    | .done _ => [.internalCompletion m.id]
    | .park _ _ => [.parkChange m.id]
    | .fpctl _ _ => [.fpctlApply m.id]
    | .wake _ _ _ _ => [.barrierWake m.id]
    | .purge _ => [.framePurge m.id]
    | .handle _ _ _ => [.handleCopyUpdate m.id]
    | _ => [])

/-- What can come of a message at a unit that takes the operations of one fc in an order of its own. -/
def unitMoves (m : Msg) : List Instr :=
  match m.body with
  | .request q => [.transactionAcquire q]
  | .frame _ => [.frameOperation m.id]
  | .switch _ _ _ _ _ _ _ => [.switchDecision m.id]
  | .sysreg _ _ _ _ _ => [.systemRegisterRequest m.id]
  | .barrier _ _ _ _ _ _ => [.barrierOperation m.id]
  | .mill q => [.millRequest (cluOf m.dst) q.ctx]
  | .purgeAck _ _ => [.purgeAcknowledged m.id]
  | .error _ _ => [.regionError m.id]
  | .abort _ _ => [.abortCompletion m.id]
  | .decrement _ _ => [.counterDecrement m.id]
  | .shareEnd _ _ _ _ => [.shareReport m.id]
  | .event _ => [.eventCollect m.id]
  | _ => []

/-- What can come of an element's pipeline, buffers and stores. -/
def elementMoves (p : Pos) (e : Elem) : List Instr :=
  e.pipe.flatMap (fun x => [.pipelineCompletion p x.id, .nextSend p x.id]) ++
    e.out.map (fun m => .tokenInject p m.id) ++ e.entries.flatMap (fun x => [.spill p x.id, .cellarLookup p x.id]) ++
    e.looks.map (fun x => .cellarLookup p x.id) ++
    e.loops.map fun x => .loopnEmission p x.id

/-- What can come of a memory request and its parts. -/
def requestMoves (q : MemReq) : List Instr :=
  (if awaitsSlots q then [.transactionAcquire q.id] else []) ++ (List.range q.parts.length).flatMap fun j =>
    [.memoryRequest q.id j, .hbmServe q.id j, .pendingMiss q.id j, .faultRetry q.id j, .transactionTimeout q.id j]

/-- What can come of a Q element's engines. -/
def engineMoves (p : Pos) (q : QState) : List Instr :=
  .mergeRecord p :: q.engs.flatMap fun e => [.copyUnit p e.id, .strmiBlock p e.id, .engineCompletion p e.id]

/-- What can come of a matrix element. -/
def matrixMoves (p : Pos) : List Instr :=
  [.sequencerBegin p, .chunkLoad p, .matrixRow p, .adapterPass p, .commit p, .abandon p]

/-- What can come of a region. -/
def regionMoves (r : Region) : List Instr :=
  [.slotChange r.id, .wakeComplete r.id, .installComplete r.id, .installPreempt r.id, .instanceComplete r.id, .deadlineExpiry r.id,
   .cooperativeSave r.id, .captureBegin r.id, .saveComplete r.id, .yrWithdraw r.id, .watchdog r.id] ++
    (match r.switch with
      | some w => w.left.map fun u => .unitEmptyReport r.id u
      | none => []) ++
    r.mills.flatMap fun m => [.millCoordinate (cluOf m.1) m.2, .millSlot (cluOf m.1) m.2]

/-- What can come of a run. -/
def runMoves (r : Run) : List Instr :=
  .runEnd r.run :: r.nodes.flatMap fun n => [.nodeFail r.run n.n, .conditionNode r.run n.n, .whileNode r.run n.n]

/-- What can come of a die's graph engine. -/
def dieMoves (s : State) (d : Nat) : List Instr :=
  [.launchQueueTake d, .reservation d] ++ (List.range (pool s d).length).map fun k => .dispatch d k

/-- Samples due in the clusters of the functions that sample. -/
def sampleMoves (s : State) : List Instr :=
  (s.chip.fns.filter fun f => f.smpcfg.getLsbD 63).flatMap fun f =>
    ((partAt s (partOfFn f.id)).map fun p => p.setup.groups.flatMap groupClusters).getD [] |>.map fun u => .sampleTick f.id u

/-- Steps that go on while the fabric stands still: refresh and the timers that count ns (R8, R393). -/
def timerMoves (s : State) : List Instr :=
  (if hbmActive s then (List.range 1024).flatMap fun c =>
      (if (ctrlAt s c).catchDue then [.catchUp c, .catchUpEnd c] else []) ++
      (List.range 16).flatMap fun b =>
        (if refreshDueEnabled s c b then [.refreshDue c b] else []) ++
        (if (bankAt s c b).owed ≠ 0 then [.refreshIssue c b] else []) ++
        (if (bankAt s c b).refEnd.isSome then [.refreshEnd c b] else [])
    else []) ++
  [.fabricStopEnd, .bucketRotate, .agingPeriod]

/-- Steps that the running fabric makes. -/
def fabricMoves (s : State) : List Instr :=
  s.chip.net.flatMap messageMoves ++ s.chip.elems.flatMap (fun x => elementMoves x.1 x.2) ++
  s.chip.reqs.flatMap requestMoves ++
  s.chip.lostSlots.map (fun x => .lateReply x.2.2.1 x.2.2.2) ++ s.chip.misses.map (fun m => .walkComplete m.id) ++
  s.chip.pushes.map (fun x => .ringPush x.id) ++ s.chip.qs.flatMap (fun x => engineMoves x.1 x.2) ++
  s.chip.mats.flatMap (fun x => matrixMoves x.1) ++ s.chip.fills.map (fun f => .adjunctFill f.id) ++
  s.chip.regions.flatMap regionMoves ++ s.chip.saved.map (fun v => .resume v.region.id) ++ s.chip.runs.flatMap runMoves ++
  (List.range 4).flatMap (dieMoves s) ++ s.chip.obs.map (fun x => .recordPerformed x.id) ++
  [.kilnSubmit, .kilnScanEnd, .kilnAbort, .fullService]

/-- Tokens that elements take (R76). -/
def arrivalMoves (s : State) : List Instr := s.chip.net.flatMap fun m => if m.body = .token then [.tokenArrival m.id] else []

/-- What units do that take the operations of one fc in an order of their own: frame tables (R71), barrier units (R336), cluster ports
(R307), mills, control points, graph engines. -/
def unitSteps (s : State) : List Instr :=
  s.chip.net.flatMap unitMoves ++ s.chip.fwaits.flatMap (fun w => [.frameGrant w.id, .frameRelease w.id])

/-- The fabric runs: the module is up, in DPS0 to DPS2 or reduced service, and not stopped for a change (R392, R393, R397). -/
def fabricRuns (s : State) : Bool :=
  hostServed s && (s.chip.power.dps ≤ 2 || s.chip.power.dps == 5) && s.chip.power.stopEnds.isNone

/-- The outcome is a next state. -/
def answers (o : Host.Outcome State Fault Refusal) : Bool :=
  match o with
  | .next _ => true
  | _ => false

/-! ## Firings (R30, R143, R144) -/

/-- The state with a ready firing taken up. -/
def takeUp (f : Firing) (s : State) : State :=
  applyAll (andThen (updElem f.pos fun e => { e with ready := e.ready.filter fun g => g.id ≠ f.id }) (eff (.cur (some f))) s) s

/-- What a firing does when its element takes it up. -/
def fireNow (f : Firing) (s : State) : Host.Outcome State Fault Refusal :=
  match fetched s f with
  | some i => exec i (takeUp f s)
  | none => .fault .undecodable

/-- The firing takes place: it is not held back, or it begins a transfer of its store (R31, R77). -/
def takesPlace (f : Firing) (s : State) : Bool :=
  match fireNow f s with
  | .next t => !((elemAt t f.pos).ready.any fun g => g.id == f.id) || (elemAt t f.pos).entries != (elemAt s f.pos).entries ||
      (elemAt t f.pos).looks != (elemAt s f.pos).looks
  | _ => true

/-- An element may begin a firing in this fc: its region runs, it has begun none, and nothing holds its pipeline (R143, R144). -/
def mayFire (s : State) (p : Pos) : Bool :=
  !halted s p && (elemAt s p).lastFire != some s.fc && !outBlocked s p && !walkBlocked s p

/-- The firing an element begins: the oldest of those that are not parked and take place (R30, R73). -/
def nextFiring (s : State) (p : Pos) : Option Firing :=
  if mayFire s p then
    (sortBy (fun f => f.since * 2 ^ 64 + f.id) (elemAt s p).ready).find? fun f => !parkedAt (elemAt s p) (frameOf f.tag) && takesPlace f s
  else none

/-- The firings that may begin. -/
def firings (s : State) : List Firing :=
  if fabricRuns s then s.chip.elems.filterMap fun x => if x.2.ready.isEmpty then none else nextFiring s x.1 else []

/-! ## The steps of the part -/

/-- The steps that may be made, of those given. -/
def makeable (s : State) (l : List Instr) : List Instr := l.filter fun i => answers (exec i s)

/-- The first of several lists that has a member; a later one is looked at only when those before it have none. -/
def firstOf : List (Unit → List Instr) → List Instr
  | [] => []
  | l :: rest => match l () with
    | [] => firstOf rest
    | x => x

/-- The steps of the part that may be made. What happens in one fc has this order (assumption 5): what pipelines, buffers, links, memory
and engines do; then elements take tokens; then firings begin; then the units that order the operations of an fc take the next one
(R71, R307, R336); and samples show what the element did in the whole fc (R404). -/
def partMoves (s : State) : List Instr :=
  firstOf [
    fun _ => makeable s (.boot :: timerMoves s ++ if fabricRuns s then fabricMoves s else []),
    fun _ => if fabricRuns s then makeable s (arrivalMoves s) else [],
    fun _ => if fabricRuns s && (firings s).isEmpty then firstOf [fun _ => makeable s (unitSteps s), fun _ => makeable s (sampleMoves s)] else []]

/-! ## The passing of a fabric cycle (R8) -/

/-- Counters of what elements do in an fc: firings, and stall reasons when one is selected (R404, R406). -/
def countElems : Prog := fun s =>
  let wanted := s.chip.fns.any fun f => f.csel.any fun x => decide (0x40 ≤ x.2.toNat)
  andThen
    (forEach (s.chip.elems.filter fun x => x.2.lastFire == some s.fc) fun x => forSome (regionOf s x.1) fun r => countFor r x.1 false 0x01)
    (onlyIf wanted (forEach s.chip.regions fun r => forEach (unitElems r) fun p =>
      countFor r p false (0x40 + (stallOf s p).reason))) s

/-- Reads that wait behind a refresh or a catch-up (R285). -/
def countRefWait : Prog := fun s =>
  forEach ((allParts s).filter fun x => x.2.2.st == .queued && readsBlock x.1 x.2.2 && x.2.2.due ≤ s.fc &&
      (match x.2.2.pa with | some a => bankHeld s (ctrlOf a) (bankNo a) | none => false)) (fun x =>
    forSome x.2.2.pa fun a => countEvent x.1.part (dieUnit (ctrlDie (ctrlOf a))) true 0x10 1) s

/-- A frame of the region waits at a package barrier (R336, R363). -/
def packageWait (s : State) (k : Nat) : Bool :=
  s.chip.barriers.any fun b => b.lvl == .package && (b.waiters.any (fun w => w.r == k) ||
    b.closing.any fun c => c.waiters.any fun w => w.r == k)

/-- All that a request still sends waits at its element, in the input buffer or taken in by its engine: a transaction is over when its
reply is there (R31, R272, R363). -/
def repliesThere (s : State) (q : MemReq) : Bool :=
  let l := s.chip.net.filter fun m => m.net == .reply && m.chan.any fun c => c.1 == q.id
  q.parts.all partPerformed && (q.doneAt.isSome || (!l.isEmpty && l.all (arrived s)))

/-- A request of a region is a transaction that is outstanding (R363). -/
def transacts (s : State) (k : Nat) : Bool :=
  s.chip.reqs.any fun q => q.r == k && (outstanding q || !q.parts.all pastHub) && !repliesThere s q

/-- Something of a region moves in this fc (R363): a firing, a token on its way, a transfer of a store, an outstanding transaction,
a wait at a package barrier. -/
def stirs (s : State) (r : Region) : Bool :=
  r.active || transacts s r.id || packageWait s r.id ||
    (s.chip.net.any fun m => (r.holds m.dst || r.holds m.src) && ((m.col, m.row) != switchOf m.dst || decide (s.fc < m.due) ||
      (match m.look with | .looking _ => true | _ => false))) ||
    (regionElems s r).any fun p =>
      let e := elemAt s p
      e.lastFire == some s.fc || e.entries.any fun x => match x.st with | .spilling _ _ => true | .filling _ => true | _ => false

/-- The registers of a region that count fc (R343, R348, R363), the flags of an fc (R131, R347), and the reports of a SWITCH (R118). -/
def regionCycle (r : Region) : Prog := fun s =>
  updRegion r.id (fun x => { x with
    rcyc := x.rcyc + 1,
    rem := if x.yr then x.rem - 1 else 0,
    wdog := if x.yr then x.wdog else if x.phase = .running ∧ !stirs s r then x.wdog + 1 else 0,
    active := false, fpNew := 0, rfNew := 0, fpOld := [], switch := recallReports s r }) s

/-- The end of an fc and the beginning of the next: set-tokens take effect (R103), engines ask for their next units, counters and
registers go on, commands that wait are done (R292). -/
def nextCycle : Prog := fun s =>
  seqAll [
    forEach (s.chip.elems.filter fun x => !x.2.pendSet.isEmpty) (fun x => applySets x.1),
    countElems,
    countRefWait,
    forEach s.chip.regions regionCycle,
    forEach (s.chip.qs.filter fun x => !halted s x.1) (fun x => engineCycle x.1),
    forEach (List.range 9) endCommand,
    eff (.cycle (fcLen s.chip.power))] s

/-- Time passes: an fc of the running fabric, or a ns while it stands still, in which commands go on. -/
def passTime (s : State) : State :=
  applyAll (if fabricRuns s then nextCycle s else andThen (forEach (List.range 9) endCommand) (eff (.elapse 18)) s) s

/-! ## The next step -/

/-- The function whose command an input is. -/
def commandFunction (i : Instr) : Option Nat :=
  match i with
  | .psetup fn _ => some fn
  | .ginstall fn _ _ _ => some fn
  | .gremove fn _ => some fn
  | .tlbinv fn _ => some fn
  | .fanswer fn _ _ => some fn
  | .kill fn _ => some fn
  | .elog fn _ _ _ => some fn
  | .pwr fn _ => some fn
  | .cgate fn _ => some fn
  | .attest fn _ => some fn
  | .winset fn _ _ _ => some fn
  | .expset fn _ _ => some fn
  | .registerWrite fn .pcmd _ => some fn
  | _ => none

/-- The function whose request an input is. -/
def functionOf (i : Instr) : Option Nat :=
  match i with
  | .hostBar1Access fn _ => some fn
  | .plaunch fn _ => some fn
  | .registerWrite fn _ _ => some fn
  | .obsRingConfig fn _ _ _ => some fn
  | .dropsWrite fn _ _ => some fn
  | .smpcfgWrite fn _ => some fn
  | .selectorWrite fn _ _ _ => some fn
  | .csramcfgWrite fn _ _ => some fn
  | i => commandFunction i

/-- An earlier access of the input's function through BAR1 has not been performed at its home controllers: the requests of one function
are performed in the order in which they arrive (R383); in DPS3 and DPS4 none goes on, and none is waited for. -/
def awaitsHost (s : State) (i : Instr) : Bool :=
  (s.chip.power.dps ≤ 2 || s.chip.power.dps == 5) && s.chip.reqs.any fun q => match q.client with
    | .host fn _ => functionOf i == some fn
    | _ => false

/-- The input is a command of a function whose earlier command is not done: they are performed one at a time, in order (R385). -/
def awaitsCommand (s : State) (i : Instr) : Bool := (commandFunction i).any fun fn => (fnAt s fn).pcwork.isSome

/-- The first input whose time has come, and the inputs without it (assumption 2). -/
def dueInput (s : State) : List (Nat × Instr) → Option (Instr × List (Nat × Instr))
  | [] => none
  | x :: rest =>
    if x.1 ≤ s.t18 ∧ !awaitsHost s x.2 ∧ !awaitsCommand s x.2 then some (x.2, rest)
    else (dueInput s rest).map fun y => (y.1, x :: y.2)

/-- An input acts, or is without effect where the spec does not let it happen. -/
def takeInput (i : Instr) (rest : List (Nat × Instr)) (s : State) : State :=
  let t := (Eff.inputs rest).apply s
  match exec i t with
  | .next u => u
  | _ => t

/-- One of several, by a free choice, with the state that has drawn it (assumption 5). -/
def choose {α : Type} (l : List α) (s : State) : Option (α × State) :=
  match l with
  | [] => none
  | [x] => some (x, s)
  | l => l[Config.pick s.free % l.length]?.map fun x => (x, Eff.free.apply s)

/-- One step of the machine: one of the steps of the part, or else one of the firings, or else time passes. -/
def chooseMove (s : State) : Host.Outcome State Fault Refusal :=
  match choose (partMoves s) s with
  | some (i, t) => exec i t
  | none => match choose (firings s) s with
    | some (f, t) => fireNow f t
    | none => .next (passTime s)

/-- The step of a state that has taken up no firing. -/
def idleStep (s : State) : Host.Outcome State Fault Refusal :=
  match dueInput s s.inputs with
  | some (i, rest) => .next (takeInput i rest s)
  | none => chooseMove s

/-- The step of a state that has taken up a firing. -/
def firingStep (f : Firing) (s : State) : Host.Outcome State Fault Refusal :=
  match fetched s f with
  | some i => exec i s
  | none => .fault .undecodable

end Sys2Proof.Machine
end

