-- ==== Sys2Proof/Machine/Step.lean ====
section
/-! DEFINITION. One step of the machine, and how a state is made to fire an instruction. -/

namespace Sys2Proof.Machine

open Sys2Proof

/-- One step: the firing that has been taken up, or an input that is due, or one of the steps that may be made, or, when there
is none, the passing of a fabric cycle. -/
def step (s : State) : Host.Outcome State Fault Refusal :=
  match s.cur with
  | some f => firingStep f s
  | none => idleStep s

/-- The state with an instruction of the opcode table taken up: its words at entry 0 of an element of its class, in the active
slot of a unit that no region holds, and a firing of it with tag 0 and payloads 0 (assumption 3). -/
def State.withFetchWord (s : State) (nbits w : Nat) : State :=
  fireWords s (BitVec.ofNat 32 (if nbits < 32 then w % 2 ^ nbits else w)) (BitVec.ofNat 32 (w % 2 ^ nbits / 2 ^ 32))

end Sys2Proof.Machine
end

