-- ==== Sys2Proof/Safety.lean ====
section
/-! DEFINITION. The terms claims are stated in: the state a body leaves, what an instruction leaves unchanged, what a firing
leaves in its element, and the invariant of every step. -/

namespace Sys2Proof.Machine

open Sys2Proof

/-- The state after a body. -/
def after (p : Prog) (s : State) : State := applyAll (p s) s

/-- An instruction completes, and what holds of the state it leaves. -/
def Completes (i : Instr) (s : State) (p : State → Prop) : Prop := ∃ t, exec i s = .next t ∧ p t

/-! ## What is left unchanged -/

/-- Every byte of the HBM, of the scratchpads and of the cluster SRAM reads as before. -/
def SameMemory (s t : State) : Prop :=
  (∀ a, t.hbm.read a = s.hbm.read a) ∧ (∀ a, t.spad.read a = s.spad.read a) ∧ ∀ a, t.sram.read a = s.sram.read a

/-- Frame records, saved frame records, the tile map, the measurement registers, time and what the outside will do are as
before. -/
def SameRest (s t : State) : Prop :=
  t.frames = s.frames ∧ t.savedFrames = s.savedFrames ∧ t.gone = s.gone ∧ t.measure = s.measure ∧ t.fc = s.fc ∧
    t.t18 = s.t18 ∧ t.inputs = s.inputs

/-! ## What a firing leaves -/

/-- What a firing asks of the frame table for its outgoing tag (R70). -/
def tagAsk (f : Firing) (ta : TagAction) (k : Nat) : List Body :=
  match ta with
  | .next => [.frame (.next (frameOf f.tag) (iterOf f.tag) f.pos k)]
  | .exit => [.frame (.parent (frameOf f.tag) f.pos k)]
  | _ => []

/-- The operation a firing leaves in its pipeline (R143): with a latency of the spec, or after at least one fc where it
states none. -/
def OpOf (s : State) (f : Firing) (x : Issue) (y : PipeOp) : Prop :=
  y.op = x.op ∧ y.entry = f.entry ∧ y.tag = f.tag ∧ y.out = outTag x.ta x.b f.tag ∧ y.outs = x.outs ∧ y.flags = x.flags ∧
    y.rel = (x.ta == .free) ∧ y.wait = x.wait ∧ y.defer = (if x.defer then some f else none) ∧ y.since = s.fc ∧
    match x.lat with
    | some n => y.due = some (s.fc + n)
    | none => ∃ n, 0 < n ∧ y.due = some (s.fc + n)

/-- A firing leaves one operation in its element's pipeline and messages with the bodies given, and nothing else: of the
state only that element's pipeline and last firing, those messages, and the model's counters of names and of free values
change; the firing is over. -/
def Leaves (s : State) (f : Firing) (x : Issue) (bodies : Nat → List Body) (t : State) : Prop :=
  ∃ (y : PipeOp) (l : List Msg),
    OpOf s f x y ∧
    elemAt t f.pos = { elemAt s f.pos with pipe := (elemAt s f.pos).pipe ++ [y], lastFire := some s.fc } ∧
    (∀ p, p ≠ f.pos → elemAt t p = elemAt s p) ∧
    t.chip.net = s.chip.net ++ l ∧ l.map (·.body) = tagAsk f x.ta y.id ++ bodies y.id ∧
    { t.chip with elems := s.chip.elems, net := s.chip.net } = s.chip ∧
    SameMemory s t ∧ SameRest s t ∧ t.cur = none

/-- A firing computes: it completes, and leaves the values `outs` to be sent after a latency, its flags and its outgoing
tag, and nothing else (R142, R143, R70). -/
def Computes (i : Instr) (s : State) (f : Firing) (op : Nat) (ta : TagAction) (b : Wide) (lat : Option Nat) (outs : List Out)
    (flags : BitVec 5) : Prop :=
  Completes i s (Leaves s f ⟨op, ta, b, lat, outs, flags, .none, false⟩ fun _ => [])

/-! ## The invariant of every step -/

/-- The three memories have their canonical form. -/
def MemoryOk (s : State) : Prop := s.hbm.wf = true ∧ s.spad.wf = true ∧ s.sram.wf = true

/-- LIVE counts the iteration tags that are not free (R65, R69). -/
def FrameRec.LiveOk (r : FrameRec) : Prop := r.live = (List.range 64).countP fun i => !r.freem.getLsbD i

/-- Every frame record, in its table or in a context image, counts its tags. -/
def FramesOk (s : State) : Prop := (∀ x ∈ s.frames, x.2.LiveOk) ∧ ∀ x ∈ s.savedFrames, x.2.2.LiveOk

/-- What every step keeps: canonical memories, frame records that count their tags, and 8 measurement registers (R399). -/
def Inv (s : State) : Prop := MemoryOk s ∧ FramesOk s ∧ s.measure.length = 8

end Sys2Proof.Machine
end

