-- ==== Sys2Proof/Certificates/Slice0/Obligations.lean ====
section
/-! DEFINITION. The statements for the provers, and under Claims the shapes they share. -/

namespace Sys2Proof.Claims

open Sys2Proof Sys2Proof.Machine

/-- Sides A and B of a firing as 64-bit values (R37). -/
def wordA (s : State) (f : Firing) (o : Ops2) : Word := lowWord (sideA s f o.sa)
def wordB (s : State) (f : Firing) (o : Ops2) : Word := lowWord (sideB s f o.sb)

/-- A 64-bit result goes to D0 and D1 after a latency, with no flag (R142, R143). -/
def Sends (i : Instr) (s : State) (f : Firing) (op : Nat) (o : Ops2) (lat : Nat) (v : Word) : Prop :=
  Computes i s f op o.ta (sideB s f o.sb) (some lat) (bothOuts o.d0 o.d1 (ofWord v) false) 0

/-- A 64-bit result given bit by bit goes to D0 and D1 after 1 fc. -/
def SendsBits (i : Instr) (s : State) (f : Firing) (op : Nat) (o : Ops2) (bit : Nat → Bool) : Prop :=
  ∃ v : Word, (∀ j, j < 64 → v.getLsbD j = bit j) ∧ Sends i s f op o 1 v

/-- A division leaves its result as a computing firing does, in a state whose divider is busy for 18 fc (R144). -/
def Divides (i : Instr) (s : State) (f : Firing) (op : Nat) (o : Ops2) (v : Word) : Prop :=
  Completes i s (Leaves (after (updElem f.pos fun e => { e with divBusy := s.fc + 18 }) s) f
    ⟨op, o.ta, sideB s f o.sb, some 18, bothOuts o.d0 o.d1 (ofWord v) false, 0, .none, false⟩ fun _ => [])

/-- The firing goes back to the head of its element's ready firings, and nothing else changes. -/
def HeldBack (s : State) (f : Firing) (t : State) : Prop :=
  elemAt t f.pos = { elemAt s f.pos with ready := f :: (elemAt s f.pos).ready } ∧
    (∀ p, p ≠ f.pos → elemAt t p = elemAt s p) ∧ { t.chip with elems := s.chip.elems } = s.chip ∧
    SameMemory s t ∧ SameRest s t ∧ t.cur = none

/-- The FP32 datum of R155: under DAZ a subnormal is a zero of its sign. -/
def finOf (c : FpCtl) (x : BitVec 32) : BitVec 32 :=
  if c.daz ∧ (x.extractLsb' 23 8).toNat = 0 then x &&& 0x80000000 else x

/-- A word, an FP32 encoding or a truth value goes to D0 and D1 with its flags. -/
def SendsWord (i : Instr) (s : State) (f : Firing) (op : Nat) (o : Ops2) (lat : Nat) (r : Word × BitVec 5) : Prop :=
  Computes i s f op o.ta (sideB s f o.sb) (some lat) (bothOuts o.d0 o.d1 (ofWord r.1) false) r.2
def SendsFloat (i : Instr) (s : State) (f : Firing) (op : Nat) (o : Ops2) (lat : Nat) (r : BitVec 32 × BitVec 5) : Prop :=
  SendsWord i s f op o lat (r.1.zeroExtend 64, r.2)
def SendsTruth (i : Instr) (s : State) (f : Firing) (op : Nat) (o : Ops2) (r : Bool × BitVec 5) : Prop :=
  SendsWord i s f op o 1 (if r.1 then 1 else 0, r.2)
def SendsSeed (i : Instr) (s : State) (f : Firing) (op : Nat) (o : Ops1) (r : BitVec 32 × BitVec 5) : Prop :=
  Computes i s f op o.ta 0 (some 6) (bothOuts o.d0 o.d1 (ofWord (r.1.zeroExtend 64)) false) r.2

/-- A wide result goes to D0 and D1 with its flags (R169). -/
def SendsWide (i : Instr) (s : State) (f : Firing) (op : Nat) (o : Ops2) (lat : Nat) (r : Wide) (fl : BitVec 5) : Prop :=
  Computes i s f op o.ta (sideB s f o.sb) (some lat) (bothOuts o.d0 o.d1 r true) fl

/-- A wide result given lane by lane, with no flag. -/
def SendsLanes (i : Instr) (s : State) (f : Firing) (op : Nat) (o : Ops2) (lat : Nat)
    (g : BitVec 32 → BitVec 32 → BitVec 32) : Prop :=
  ∃ r : Wide, (∀ j, j < 16 → lane r j = g (lane (sideA s f o.sa) j) (lane (sideB s f o.sb) j)) ∧ SendsWide i s f op o lat r 0

/-- Lanes moved: a wide result after 2 fc, with no flag. -/
def SendsMoved (i : Instr) (s : State) (f : Firing) (op : Nat) (o : Ops2) (g : Nat → BitVec 32) : Prop :=
  ∃ r : Wide, (∀ j, j < 16 → lane r j = g j) ∧ SendsWide i s f op o 2 r 0

/-- A wide result given lane by lane, with the flags of the lanes ORed (R170). -/
def SendsFlagged (i : Instr) (s : State) (f : Firing) (op : Nat) (o : Ops2) (lat : Nat)
    (g : BitVec 32 → BitVec 32 → BitVec 32 × BitVec 5) : Prop :=
  ∃ r : Wide, (∀ j, j < 16 → lane r j = (g (lane (sideA s f o.sa) j) (lane (sideB s f o.sb) j)).1) ∧
    SendsWide i s f op o lat r
      ((List.range 16).foldl (fun acc j => acc ||| (g (lane (sideA s f o.sa) j) (lane (sideB s f o.sb) j)).2) 0)
def SendsFlagged1 (i : Instr) (s : State) (f : Firing) (op : Nat) (o : Ops1) (lat : Nat)
    (g : BitVec 32 → BitVec 32 × BitVec 5) : Prop :=
  ∃ r : Wide, (∀ j, j < 16 → lane r j = (g (lane (sideA s f o.sa) j)).1) ∧
    Computes i s f op o.ta 0 (some lat) (bothOuts o.d0 o.d1 r true)
      ((List.range 16).foldl (fun acc j => acc ||| (g (lane (sideA s f o.sa) j)).2) 0)

/-- A lane of a scan after its first passes, which add the lane 1, 2, 4 and 8 below it as their first operand (R183). -/
def scanLane (op : BitVec 32 → BitVec 32 → BitVec 32 × BitVec 5) (y : Nat → BitVec 32) : Nat → Nat → BitVec 32
  | 0, i => y i
  | k + 1, i => if i < 2 ^ k then scanLane op y k i else (op (scanLane op y k (i - 2 ^ k)) (scanLane op y k i)).1

/-- The value of a finite FP32 encoding in units of 2^-149 (R119). -/
def unitsOf32 (x : BitVec 32) : Int :=
  let e := (x.extractLsb' 23 8).toNat
  let m := (x.extractLsb' 0 23).toNat
  (if x.getLsbD 31 then -1 else 1) * (if e = 0 then (m : Int) else ((2 ^ 23 + m) * 2 ^ (e - 1) : Nat))
def finite32 (x : BitVec 32) : Prop := (x.extractLsb' 23 8).toNat < 255

/-- A finite result is the exact value `v / 2^k` in units of 2^-149, rounded by the mode of R129: no finite encoding lies between it and
the value on the side the mode rounds to, or nearer for RNE, which takes the even one of two. -/
def Rounded (m : Mode) (v : Int) (k : Nat) (r : BitVec 32) : Prop :=
  let u := fun (x : BitVec 32) => unitsOf32 x * 2 ^ k
  match m with
  | .rne => ∀ z, finite32 z → (u r - v).natAbs ≤ (u z - v).natAbs ∧
      ((u r - v).natAbs = (u z - v).natAbs → u z ≠ u r → r.getLsbD 0 = false)
  | .rtz => (u r).natAbs ≤ v.natAbs ∧ 0 ≤ u r * v ∧ ∀ z, finite32 z → (u z).natAbs ≤ v.natAbs → (u z).natAbs ≤ (u r).natAbs
  | .rup => v ≤ u r ∧ ∀ z, finite32 z → v ≤ u z → u r ≤ u z
  | .rdn => u r ≤ v ∧ ∀ z, finite32 z → u z ≤ v → u z ≤ u r

/-- The words of R342 for a place: position, index, rectangle, and node; each field by what it tells. -/
def CoordWord (r : Region) (p : Pos) (k : Nat) (w : Word) : Prop :=
  (k = 0 → p.die < 4 → p.clu < 20 → p.unit < 64 → p.elem < 32 → r.rects.length ≤ 4 → r.image.stages ≤ 8 →
    (∀ x ∈ r.rects, x.2.x + x.2.w ≤ 32 ∧ x.2.y + x.2.h ≤ 20) → (placeInRegion r p).2.2 < 8 →
    field w 24 23 = p.die ∧ field w 22 18 = p.clu ∧ field w 17 12 = p.unit ∧ field w 11 7 = p.elem ∧ field w 6 0 = 0 ∧
    field w 26 25 = 0 ∧ field w 63 42 = 0 ∧ (32 ≤ p.unit → field w 41 32 = 0x3FF) ∧
    ∀ (j n : Nat) (q : Rect), r.rects[j]? = some (p.die, q) → (∀ i, i < j → ∀ x, r.rects[i]? = some x → x.1 ≠ p.die) →
      field w 31 30 = j ∧
      (n < q.w * q.h → p.unit < 32 → 8 * (p.clu % 4) + p.unit % 8 = q.x + n % q.w → 4 * (p.clu / 4) + p.unit / 8 = q.y + n / q.w →
        field w 41 32 = n)) ∧
  (k = 1 → w = nat64 r.index) ∧
  (k = 2 → ∀ (j : Nat) (q : Rect), r.rects[j]? = some (p.die, q) → (∀ i, i < j → ∀ x, r.rects[i]? = some x → x.1 ≠ p.die) →
    0 < q.w → q.w ≤ 32 → 0 < q.h → q.h ≤ 20 → q.x < 32 → q.y < 20 → 0 < r.image.stages → r.image.stages ≤ 8 →
    field w 4 0 + 1 = q.w ∧ field w 9 5 + 1 = q.h ∧ field w 14 10 = q.x ∧ field w 19 15 = q.y ∧
    field w 21 20 = (if r.rects.length = 1 then 0 else if r.rects.length = 2 then 1 else 2) ∧ field w 24 22 + 1 = r.image.stages ∧
    field w 63 25 = 0) ∧
  (k = 3 → r.graph < 256 → r.node < 2 ^ 16 → r.run < 2 ^ 32 →
    field w 63 56 = r.graph ∧ field w 55 48 = 0 ∧ field w 47 32 = r.node ∧ field w 31 0 = r.run)

/-- One entry of an element's tables has been written, and nothing else of them: by table, an instruction with the extension word of a
long form, a route, a VC entry, a side-table entry, of 512 bits on V (R115). -/
def EntryWritten (v : Bool) (a : Wide) (tbl i : Nat) (x y : ElemTables) : Prop :=
  let w := lowWord a
  (tbl = 0 → y = { x with words := y.words } ∧ y.word i = w.extractLsb' 0 32 ∧ (x.isLong i = true → y.word (i + 1) = w.extractLsb' 32 32) ∧
    ∀ j, j ≠ i → (x.isLong i = true → j ≠ i + 1) → y.word j = x.word j) ∧
  (tbl = 1 → y = { x with routes := y.routes } ∧ y.route i = w ∧ ∀ j, j ≠ i → y.route j = x.route j) ∧
  (tbl = 2 → y = { x with vcs := y.vcs } ∧ y.vc i = w.extractLsb' 0 32 ∧ ∀ j, j ≠ i → y.vc j = x.vc j) ∧
  (tbl = 3 → y = { x with side := y.side } ∧ y.sideEntry i = (if v then a else ofWord w) ∧ ∀ j, j ≠ i → y.sideEntry j = x.sideEntry j)

/-- Lane i of a VFMA: the FFMA of the lane operands. -/
def fmaLane (s : State) (f : Firing) (o : Ops2) (sc : Src) (i : Nat) : BitVec 32 × BitVec 5 :=
  ffma (ctlAt s f) (lane (sideA s f o.sa) i) (lane (sideB s f o.sb) i) (lane (sideC s f sc) i)

/-- A firing asks a table, a unit or a control point for one operation and holds its result until the answer. -/
def Asks (i : Instr) (s : State) (f : Firing) (op : Nat) (ta : TagAction) (b : Wide) (outs : List Out) (q : Nat → Body) : Prop :=
  Completes i s (Leaves s f ⟨op, ta, b, some 0, outs, 0, .reply, false⟩ fun k => [q k])

/-- The firing ends; one message goes to its region's control point with the error, and nothing is sent (R10, R361). -/
def Raises (s : State) (f : Firing) (code : Nat) (value : Word) (t : State) : Prop :=
  elemAt t f.pos = { elemAt s f.pos with lastFire := some s.fc } ∧ (∀ p, p ≠ f.pos → elemAt t p = elemAt s p) ∧
    { t.chip with elems := s.chip.elems, net := s.chip.net } = s.chip ∧ SameMemory s t ∧ SameRest s t ∧ t.cur = none ∧
    match regionOf s f.pos with
    | some r => ∃ m, t.chip.net = s.chip.net ++ [m] ∧ m.dst = controlPoint r.homeClu ∧
        m.body = .error r.id ⟨code, f.pos, f.entry, f.tag, value⟩
    | none => t.chip.net = s.chip.net

/-- What the matching store needs before a firing can hold a result or a record in it (R77, R79). -/
def storeKey (f : Firing) : StoreEntry := keyOf ((classOf f.pos).getD .s) false f.entry 3 f.tag
def storeNeed (s : State) (f : Firing) : Need := resultNeed s f.pos (storeKey f) f.id true

/-- No byte of memory has changed, but that under reduced service an error record stands in the cluster SRAMs (R371, R397). -/
def Logged (s t : State) : Prop :=
  (∀ a, t.hbm.read a = s.hbm.read a) ∧ (∀ a, t.spad.read a = s.spad.read a) ∧ (s.chip.power.full = true → ∀ a, t.sram.read a = s.sram.read a)

/-- What reports a message or result that was discarded: an interrupt for the hardware record, and, where a region is named, one message to
that region's control point (R370). -/
def Reported (s : State) (r : Option Region) (die : Nat) (a : AbortReport) (l : List Msg) (t : State) : Prop :=
  t.chip.irqs = s.chip.irqs ++ [.hardware die] ∧
    l.map (fun y => (y.dst, y.body)) = (match r with
      | some r => [(controlPoint r.homeClu, .abort r.id a)]
      | none => []) ∧ Logged s t

/-- The firing ends; one message with this content goes to a place, and nothing else changes. -/
def Posts (s : State) (f : Firing) (dst : Pos) (body : Body) (t : State) : Prop :=
  (∃ m, t.chip.net = s.chip.net ++ [m] ∧ m.dst = dst ∧ m.body = body) ∧
    elemAt t f.pos = { elemAt s f.pos with lastFire := some s.fc } ∧ (∀ p, p ≠ f.pos → elemAt t p = elemAt s p) ∧
    { t.chip with elems := s.chip.elems, net := s.chip.net } = s.chip ∧ SameMemory s t ∧ SameRest s t ∧ t.cur = none

/-- The memory instructions that make a request, each with what it asks of memory (R296 to R300). -/
def accesses (y : Instr × Access) : Prop :=
  (∃ (o : Ops2) (x : Xm), y ∈ [
    (.ld o x, ⟨0x90, .load false, o.ta, o.sa, o.sb, .n, o.d0, o.d1, x⟩), (.st o x, ⟨0x91, .store, o.ta, o.sa, o.sb, .n, o.d0, o.d1, x⟩),
    (.ldw o x, ⟨0x92, .load true, o.ta, o.sa, o.sb, .n, o.d0, o.d1, x⟩), (.stw o x, ⟨0x93, .store, o.ta, o.sa, o.sb, .n, o.d0, o.d1, x⟩),
    (.ldg o x, ⟨0x94, .gather, o.ta, o.sa, o.sb, .n, o.d0, o.d1, x⟩), (.sts o x, ⟨0x95, .scatter, o.ta, o.sa, o.sb, .n, o.d0, o.d1, x⟩),
    (.aadd o x, ⟨0x96, .atomic .add, o.ta, o.sa, o.sb, .n, o.d0, o.d1, x⟩),
    (.afadd o x, ⟨0x97, .atomic .fadd, o.ta, o.sa, o.sb, .n, o.d0, o.d1, x⟩),
    (.amin o x, ⟨0x98, .atomic .min, o.ta, o.sa, o.sb, .n, o.d0, o.d1, x⟩),
    (.amax o x, ⟨0x99, .atomic .max, o.ta, o.sa, o.sb, .n, o.d0, o.d1, x⟩),
    (.axchg o x, ⟨0x9A, .atomic .xchg, o.ta, o.sa, o.sb, .n, o.d0, o.d1, x⟩),
    (.aand o x, ⟨0x9C, .atomic .and, o.ta, o.sa, o.sb, .n, o.d0, o.d1, x⟩),
    (.aor o x, ⟨0x9D, .atomic .or, o.ta, o.sa, o.sb, .n, o.d0, o.d1, x⟩)]) ∨
  ∃ (o : Ops3) (x : Xm), y = (.acas o x, ⟨0x9B, .atomic .cas, o.ta, o.sa, o.sb, o.sc, o.d0, none, x⟩)

/-- The pool of outstanding accesses has room for one more (R272). -/
def roomy (s : State) (f : Firing) : Prop := poolUse s f.pos < poolLimit f.pos

/-- A lane of an access to a valid hbm handle is out of range or misaligned (R295). -/
def lanesFail (s : State) (f : Firing) (a : Access) : Bool :=
  match ownEntry s f a with
  | some e => e.valid && e.level == 2 && (accessLanes s f a.sa a.x a.gather).any fun l => laneFails e (sizeBytes a.x.sz) l.2
  | none => false

/-- A request without what its completion token changes in it: the mark that it has been sent, the tokens not yet delivered. -/
def unacked (q : MemReq) : MemReq := { q with acked := false, left := 0 }

/-- Every byte of a load of an hbm handle stands in the outgoing buffer of its tile (R305). -/
def inBuffer (s : State) (f : Firing) (a : Access) (out : Tag) (r : Region) : Bool :=
  let x := requestOf s f a out none
  let e := reqEntry s r .instr f.pos x.h x.op.reads
  (if e.valid then e.level else ((declOf r x.h).map fun d => levelNum d.level).getD 0) == 2 && allForwarded x e.va (forwarded s x e.va)

/-- The firing of a memory instruction is over: no byte of memory, no frame but its own, no other element and of the regions only a
mark for the replay point changes (R372). -/
def MemoryFired (s : State) (f : Firing) (t : State) : Prop :=
  (∀ g, g ≠ frameOf f.tag → frameAt t g = frameAt s g) ∧
    elemAt t f.pos = { elemAt s f.pos with lastFire := some s.fc } ∧ (∀ p, p ≠ f.pos → elemAt t p = elemAt s p) ∧
    (∀ k x, regionAt t k = some x → ∃ y, regionAt s k = some y ∧ { x with nr := y.nr } = y) ∧
    SameMemory s t ∧ t.fc = s.fc ∧ t.cur = none

/-- The firing holds its status 0 until every copy of the region's table has the changed entry; the home has it at once, and a
copy reads as before (R185, R205). -/
def ChangesEntry (s : State) (f : Firing) (op : Nat) (o : Ops2) (r : Region) (h : Nat) (e : HandleEntry) (cost : Nat)
    (t : State) : Prop :=
  ∃ (y : PipeOp) (l : List Msg) (r' : Region),
    OpOf s f ⟨op, o.ta, sideB s f o.sb, some cost, bothOuts o.d0 o.d1 (ofWord (nat64 (256 * h))) false, 0, .reply, false⟩ y ∧
    elemAt t f.pos = { elemAt s f.pos with pipe := (elemAt s f.pos).pipe ++ [y], lastFire := some s.fc } ∧
    (∀ p, p ≠ f.pos → elemAt t p = elemAt s p) ∧
    t.chip.net = s.chip.net ++ l ∧
    l.map (·.body) = tagAsk f o.ta y.id ++ (copyPlaces r).map (fun _ => Body.handle r.id h e) ∧
    regionAt t r.id = some r' ∧ { r' with handles := r.handles, stale := r.stale, hwait := r.hwait } = r ∧
    (∀ g, handleHome r' g = if g = h then e else handleHome r g) ∧
    (∀ q ∈ copyPlaces r, unitOf q = q → ∀ g, handleAt r' q g = handleAt r q g) ∧
    r'.hwait = r.hwait ++ [(h, copyPlaces r, f.pos, y.id)] ∧ t.cur = none

/-- A firing begins one engine operation, at the end of its element's list; no memory, no frame and no other element changes
(R201). -/
def Begins (s : State) (f : Firing) (t : State) (c : EngOp → Prop) : Prop :=
  (qAt t f.pos).engs.length = (qAt s f.pos).engs.length + 1 ∧
    (∃ e ∈ (qAt t f.pos).engs, c e ∧ e.entry = f.entry ∧ e.tag = f.tag) ∧
    (∀ p, p ≠ f.pos → qAt t p = qAt s p ∧ elemAt t p = elemAt s p) ∧
    elemAt t f.pos = { elemAt s f.pos with lastFire := some s.fc } ∧
    t.frames = s.frames ∧ t.gone = s.gone ∧ t.fc = s.fc ∧ SameMemory s t ∧ t.cur = none

/-- A stream has no replay window, or a valid ring of 64-byte slots of its tile is its window (R214). -/
def Windowed (s : State) (p : Pos) (h : Nat) : Prop :=
  h = 0 ∨ ∃ g ∈ s.chip.rings, g.tile = unitOf p ∧ g.handle = h ∧ g.size = 64 ∧ (ringEntry s g).isSome = true

/-- An operation without the mark that its tag is released when it leaves. -/
def unreleased (y : PipeOp) : PipeOp := { y with rel := false }

/-- A firing begins one walk, with one read of a handle's lanes, and waits for its end; no memory, no frame and no other element
changes (R244, R246). -/
def WalksFrom (s : State) (f : Firing) (t : State) (op : Nat) (o : Ops2) (x : Xs) (h : Nat) (lanes : List (Nat × Nat))
    (c : Walk → Prop) : Prop :=
  ∃ (y : PipeOp) (w : Walk) (q : MemReq),
    OpOf s f ⟨op, o.ta, sideB s f o.sb, some 0, [], 0, .reply, false⟩ y ∧
    elemAt t f.pos = { elemAt s f.pos with pipe := (elemAt s f.pos).pipe ++ [y], lastFire := some s.fc } ∧
    t.chip.walks = s.chip.walks ++ [w] ∧ c w ∧ w.p = f.pos ∧ w.op = y.id ∧ w.code = op ∧ w.h = x.h.toNat ∧ w.tag = f.tag ∧
    w.d0 = dstNat o.d0 ∧ w.d1 = dstNat o.d1 ∧
    t.chip.reqs = s.chip.reqs ++ [q] ∧ q.client = .walk f.pos y.id ∧ q.h = h ∧ q.op.writes = false ∧
    (∀ l, l ∈ q.parts.flatMap (·.lanes) ↔ l ∈ lanes) ∧ (∃ m ∈ t.chip.net, m.body = .request q.id ∧ m.dst = q.home) ∧
    (∀ p, p ≠ f.pos → elemAt t p = elemAt s p) ∧ t.frames = s.frames ∧ SameMemory s t ∧ t.cur = none

end Sys2Proof.Claims

open Sys2Proof Sys2Proof.Machine

/-! ## Operands, integers (spec/02, spec/06) -/

/-- R37, R168: a source select gives the matched payload, 0, the tag, or a side-table entry as it stands at the moment of firing;
on V the tag fills every lane and an entry is 512 bits wide. -/
def Obligations.SourceSelects : Prop :=
  ∀ (s : State) (f : Firing) (tok : Wide),
    sourceValue s f .t tok = tok ∧ sourceValue s f .n tok = 0 ∧
    (classOf f.pos ≠ some .v →
      sourceValue s f .g tok = ofWord (f.tag.zeroExtend 64) ∧
      ∀ k, sourceValue s f (.c k) tok = ofWord (lowWord ((tablesAt s f.pos).sideEntry k.val))) ∧
    (classOf f.pos = some .v →
      (∀ i, i < 16 → lane (sourceValue s f .g tok) i = f.tag.zeroExtend 32) ∧
      ∀ k, sourceValue s f (.c k) tok = (tablesAt s f.pos).sideEntry k.val)

/-- R147: the wrapping products and sums of two's complement values, sent after 1 or 3 fc (R143) and nothing else. -/
def Obligations.WrappingArithmetic : Prop :=
  ∀ (o : Ops2) (s : State) (f : Firing), s.cur = some f →
    let x := Claims.wordA s f o
    let y := Claims.wordB s f o
    Claims.Sends (.add o) s f 0x20 o 1 (BitVec.ofInt 64 (x.toInt + y.toInt)) ∧
    Claims.Sends (.sub o) s f 0x21 o 1 (BitVec.ofInt 64 (x.toInt - y.toInt)) ∧
    Claims.Sends (.mul o) s f 0x22 o 3 (BitVec.ofInt 64 (x.toInt * y.toInt)) ∧
    Claims.Sends (.mulhs o) s f 0x23 o 3 ((BitVec.ofInt 128 (x.toInt * y.toInt)).extractLsb' 64 64) ∧
    Claims.Sends (.mulhu o) s f 0x24 o 3 ((BitVec.ofNat 128 (x.toNat * y.toNat)).extractLsb' 64 64)

/-- R148 (and R143, R144 for the time): a division whose divider is free gives the quotient or remainder of R148 after 18 fc,
keeps the divider for 18 fc, and does nothing else. -/
def Sys2Proof.Claims.Quotients : Prop :=
  ∀ (o : Ops2) (s : State) (f : Firing), s.cur = some f → (elemAt s f.pos).divBusy ≤ s.fc →
    let x := Claims.wordA s f o
    let y := Claims.wordB s f o
    let least : Word := 0x8000000000000000
    Claims.Divides (.divs o) s f 0x25 o
      (if y = 0 then BitVec.allOnes 64 else if x = least ∧ y = BitVec.allOnes 64 then x
       else BitVec.ofInt 64 (x.toInt.tdiv y.toInt)) ∧
    Claims.Divides (.divu o) s f 0x26 o (if y = 0 then BitVec.allOnes 64 else BitVec.ofNat 64 (x.toNat / y.toNat)) ∧
    Claims.Divides (.rems o) s f 0x27 o
      (if y = 0 then x else if x = least ∧ y = BitVec.allOnes 64 then 0
       else BitVec.ofInt 64 (x.toInt - x.toInt.tdiv y.toInt * y.toInt)) ∧
    Claims.Divides (.remu o) s f 0x28 o (if y = 0 then x else BitVec.ofNat 64 (x.toNat % y.toNat))

/-- R144: a division that is ready while the divider is busy does not fire; it stays ready, and nothing else changes. -/
def Sys2Proof.Claims.DividerBusy : Prop :=
  ∀ (o : Ops2) (s : State) (f : Firing), s.cur = some f → s.fc < (elemAt s f.pos).divBusy →
    ∀ i ∈ [Instr.divs o, .divu o, .rems o, .remu o], Completes i s (Claims.HeldBack s f)

/-- R149: bitwise operations, and shifts and rotates by B mod 64, bit by bit. -/
def Sys2Proof.Claims.BitwiseAndShifts : Prop :=
  ∀ (o : Ops2) (s : State) (f : Firing), s.cur = some f →
    let x := Claims.wordA s f o
    let y := Claims.wordB s f o
    let n := y.toNat % 64
    Claims.SendsBits (.and o) s f 0x29 o (fun i => x.getLsbD i && y.getLsbD i) ∧
    Claims.SendsBits (.or o) s f 0x2A o (fun i => x.getLsbD i || y.getLsbD i) ∧
    Claims.SendsBits (.xor o) s f 0x2B o (fun i => x.getLsbD i != y.getLsbD i) ∧
    Claims.SendsBits (.andn o) s f 0x2C o (fun i => x.getLsbD i && !y.getLsbD i) ∧
    Claims.SendsBits (.shl o) s f 0x2D o (fun i => decide (n ≤ i) && x.getLsbD (i - n)) ∧
    Claims.SendsBits (.shr o) s f 0x2E o (fun i => decide (i + n < 64) && x.getLsbD (i + n)) ∧
    Claims.SendsBits (.sra o) s f 0x2F o (fun i => if i + n < 64 then x.getLsbD (i + n) else x.getLsbD 63) ∧
    Claims.SendsBits (.rol o) s f 0x30 o (fun i => x.getLsbD ((i + 64 - n) % 64))

/-- R150: the lesser and greater operand, and the six comparisons, signed or unsigned. -/
def Obligations.MinMaxCompare : Prop :=
  ∀ (o : Ops2) (s : State) (f : Firing), s.cur = some f →
    let x := Claims.wordA s f o
    let y := Claims.wordB s f o
    Claims.Sends (.mins o) s f 0x31 o 1 (if x.toInt ≤ y.toInt then x else y) ∧
    Claims.Sends (.minu o) s f 0x32 o 1 (if x.toNat ≤ y.toNat then x else y) ∧
    Claims.Sends (.maxs o) s f 0x33 o 1 (if x.toInt ≤ y.toInt then y else x) ∧
    Claims.Sends (.maxu o) s f 0x34 o 1 (if x.toNat ≤ y.toNat then y else x) ∧
    Claims.Sends (.ceq o) s f 0x35 o 1 (if x = y then 1 else 0) ∧
    Claims.Sends (.cne o) s f 0x36 o 1 (if x = y then 0 else 1) ∧
    Claims.Sends (.clts o) s f 0x37 o 1 (if x.toInt < y.toInt then 1 else 0) ∧
    Claims.Sends (.cltu o) s f 0x38 o 1 (if x.toNat < y.toNat then 1 else 0) ∧
    Claims.Sends (.cles o) s f 0x39 o 1 (if x.toInt ≤ y.toInt then 1 else 0) ∧
    Claims.Sends (.cleu o) s f 0x3A o 1 (if x.toNat ≤ y.toNat then 1 else 0)

/-- R151, R152, R153: counts of bits, a bit field, extension from a width. -/
def Sys2Proof.Claims.CountsAndFields : Prop :=
  (∀ (o : Ops1) (s : State) (f : Firing), s.cur = some f →
    let x := lowWord (sideA s f o.sa)
    (∃ n, (x = 0 → n = 64) ∧ (x ≠ 0 → n < 64 ∧ x.getLsbD (63 - n) = true ∧ ∀ i, 63 - n < i → i < 64 → x.getLsbD i = false) ∧
      Computes (.clz o) s f 0x3B o.ta 0 (some 1) (bothOuts o.d0 o.d1 (ofWord (BitVec.ofNat 64 n)) false) 0) ∧
    Computes (.popc o) s f 0x3C o.ta 0 (some 1)
      (bothOuts o.d0 o.d1 (ofWord (BitVec.ofNat 64 ((List.range 64).countP fun i => x.getLsbD i))) false) 0) ∧
  ∀ (o : Ops2) (s : State) (f : Firing), s.cur = some f →
    let x := Claims.wordA s f o
    let y := Claims.wordB s f o
    let p := field y 5 0
    let w := min (field y 14 8) 64
    let n := field y 6 0
    Claims.SendsBits (.bfx o) s f 0x3D o (fun i => decide (i < w) && decide (p + i ≤ 63) && x.getLsbD (p + i)) ∧
    Claims.SendsBits (.sext o) s f 0x3E o (fun i => if n = 0 then false else if 64 ≤ n ∨ i < n then x.getLsbD i else x.getLsbD (n - 1)) ∧
    Claims.SendsBits (.zext o) s f 0x3F o (fun i => if 64 ≤ n ∨ i < n then x.getLsbD i else false)

/-! ## FP32 (spec/06) -/

/-- R158: FABS and FNEG deliver fin(A) with bit 31 cleared or inverted, and set no flag. -/
def Sys2Proof.Claims.SignOperations : Prop :=
  ∀ (o : Ops1) (s : State) (f : Firing), s.cur = some f →
    let v := Claims.finOf (ctlAt s f) ((lowWord (sideA s f o.sa)).extractLsb' 0 32)
    Computes (.fabs o) s f 0x46 o.ta 0 (some 1)
      (bothOuts o.d0 o.d1 (ofWord (((0 : BitVec 1) ++ v.extractLsb' 0 31 : BitVec 32).zeroExtend 64)) false) 0 ∧
    Computes (.fneg o) s f 0x47 o.ta 0 (some 1)
      (bothOuts o.d0 o.d1 (ofWord ((~~~(v.extractLsb' 31 1) ++ v.extractLsb' 0 31 : BitVec 32).zeroExtend 64)) false) 0

/-- R161: FCLASS delivers a word with exactly the bit of its operand's class. -/
def Sys2Proof.Claims.Classify : Prop :=
  ∀ (o : Ops1) (s : State) (f : Firing), s.cur = some f →
    let v := Claims.finOf (ctlAt s f) ((lowWord (sideA s f o.sa)).extractLsb' 0 32)
    let e := (v.extractLsb' 23 8).toNat
    let m := (v.extractLsb' 0 23).toNat
    let n := v.getLsbD 31
    let k := if e = 255 then (if m = 0 then (if n then 0 else 7) else if v.getLsbD 22 then 9 else 8)
      else if e = 0 then (if m = 0 then (if n then 3 else 4) else if n then 2 else 5)
      else if n then 1 else 6
    Computes (.fclass o) s f 0x50 o.ta 0 (some 1) (bothOuts o.d0 o.d1 (ofWord (1 <<< k)) false) 0

/-- R165: FPACK and FHI copy bits. -/
def Sys2Proof.Claims.PackedPairs : Prop :=
  (∀ (o : Ops2) (s : State) (f : Firing), s.cur = some f →
    Claims.Sends (.fpack o) s f 0x54 o 1
      ((Claims.wordB s f o).extractLsb' 0 32 ++ (Claims.wordA s f o).extractLsb' 0 32 : BitVec 64)) ∧
  ∀ (o : Ops1) (s : State) (f : Firing), s.cur = some f →
    Computes (.fhi o) s f 0x55 o.ta 0 (some 1)
      (bothOuts o.d0 o.d1 (ofWord ((0 : BitVec 32) ++ (lowWord (sideA s f o.sa)).extractLsb' 32 32 : BitVec 64)) false) 0

/-- R142, R143, R155 to R167: every other FP32 instruction reads FPCTL once and the low 32 bits of its sides (A whole for ICVTF
and FCVT, and a control word or an exponent whole), and leaves its result, zero-extended, and its flags after its latency;
FFMA sends to D0 only. The values are those of the functions of Machine/Arith.lean. -/
def Sys2Proof.Claims.FloatInstructionsComplete : Prop :=
  (∀ (o : Ops2) (s : State) (f : Firing), s.cur = some f →
    let c := ctlAt s f
    let x := Claims.wordA s f o
    let y := Claims.wordB s f o
    let a := x.extractLsb' 0 32
    let b := y.extractLsb' 0 32
    Claims.SendsFloat (.fadd o) s f 0x40 o 4 (fadd c a b) ∧ Claims.SendsFloat (.fsub o) s f 0x41 o 4 (fsub c a b) ∧
    Claims.SendsFloat (.fmul o) s f 0x42 o 4 (fmul c a b) ∧ Claims.SendsFloat (.fmin o) s f 0x44 o 1 (fminmax false c a b) ∧
    Claims.SendsFloat (.fmax o) s f 0x45 o 1 (fminmax true c a b) ∧ Claims.SendsTruth (.fceq o) s f 0x48 o (fceq c a b) ∧
    Claims.SendsTruth (.fclt o) s f 0x49 o (fclt c a b) ∧ Claims.SendsTruth (.fcle o) s f 0x4A o (fcle c a b) ∧
    Claims.SendsTruth (.fcun o) s f 0x4B o (fcun c a b) ∧
    Claims.SendsFloat (.frnd o) s f 0x51 o 3 (frnd c a (field y 2 0)) ∧
    Claims.SendsWord (.fcvti o) s f 0x52 o 3 (fcvti c a y) ∧ Claims.SendsFloat (.icvtf o) s f 0x53 o 3 (icvtf c x y) ∧
    Claims.SendsFloat (.fscalb o) s f 0x56 o 4 (fscalb c a y) ∧ Claims.SendsWord (.fcvt o) s f 0x57 o 3 (fcvt c x y)) ∧
  (∀ (o : Ops1) (s : State) (f : Firing), s.cur = some f →
    let c := ctlAt s f
    let a := (lowWord (sideA s f o.sa)).extractLsb' 0 32
    Claims.SendsSeed (.frsq o) s f 0x4C o (frsq c a) ∧ Claims.SendsSeed (.frcp o) s f 0x4D o (frcp c a) ∧
    Claims.SendsSeed (.fexp2 o) s f 0x4E o (fexp2 c a) ∧ Claims.SendsSeed (.flog2 o) s f 0x4F o (flog2 c a)) ∧
  ∀ (o : Ops3) (s : State) (f : Firing), s.cur = some f →
    let low := fun (w : Wide) => (lowWord w).extractLsb' 0 32
    let r := ffma (ctlAt s f) (low (sideA s f o.sa)) (low (sideB s f o.sb)) (low (sideC s f o.sc))
    Computes (.ffma o) s f 0x43 o.ta (sideB s f o.sb) (some 4)
      (outOf (dstNat o.d0) (ofWord (r.1.zeroExtend 64)) false false) r.2

/-- R129, R156, R159: sums, differences, products and the fused sum of finite operands are the exact value rounded by FPCTL.RM, with NX
when it is not exact, where the result is finite and FTZ is off; FCEQ, FCLT and FCLE compare the values. -/
def Sys2Proof.Claims.FloatsRound : Prop :=
  ∀ (c : FpCtl) (x y z : BitVec 32),
    let a := Claims.finOf c x
    let b := Claims.finOf c y
    let d := Claims.finOf c z
    let u := Claims.unitsOf32
    let good := fun (r : BitVec 32 × BitVec 5) (v : Int) (k : Nat) => Claims.finite32 r.1 → Claims.Rounded c.rm v k r.1 ∧
      r.2.getLsbD 0 = decide (u r.1 * 2 ^ k ≠ v) ∧ r.2.getLsbD 3 = false ∧ r.2.getLsbD 4 = false
    Claims.finite32 a → Claims.finite32 b →
      (c.ftz = false → good (fadd c x y) (u a + u b) 0 ∧ good (fsub c x y) (u a - u b) 0 ∧ good (fmul c x y) (u a * u b) 149 ∧
        (Claims.finite32 d → good (ffma c x y z) (u a * u b + u d * 2 ^ 149) 149)) ∧
      fceq c x y = (decide (u a = u b), 0) ∧ fclt c x y = (decide (u a < u b), 0) ∧ fcle c x y = (decide (u a ≤ u b), 0)

/-- R160: the special operands of the seeds, and their flags. -/
def Sys2Proof.Claims.SeedSpecials : Prop :=
  ∀ c : FpCtl,
    frsq c 0 = (0x7F800000, flagDZ) ∧ frsq c 0x80000000 = (0xFF800000, flagDZ) ∧ frsq c 0x7F800000 = (0, 0) ∧
    frsq c 0xFF800000 = (0x7FC00000, flagNV) ∧
    (∀ x : BitVec 32, x.getLsbD 31 = true → 0 < (x.extractLsb' 23 8).toNat → (x.extractLsb' 23 8).toNat < 255 →
      frsq c x = (0x7FC00000, flagNV) ∧ flog2 c x = (0x7FC00000, flagNV)) ∧
    frcp c 0 = (0x7F800000, flagDZ) ∧ frcp c 0x80000000 = (0xFF800000, flagDZ) ∧ frcp c 0x7F800000 = (0, 0) ∧
    frcp c 0xFF800000 = (0x80000000, 0) ∧
    fexp2 c 0 = (0x3F800000, 0) ∧ fexp2 c 0x80000000 = (0x3F800000, 0) ∧ fexp2 c 0x7F800000 = (0x7F800000, 0) ∧
    fexp2 c 0xFF800000 = (0, 0) ∧
    flog2 c 0 = (0xFF800000, flagDZ) ∧ flog2 c 0x80000000 = (0xFF800000, flagDZ) ∧ flog2 c 0x7F800000 = (0x7F800000, 0) ∧
    flog2 c 0xFF800000 = (0x7FC00000, flagNV) ∧ flog2 c 0x3F800000 = (0, 0)

/-! ## Vectors (spec/07) -/

/-- R178, R179: VSEL, and the integer lanes: each lane of the result by its rule, with no flag. -/
def Sys2Proof.Claims.VectorIntegerLanes : Prop :=
  (∀ (o : Ops2) (s : State) (f : Firing), s.cur = some f →
    Claims.SendsLanes (.viadd o) s f 0x75 o 1 (fun x y => BitVec.ofInt 32 (x.toInt + y.toInt)) ∧
    Claims.SendsLanes (.visub o) s f 0x76 o 1 (fun x y => BitVec.ofInt 32 (x.toInt - y.toInt)) ∧
    Claims.SendsLanes (.vimul o) s f 0x77 o 3 (fun x y => BitVec.ofInt 32 (x.toInt * y.toInt)) ∧
    Claims.SendsLanes (.vand o) s f 0x78 o 1 (fun x y => x &&& y) ∧
    Claims.SendsLanes (.vor o) s f 0x79 o 1 (fun x y => x ||| y) ∧
    Claims.SendsLanes (.vxor o) s f 0x7A o 1 (fun x y => x ^^^ y) ∧
    Claims.SendsLanes (.vshl o) s f 0x7B o 1 (fun x y => x <<< (y.toNat % 32)) ∧
    Claims.SendsLanes (.vshr o) s f 0x7C o 1 (fun x y => x >>> (y.toNat % 32)) ∧
    Claims.SendsLanes (.vsra o) s f 0x7D o 1 (fun x y => BitVec.ofInt 32 (x.toInt / 2 ^ (y.toNat % 32))) ∧
    Claims.SendsLanes (.vimin o) s f 0x7E o 1 (fun x y => if x.toInt ≤ y.toInt then x else y) ∧
    Claims.SendsLanes (.vimax o) s f 0x7F o 1 (fun x y => if x.toInt ≤ y.toInt then y else x)) ∧
  ∀ (o : Ops2) (sc : Src) (s : State) (f : Firing), s.cur = some f →
    ∃ r : Wide, (∀ i, i < 16 → lane r i =
        if lane (sideC s f sc) i = 0 then lane (sideB s f o.sb) i else lane (sideA s f o.sa) i) ∧
      Claims.SendsWide (.vsel o sc) s f 0x6F o 1 r 0

/-- R181: the lane movements; VEXT gives a narrow result. -/
def Sys2Proof.Claims.VectorMoves : Prop :=
  (∀ (o : Ops2) (s : State) (f : Firing), s.cur = some f →
    let a := fun i => lane (sideA s f o.sa) i
    let b := fun i => lane (sideB s f o.sb) i
    Claims.SendsMoved (.vshuf o) s f 0x73 o (fun i => if (b i).getLsbD 31 then 0 else a ((b i).toNat % 16)) ∧
    Claims.SendsMoved (.vbcast o) s f 0x74 o (fun _ => a ((b 0).toNat % 16)) ∧
    Claims.SendsMoved (.vsplat o) s f 0x84 o (fun i => BitVec.ofNat 32 ((a 0).toNat + i * (b 0).toNat)) ∧
    Claims.Sends (.vext o) s f 0x83 o 2
      (if (b 0).getLsbD 4 then (a ((b 0).toNat % 16)).signExtend 64 else (a ((b 0).toNat % 16)).zeroExtend 64)) ∧
  ∀ (o : Ops2) (sc : Src) (s : State) (f : Firing), s.cur = some f →
    Claims.SendsMoved (.vins o sc) s f 0x82 o (fun i =>
      if i = (lane (sideC s f sc) 0).toNat % 16 then lane (sideB s f o.sb) 0 else lane (sideA s f o.sa) i)

/-- R170, R174 to R177, R180: each FP32 lane is what the S instruction gives for the lane operands, and the flags of the lanes
are ORed; a comparison gives a lane of ones or of zeros. -/
def Sys2Proof.Claims.VectorFloatLanes : Prop :=
  (∀ (o : Ops2) (s : State) (f : Firing), s.cur = some f →
    let c := ctlAt s f
    let ctl := lane (sideB s f o.sb) 0
    let mask := fun (r : Bool × BitVec 5) => ((if r.1 then 0xFFFFFFFF else 0 : BitVec 32), r.2)
    Claims.SendsFlagged (.vadd o) s f 0x60 o 4 (fadd c) ∧ Claims.SendsFlagged (.vsub o) s f 0x61 o 4 (fsub c) ∧
    Claims.SendsFlagged (.vmul o) s f 0x62 o 4 (fmul c) ∧ Claims.SendsFlagged (.vmin o) s f 0x64 o 1 (fminmax false c) ∧
    Claims.SendsFlagged (.vmax o) s f 0x65 o 1 (fminmax true c) ∧
    Claims.SendsFlagged (.vceq o) s f 0x6C o 1 (fun x y => mask (fceq c x y)) ∧
    Claims.SendsFlagged (.vclt o) s f 0x6D o 1 (fun x y => mask (fclt c x y)) ∧
    Claims.SendsFlagged (.vcle o) s f 0x6E o 1 (fun x y => mask (fcle c x y)) ∧
    Claims.SendsFlagged (.vcvti o) s f 0x80 o 3 (fun x _ => vcvti c ctl x) ∧
    Claims.SendsFlagged (.vcvtf o) s f 0x81 o 3 (fun x _ => vcvtf c ctl x) ∧
    Claims.SendsFlagged (.vrnd o) s f 0x86 o 3 (fun x _ => frnd c x (ctl.toNat % 8))) ∧
  (∀ (o : Ops1) (s : State) (f : Firing), s.cur = some f →
    let c := ctlAt s f
    Claims.SendsFlagged1 (.vabs o) s f 0x66 o 1 (fun x => (fabsBits c x, 0)) ∧
    Claims.SendsFlagged1 (.vneg o) s f 0x67 o 1 (fun x => (fnegBits c x, 0)) ∧
    Claims.SendsFlagged1 (.vrcp o) s f 0x68 o 6 (frcp c) ∧ Claims.SendsFlagged1 (.vrsq o) s f 0x69 o 6 (frsq c) ∧
    Claims.SendsFlagged1 (.vexp2 o) s f 0x6A o 6 (fexp2 c) ∧ Claims.SendsFlagged1 (.vlog2 o) s f 0x6B o 6 (flog2 c) ∧
    Claims.SendsFlagged1 (.vclass o) s f 0x85 o 1 (fun x => (fclass c x, 0))) ∧
  ∀ (o : Ops2) (sc : Src) (s : State) (f : Firing), s.cur = some f →
    ∃ (r : Wide) (fl : BitVec 5),
      (∀ i, i < 16 → lane r i = (Claims.fmaLane s f o sc i).1) ∧
      fl = (List.range 16).foldl (fun g i => g ||| (Claims.fmaLane s f o sc i).2) 0 ∧
      Claims.SendsWide (.vfma o sc) s f 0x63 o 4 r fl

/-- R139, R182: the tree of four levels adds, or takes the maximum of, lanes 2i and 2i + 1 at each level, and ORs the flags of its
steps. -/
def Sys2Proof.Claims.ReductionTree : Prop :=
  ∀ (op : BitVec 32 → BitVec 32 → BitVec 32 × Flags) (a : Wide),
    let n := fun (x y : BitVec 32 × Flags) => ((op x.1 y.1).1, x.2 ||| y.2 ||| (op x.1 y.1).2)
    let l := fun i => (lane a i, (0 : Flags))
    tree16 op (lanes a) =
      n (n (n (n (l 0) (l 1)) (n (l 2) (l 3))) (n (n (l 4) (l 5)) (n (l 6) (l 7))))
        (n (n (n (l 8) (l 9)) (n (l 10) (l 11))) (n (n (l 12) (l 13)) (n (l 14) (l 15))))

/-- R182, R183: the reductions give a narrow result by the tree; VSCAN a wide one by its passes, in which each lane from 2^k on takes the
lane 2^k below it as its first operand, from A, or from A moved up one lane when the scan is exclusive; with the flags of their steps,
after their latencies (R172). -/
def Sys2Proof.Claims.VectorReductions : Prop :=
  (∀ (o : Ops1) (s : State) (f : Firing), s.cur = some f →
    let c := ctlAt s f
    let sum := tree16 (fadd c) (lanes (sideA s f o.sa))
    let top := tree16 (fminmax true c) (lanes (sideA s f o.sa))
    Computes (.vrsum o) s f 0x70 o.ta 0 (some 16) (bothOuts o.d0 o.d1 (ofWord (sum.1.zeroExtend 64)) false) sum.2 ∧
    Computes (.vrmax o) s f 0x71 o.ta 0 (some 5) (bothOuts o.d0 o.d1 (ofWord (top.1.zeroExtend 64)) false) top.2) ∧
  ∀ (o : Ops2) (s : State) (f : Firing), s.cur = some f →
    let c := ctlAt s f
    let a := sideA s f o.sa
    let b := sideB s f o.sb
    let l := lane b 0
    let op := if l.getLsbD 0 then fminmax true c else fadd c
    let y := Claims.scanLane op fun i =>
      if l.getLsbD 1 then (if i = 0 then (if l.getLsbD 0 then 0xFF800000 else 0) else lane a (i - 1)) else lane a i
    (∃ (r : Wide) (g : BitVec 5), (∀ i, i < 16 → lane r i = y 4 i) ∧
      g = (List.range 4).foldl (fun g k => (List.range 16).foldl (fun g i =>
        if i < 2 ^ k then g else g ||| (op (y k (i - 2 ^ k)) (y k i)).2) g) 0 ∧
      Claims.SendsWide (.vscan o) s f 0x72 o 16 r g) ∧
    ∃ (m : List (BitVec 32)) (fl : BitVec 5),
      m = (List.range 16).map (fun i => (fmul c (lane a i) (lane b i)).1) ∧
      fl = (List.range 16).foldl (fun g i => g ||| (fmul c (lane a i) (lane b i)).2) 0 ∧
      Computes (.vdot o) s f 0x87 o.ta b (some 20)
        (bothOuts o.d0 o.d1 (ofWord ((tree16 (fadd c) m).1.zeroExtend 64)) false) (fl ||| (tree16 (fadd c) m).2)

/-! ## Tokens, frames, loops and traps (spec/03) -/

/-- R84 to R87: MOV, STEER, MERGE and JOIN send on what they took; on V the payload is wide (R169). -/
def Obligations.TokenInstructions : Prop :=
  (∀ (o : Ops2) (s : State) (f : Firing), s.cur = some f →
    let wide := decide (classOf f.pos = some .v)
    Computes (.mov o) s f 0x01 o.ta (sideB s f o.sb) none (bothOuts o.d0 o.d1 (sideA s f o.sa) wide) 0 ∧
    (∃ n, 0 < n ∧ Computes (.steer o) s f 0x02 o.ta (sideB s f o.sb) (some n)
      (outOf (dstNat (if sideB s f o.sb = 0 then o.d1 else o.d0)) (sideA s f o.sa) wide false) 0) ∧
    Computes (.merge o) s f 0x03 o.ta 0 none (bothOuts o.d0 o.d1 f.a wide) 0) ∧
  ∀ (o : OpsJoin) (s : State) (f : Firing), s.cur = some f →
    Computes (.join o) s f 0x04 .keep 0 none (bothOuts o.d0 o.d1 f.b false) 0

/-- R64, R88, R89, R91 and R93: FALLOC, FFREE, CALL and RET each ask the frame table for one operation, hold what they will
send until it answers, and do nothing else. -/
def Sys2Proof.Claims.FrameInstructions : Prop :=
  (∀ (o : OpsFrame) (s : State) (f : Firing), s.cur = some f →
    let b := lowWord (sideB s f (.c o.sb))
    Claims.Asks (.falloc o) s f 0x05 o.ta (sideB s f (.c o.sb)) (outOf (dstNat o.d1) (sideA s f o.sa) false false) fun k =>
      .frame (.alloc (regionId s f.pos) (field b 5 0) (field b 10 8) f.tag none f.pos k)) ∧
  (∀ (o : OpsKeep) (s : State) (f : Firing), s.cur = some f →
    Claims.Asks (.ffree o) s f 0x06 .keep 0 (bothOuts o.d0 o.d1 (sideA s f o.sa) false) fun k =>
      .frame (.free (frameOf f.tag) (iterOf f.tag) none f.pos k)) ∧
  (∀ (o : OpsCall) (s : State) (f : Firing) (d e : Fin 31), s.cur = some f → dstNat o.d0 = some d.val → dstNat o.d1 = some e.val →
    let b := lowWord (sideB s f (.c o.sb))
    let cont := continuation ((tablesAt s f.pos).route e.val) f.tag
    Claims.Asks (.call o) s f 0x08 .keep 0
      [⟨d.val, sideA s f o.sa, false, false, true, none⟩, ⟨d.val + 1, ofWord cont, false, false, true, none⟩] fun k =>
      .frame (.alloc (regionId s f.pos) (field b 5 0) (field b 10 8) f.tag (some cont) f.pos k)) ∧
  ∀ (o : OpsSink) (s : State) (f : Firing), s.cur = some f →
    let b := lowWord (sideB s f o.sb)
    Claims.Asks (.ret o) s f 0x09 .keep 0 [⟨31, sideA s f o.sa, false, false, true, some (contRoute b)⟩] fun k =>
      .frame (.free (frameOf f.tag) (iterOf f.tag) (some b) f.pos k)

/-- R92, R93: a continuation holds the caller's tag and the place, instruction, side and channel of D1's route entry; the return
point that RET reads from it is that place, instruction, side and channel. -/
def Sys2Proof.Claims.Continuations : Prop :=
  ∀ (route : Word) (tag : Tag),
    let c := continuation route tag
    c.extractLsb' 0 23 = tag ∧ routePos (contRoute c) = routePos route ∧ routeInstr (contRoute c) = routeInstr route ∧
      routeSide (contRoute c) = routeSide route ∧ routeVc (contRoute c) = routeVc route

/-- R79, R90: LOOPN leaves one record of A mod 2^32 iterations from B, the first with the tag t0 mod k of its frame's k tags, or the exit
of an empty loop with t0, counts in its frame's PEND, and leaves memory, the networks,
every other element and every other frame as they are, where the store has a place for the record. -/
def Sys2Proof.Claims.LoopBegins : Prop :=
  ∀ (o : OpsKeep) (s : State) (f : Firing), s.cur = some f → Claims.storeNeed s f = .go →
    Completes (.loopn o) s fun t => ∃ l : LoopRec,
      (elemAt t f.pos).loops = (elemAt s f.pos).loops ++ [l] ∧ l.entry = f.entry ∧ l.tag = f.tag ∧
        l.n = (lowWord (sideA s f o.sa)).toNat % 2 ^ 32 ∧ l.i = 0 ∧ l.base = lowWord (sideB s f o.sb) ∧ l.d0 = dstNat o.d0 ∧
        l.d1 = dstNat o.d1 ∧ s.fc < l.due ∧
        l.given = some (if l.n = 0 then iterOf f.tag else iterOf f.tag % 2 ^ (frameAt s (frameOf f.tag)).logk) ∧
      (elemAt t f.pos).pipe = (elemAt s f.pos).pipe ∧ (elemAt t f.pos).out = (elemAt s f.pos).out ∧
      (elemAt t f.pos).slots = (elemAt s f.pos).slots ∧ (elemAt t f.pos).ready = (elemAt s f.pos).ready ∧
      (∀ p, p ≠ f.pos → elemAt t p = elemAt s p) ∧
      frameAt t (frameOf f.tag) = { frameAt s (frameOf f.tag) with pend := (frameAt s (frameOf f.tag)).pend + 1 } ∧
      (∀ g, g ≠ frameOf f.tag → frameAt t g = frameAt s g) ∧ { t.chip with elems := s.chip.elems } = s.chip ∧
      SameMemory s t ∧ t.fc = s.fc ∧ t.cur = none

/-- R79: LOOPN, BAR and SSTEP do not fire while their element's store has no place for what they hold: nothing but the lookup,
spill or fill that finds or makes the place begins, and the firing stays ready. -/
def Sys2Proof.Claims.HeldResultWaits : Prop :=
  ∀ (s : State) (f : Firing), s.cur = some f →
    ∀ i, (∃ o, i = .loopn o) ∨ (∃ o x, i = .bar o x) ∨ (∃ o x, i = .sstep o x) →
      (Claims.storeNeed s f = .wait → Completes i s (Claims.HeldBack s f)) ∧
      (∀ k, Claims.storeNeed s f = .spill k → Completes i s (Claims.HeldBack
        (after (andThen (beginSpill f.pos k f.id) (lookedUp f.pos (Claims.storeKey f))) s) f)) ∧
      (∀ k, Claims.storeNeed s f = .fill k → Completes i s (Claims.HeldBack (after (beginFill f.pos k) s) f)) ∧
      (Claims.storeNeed s f = .look → Completes i s
        (Claims.HeldBack (after (beginLook f.pos (Claims.storeKey f)) s) f))

/-- R94, R352: YIELD sends A on; while its region has a yield requested and its root frame has not been freed it parks its frame and
its result is held instead. -/
def Sys2Proof.Claims.YieldParks : Prop :=
  ∀ (o : Ops2) (s : State) (f : Firing), s.cur = some f →
    let outs := bothOuts o.d0 o.d1 (sideA s f o.sa) false
    ((∀ r, regionOf s f.pos = some r → r.yr = false ∨ r.rootFreed = true) → Computes (.yield o) s f 0x0A o.ta (sideB s f o.sb) none outs 0) ∧
    ∀ r, regionOf s f.pos = some r → r.yr = true → r.rootFreed = false →
      ∃ n, 0 < n ∧ Completes (.yield o) s (Leaves (after (parkFrame (frameOf f.tag) (.yld true)) s) f
        ⟨0x0A, o.ta, sideB s f o.sb, some n, outs, 0, .yielding, false⟩ fun _ => [])

/-- R95: TRAP, and ASSERT of 0, raise ETRAP with the trap value and send nothing; any other ASSERT sends A on. -/
def Sys2Proof.Claims.Traps : Prop :=
  (∀ (sa : Src) (s : State) (f : Firing), s.cur = some f →
    Completes (.trap sa) s (Claims.Raises s f codeEtrap (lowWord (sideA s f sa)))) ∧
  ∀ (o : Ops2) (s : State) (f : Firing), s.cur = some f →
    (lowWord (sideA s f o.sa) = 0 → Completes (.assert o) s (Claims.Raises s f codeEtrap (lowWord (sideB s f o.sb)))) ∧
    (lowWord (sideA s f o.sa) ≠ 0 →
      Computes (.assert o) s f 0x0C o.ta (sideB s f o.sb) none (bothOuts o.d0 o.d1 (sideA s f o.sa) false) 0)

/-! ## System registers, time, place, counters and events (spec/13 to spec/17) -/

/-- R345, R366, R367: SYSRD and SYSWR ask the region's control point for the register and hold their result until it answers; a
privileged register in a region without privilege raises ESYS. -/
def Sys2Proof.Claims.SystemRegisterAccess : Prop :=
  ∀ (o : Ops2) (x : Xsys) (s : State) (f : Firing) (r : Region), s.cur = some f → regionOf s f.pos = some r →
    let outs := bothOuts o.d0 o.d1 0 false
    let guarded := 0x120 ≤ x.sreg.toNat ∧ x.sreg.toNat ≤ 0x123 ∧ r.priv = false
    (¬guarded →
      Claims.Asks (.sysrd o x) s f 0xE0 o.ta (sideB s f o.sb) outs (fun k => .sysreg r.id x.sreg.toNat none f.pos k) ∧
      Claims.Asks (.syswr o x) s f 0xE1 o.ta (sideB s f o.sb) outs
        (fun k => .sysreg r.id x.sreg.toNat (some (lowWord (sideA s f o.sa))) f.pos k)) ∧
    (guarded → ∀ i ∈ [Instr.sysrd o x, .syswr o x], Completes i s (Claims.Raises s f codeEsys 0))

/-- R342, R368, R407: RDTIME gives the global time of its die or the region's run cycles, RDCOORD the words of R342, PERFRD the
counter its selector names, 0 for a cluster counter of 16 or more and for a cluster that is not in the region's partition, and nothing
changes. The value of a die's time may trail die 0's by up to 4 ns (log entry 11). -/
def Sys2Proof.Claims.TimePlaceCounters : Prop :=
  ∀ (o : Ops2) (s : State) (f : Firing) (r : Region), s.cur = some f → regionOf s f.pos = some r →
    let a := lowWord (sideA s f o.sa)
    Computes (.rdtime o) s f 0xE2 o.ta (sideB s f o.sb) (some 1)
      (bothOuts o.d0 o.d1 (ofWord (if a.getLsbD 0 then r.rcyc else nat64 (dieTime s f.pos.die))) false) 0 ∧
    (∃ w, Claims.CoordWord r f.pos (a.toNat % 4) w ∧
      Computes (.rdcoord o) s f 0xE3 o.ta (sideB s f o.sb) (some 1) (bothOuts o.d0 o.d1 (ofWord w) false) 0) ∧
    let die := if a.getLsbD 6 then f.pos.die else field a 14 13
    let clu := if a.getLsbD 6 then f.pos.clu else field a 12 8
    let own := clu < 20 ∧ ∃ x, partOfCluster s (cluster die clu) = some x ∧ x.setup.part = r.part
    ∃ v : Word, (a.getLsbD 5 = true → v = getKey 0 ⟨r.part, die, none, field a 4 0⟩ s.chip.counters) ∧
      (a.getLsbD 5 = false → field a 4 0 < 16 → own → v = getKey 0 ⟨r.part, die, some clu, field a 4 0⟩ s.chip.counters) ∧
      (a.getLsbD 5 = false → 16 ≤ field a 4 0 ∨ ¬own → v = 0) ∧
      Computes (.perfrd o) s f 0xE5 o.ta (sideB s f o.sb) none (bothOuts o.d0 o.d1 (ofWord v) false) 0

/-- R343: the time of die 0 is the global time, and another die's trails it by at most 4 ns. -/
def Sys2Proof.Claims.DieTimes : Prop :=
  ∀ (s : State) (d : Nat), dieTime s 0 = s.t18 / 18 ∧ dieTime s d ≤ s.t18 / 18 ∧ s.t18 / 18 ≤ dieTime s d + 4

/-- R410: EVT sends a record of type 0x40 with its field and tag in ARG0 and A in ARG1 to the collector, and holds A until the collector
has it. -/
def Sys2Proof.Claims.UserEvent : Prop :=
  ∀ (o : Ops2) (x : Xh) (s : State) (f : Firing) (r : Region), s.cur = some f → regionOf s f.pos = some r →
    Claims.Asks (.evt o x) s f 0xE4 o.ta (sideB s f o.sb) (bothOuts o.d0 o.d1 (sideA s f o.sa) false) fun k =>
      .event { time := dieTime s f.pos.die, kind := 0x40, part := r.part, src := f.pos, run := r.run,
               arg0 := place x.f.toNat 48 ||| f.tag.zeroExtend 64, arg1 := lowWord (sideA s f o.sa), op := some k }

/-! ## Barriers (spec/13) -/

/-- R340: BARI, BARA and BARD ask the unit of the barrier's level for one operation and hold their result until it answers. -/
def Sys2Proof.Claims.BarrierRequests : Prop :=
  ∀ (o : Ops2) (x : Xbar) (s : State) (f : Firing), s.cur = some f →
    let ask := fun (q : BarOp) (k : Nat) => Body.barrier (regionId s f.pos) x.lvl x.bno.toNat q f.pos k
    let pass := bothOuts o.d0 o.d1 (sideA s f o.sa) false
    Claims.Asks (.bari o x) s f 0xB0 o.ta (sideB s f o.sb) [] (ask (.init (field (lowWord (sideA s f o.sa)) 15 0))) ∧
    Claims.Asks (.bara o x) s f 0xB2 o.ta (sideB s f o.sb) pass (ask .arrive) ∧
    Claims.Asks (.bard o x) s f 0xB3 o.ta (sideB s f o.sb) pass (ask .drop)

/-- R73, R79, R340, R341: BAR and SSTEP arrive at the barrier, park their frame by BWC and hold A until the wake, where the store
has a place for the result. -/
def Sys2Proof.Claims.BarrierWaits : Prop :=
  ∀ (o : Ops2) (x : Xbar) (s : State) (f : Firing), s.cur = some f → Claims.storeNeed s f = .go →
    ∀ i opc, (i = Instr.bar o x ∧ opc = 0xB1) ∨ (i = Instr.sstep o x ∧ opc = 0xAC) →
      Completes i s fun t => ∃ (y : PipeOp) (l : List Msg) (m : Msg),
        (elemAt t f.pos).pipe =
          replaceIf (fun z => z.id = y.id) (fun z => { z with due := none }) ((elemAt s f.pos).pipe ++ [y]) ∧
        y.op = opc ∧ y.entry = f.entry ∧ y.tag = f.tag ∧ y.out = .known f.tag ∧ y.wait = .barrier ∧ y.flags = 0 ∧
        y.outs = bothOuts o.d0 o.d1 (sideA s f o.sa) false ∧
        t.chip.net = s.chip.net ++ l ++ [m] ∧ (∀ z ∈ l, ∃ v, z.body = .park (frameOf f.tag) v ∧ v.bwc = true) ∧
        m.dst = barrierPlace x.lvl f.pos ∧ m.body = .barrier (regionId s f.pos) x.lvl x.bno.toNat .await f.pos y.id ∧
        frameAt t (frameOf f.tag) =
          { frameAt s (frameOf f.tag) with
            pend := (frameAt s (frameOf f.tag)).pend + 1, bwc := (frameAt s (frameOf f.tag)).bwc + 1 } ∧
        (∀ g, g ≠ frameOf f.tag → frameAt t g = frameAt s g) ∧ (∀ p, p ≠ f.pos → elemAt t p = elemAt s p) ∧
        { t.chip with elems := s.chip.elems, net := s.chip.net } = s.chip ∧ SameMemory s t ∧ t.cur = none

/-! ## Memory instructions (spec/11) -/

/-- R48, R295, R299: the byte offset of a lane is (index + OFF) times the access size; a gather's lanes are base + i × stride on
S and A, and the lanes of A, but those of 0x8000_0000, on V. -/
def Sys2Proof.Claims.LaneAddresses : Prop :=
  ∀ (s : State) (f : Firing) (sa : Src) (x : Xm) (i : Nat) (a : Int),
    let w := sideA s f sa
    let isV := classOf f.pos = some .v
    let n := sizeBytes x.sz
    ((i, a) ∈ accessLanes s f sa x false ↔
      i = 0 ∧ a = ((if classOf f.pos = some .v then (lane w 0).toInt else (lowWord w).toInt) + x.off.toInt) * n) ∧
    (isV → ((i, a) ∈ accessLanes s f sa x true ↔
      i < 16 ∧ lane w i ≠ 0x80000000 ∧ a = ((lane w i).toInt + x.off.toInt) * n)) ∧
    (¬isV → ((i, a) ∈ accessLanes s f sa x true ↔
      i < 16 ∧ a = ((lane w 0).toInt + i * (lane w 1).toInt + x.off.toInt) * n))

/-- R271, R295 to R300: a memory instruction whose outgoing tag is known, whose pool has room and whose lanes keep R295 sends
one request of its operation, size, lanes and data with one message to its home, counts it in its frame's MEMOUT, and changes no byte of
memory, no other frame and no other element; only the completion token of a store may leave with it. -/
def Sys2Proof.Claims.MemoryRequestLeaves : Prop :=
  ∀ (y : Instr × Access) (s : State) (f : Firing) (r : Region) (out : Tag), Claims.accesses y →
    s.cur = some f → regionAt s (regionId s f.pos) = some r → Claims.roomy s f → Claims.lanesFail s f y.2 = false →
    outTag y.2.ta (sideB s f y.2.sb) f.tag = .known out → Claims.inBuffer s f y.2 out r = false →
    Completes y.1 s fun t => ∃ (q : MemReq) (m : Msg) (l : List Msg),
      t.chip.reqs.map Claims.unacked = s.chip.reqs.map Claims.unacked ++ [Claims.unacked q] ∧
      q.p = f.pos ∧ q.r = regionId s f.pos ∧ q.entry = f.entry ∧ q.op = y.2.op ∧ q.client = .instr ∧ q.h = y.2.x.h.toNat ∧
      q.n = sizeBytes y.2.x.sz ∧ q.scope = y.2.x.sc ∧ q.str = y.2.x.str ∧ q.ack = y.2.x.ack ∧ q.tag = f.tag ∧ q.out = out ∧
      q.b = sideB s f y.2.sb ∧ q.c = sideC s f y.2.sc ∧ q.rel = (y.2.ta == .free) ∧ q.doneAt = none ∧ q.dead = false ∧
      (∀ l, l ∈ q.parts.flatMap (·.lanes) ↔
        ∃ z ∈ accessLanes s f y.2.sa y.2.x y.2.gather, l = (z.1, (z.2 % (2 ^ 64 : Int)).toNat)) ∧
      t.chip.net = s.chip.net ++ m :: l ∧ m.net = .request ∧ m.src = f.pos ∧ m.dst = q.home ∧ m.body = .request q.id ∧
      (∀ z ∈ l, q.ack = true ∧ ((z.net = .reply ∧ z.body = .token) ∨ z.body = .frame (.release (frameOf f.tag) (iterOf f.tag)))) ∧
      frameAt t (frameOf f.tag) = { frameAt s (frameOf f.tag) with memout := (frameAt s (frameOf f.tag)).memout + 1 } ∧
      Claims.MemoryFired s f t

/-- R305, R311: a load of an hbm handle whose bytes all stand in its tile's outgoing buffer is served there: no request leaves, and no
byte of memory, no other frame and no other element changes. -/
def Sys2Proof.Claims.LoadServedInBuffer : Prop :=
  ∀ (y : Instr × Access) (s : State) (f : Firing) (r : Region) (out : Tag), Claims.accesses y →
    s.cur = some f → regionAt s (regionId s f.pos) = some r → Claims.roomy s f → Claims.lanesFail s f y.2 = false →
    outTag y.2.ta (sideB s f y.2.sb) f.tag = .known out → Claims.inBuffer s f y.2 out r = true →
    y.2.op.reads = true ∧ y.2.op.writes = false ∧
    Completes y.1 s fun t => ∃ l : List Msg, t.chip.net = s.chip.net ++ l ∧ (∀ z ∈ l, z.net ≠ .request) ∧ Claims.MemoryFired s f t

/-- R70, R271: with a tag action that the frame table must answer (NEXT, EXIT) the request waits for its outgoing tag, while it counts in
its element's pool (the model's reading, log entry 32). -/
def Sys2Proof.Claims.MemoryRequestWaitsForTag : Prop :=
  ∀ (y : Instr × Access) (s : State) (f : Firing), Claims.accesses y → s.cur = some f → Claims.roomy s f →
    Claims.lanesFail s f y.2 = false → y.2.ta = .next ∨ y.2.ta = .exit →
    Completes y.1 s (Leaves s { f with a := sideA s f y.2.sa, b := sideB s f y.2.sb, c := sideC s f y.2.sc }
      ⟨y.2.opc, y.2.ta, sideB s f y.2.sb, some 0, [], 0, .none, true⟩ fun _ => [])

/-- R272: while the pool of outstanding accesses is full (8 of a tile, 256 of an access processor) a memory instruction does not
fire: it stays ready and nothing changes. -/
def Sys2Proof.Claims.MemoryPoolFull : Prop :=
  ∀ (y : Instr × Access) (s : State) (f : Firing), Claims.accesses y → s.cur = some f → ¬ Claims.roomy s f →
    Completes y.1 s (Claims.HeldBack s f) ∧
    poolLimit f.pos = if classOf f.pos = some .a then 256 else 8

/-- R295: a lane outside an hbm handle's extent, or not aligned to the access size, raises EPROT, and nothing is accessed. -/
def Sys2Proof.Claims.MemoryLaneErrors : Prop :=
  ∀ (y : Instr × Access) (s : State) (f : Firing), Claims.accesses y → s.cur = some f → Claims.roomy s f →
    Claims.lanesFail s f y.2 = true → Completes y.1 s (Claims.Raises s f codeEprot 0)

/-- R271, R299: a gather or scatter of an hbm handle with no active lane accesses nothing: taken in at its cluster port with a valid
entry it ends there, the gather's tokens being zeros and the scatter's its index. -/
def Sys2Proof.Claims.EmptyGathers : Prop :=
  ∀ (k : Nat) (s : State) (q : MemReq) (m : Msg) (r : Region), acquireEnabled s k = true → reqAt s k = some q → requestMsg s k = some m →
    q.level = 2 → q.parts.flatMap (·.lanes) = [] → awaitsSlots q = false → q.client = .instr → q.dead = false → q.acked = false →
    q.op = .gather ∨ (q.op = .scatter ∧ q.ack = true) → q.val = 0 → q.tokens ≠ [] → regionAt s q.r = some r →
    entryServes r q (reqEntry s r q.client (memoryPort q.p) q.h q.op.reads) = true →
    Completes (.transactionAcquire k) s fun t => SameMemory s t ∧ t.fc = s.fc ∧ (∀ p, elemAt t p = elemAt s p) ∧
      ∃ l, t.chip.net = s.chip.net.filter (fun y => y.id ≠ m.id) ++ l ∧
        (l.filter fun y => y.body == .token).length = q.tokens.length ∧
        ∀ y ∈ l, y.body = .token → y.net = .reply ∧ y.pay = if q.ack then ofWord q.idx else 0

/-- R301, R311: FENCE sends A on after every request of its frame's memory instructions that is outstanding now, issued or
waiting for its outgoing tag, has been performed at its scope. -/
def Sys2Proof.Claims.Fences : Prop :=
  ∀ (o : Ops2) (x : Xm) (s : State) (f : Firing), s.cur = some f →
    let mine := (frameAccesses s (frameOf f.tag)).map fun k => (k, 0)
    Completes (.fence o x) s (Leaves s f ⟨0x9E, o.ta, sideB s f o.sb, none,
      bothOuts o.d0 o.d1 (sideA s f o.sa) (decide (classOf f.pos = some .v)), 0,
      if mine = [] then .none else .fence mine x.sc, false⟩ fun _ => [])

/-! ## Configurations (spec/04) -/

/-- R115, R116: WSET sends its status; a status other than 0 writes nothing, and one of 0 writes the entry named (an instruction with its
extension word, a route, a VC entry, or a side-table entry, of 512 bits on V) in the slot of the configuration named, and nothing else of
any table. -/
def Sys2Proof.Claims.TableWrites : Prop :=
  ∀ (o : Ops2) (s : State) (f : Firing), s.cur = some f →
    let a := sideA s f o.sa
    let b := lowWord (sideB s f o.sb)
    let st := wsetStatus s f (lowWord a) b
    let send : Issue := ⟨0x0D, o.ta, sideB s f o.sb, none, bothOuts o.d0 o.d1 (ofWord (nat64 st)) false, 0, .none, false⟩
    (st ≠ 0 → Completes (.wset o) s (Leaves s f send fun _ => [])) ∧
    ∀ (r : Region) (k : Nat), st = 0 → regionOf s f.pos = some r → slotFor r f.pos (b.toNat / 4 % 4) = some k → k < 4 →
      Completes (.wset o) s fun t =>
        Leaves (after (wsetApply f r a b) s) f send (fun _ => []) t ∧
        Claims.EntryWritten (decide (classOf f.pos = some .v)) a (b.toNat % 4) (b.toNat / 16 % 256)
          (((unitAt s f.pos).slot k).tablesOf f.pos.elem) (((unitAt t f.pos).slot k).tablesOf f.pos.elem) ∧
        (∀ e, e ≠ f.pos.elem → ((unitAt t f.pos).slot k).tablesOf e = ((unitAt s f.pos).slot k).tablesOf e) ∧
        (∀ j, j < 4 → j ≠ k → (unitAt t f.pos).slot j = (unitAt s f.pos).slot j) ∧
        ∀ p, unitOf p ≠ unitOf f.pos → unitAt t p = unitAt s p

/-- R115: a WSET to the configuration that is active answers 0x11. -/
def Sys2Proof.Claims.ActiveTableRefused : Prop :=
  ∀ (s : State) (f : Firing) (a b : Word) (r : Region) (c : ElemClass), regionOf s f.pos = some r → classOf f.pos = some c →
    (configOf r.image (b.toNat / 4 % 4)).isSome → b.toNat < 2 ^ 12 → b.toNat / 16 < tableLen c (b.toNat % 4) →
    b.toNat / 4 % 4 = r.acfg → wsetStatus s f a b = 0x11

/-- R117: SWITCH sends its decision to the region's control point; a configuration the image does not hold is a trap, and a
decision taken while another drains is held back in the element. -/
def Sys2Proof.Claims.SwitchDecides : Prop :=
  ∀ (o : OpsSink) (s : State) (f : Firing) (r : Region), s.cur = some f → regionOf s f.pos = some r →
    let a := lowWord (sideA s f o.sa)
    let cfg := a.toNat % 4
    (r.image.configs.length ≤ cfg → Completes (.switch o) s (Claims.Raises s f codeEtrap a)) ∧
    (cfg < r.image.configs.length → r.switch = none → Completes (.switch o) s (Claims.Posts s f (controlPoint r.homeClu)
      (.switch r.id cfg (lowWord (sideB s f o.sb)) a f.pos f.entry f.tag))) ∧
    (cfg < r.image.configs.length → r.switch ≠ none → Completes (.switch o) s fun t =>
      regionAt t r.id = some { r with
        switchWait := r.switchWait ++ [⟨f.pos, f.entry, f.tag, cfg, lowWord (sideB s f o.sb), a, s.fc⟩] } ∧
      (∀ k, k ≠ r.id → regionAt t k = regionAt s k) ∧
      elemAt t f.pos = { elemAt s f.pos with lastFire := some s.fc } ∧ (∀ p, p ≠ f.pos → elemAt t p = elemAt s p) ∧
      t.chip.net = s.chip.net ∧ SameMemory s t ∧ SameRest s t ∧ t.cur = none)

/-! ## Handles and engines (spec/08, spec/10) -/

/-- R185, R206 to R209: HALLOC, HFREE, HMAP and HFMT change one entry of the region's table: HALLOC gives it the declaration's
shape and the storage found, HFREE clears VAL, HMAP maps virtual memory, HFMT writes the field of its role; each holds status 0
until every copy has the change, and a copy reads as before until the change reaches it. -/
def Obligations.HandleChanges : Prop :=
  ∀ (o : Ops2) (x : Xh) (s : State) (f : Firing) (r : Region) (d : HandleDecl), s.cur = some f → regionOf s f.pos = some r →
    let h := x.h1.toNat
    let a := lowWord (sideA s f o.sa)
    let b := lowWord (sideB s f o.sb)
    let old := handleHome r h
    let role := x.f.toNat % 8
    (∀ (at' n : Nat) (w1 : Word), declOf r h = some d → d.level ≠ .hbm → old.valid = false →
      let size := if a.toNat % 2 ^ 32 = 0 then declSize d else a.toNat % 2 ^ 32
      size ≤ (if d.level = .spad then 262144 else handlePartition s f.pos) → placeStorage s f.pos d size = some (at', n, w1) →
      let home := if d.level = .spad then unitOf f.pos else cluOf f.pos
      let cost := if x.f.getLsbD 0 then (if d.level = .spad then 64 else n / 64) else 0
      Completes (.halloc o x) s fun t =>
        Claims.ChangesEntry s f 0xA0 o r h
          ⟨handleW0 true (levelNum d.level) (kindNum d.kind) (encodeFmt d.fmt).toNat true false r.part home d.rows d.cols, w1,
            nat64 n, declW3 d⟩ cost t ∧
        (x.f.getLsbD 0 = false → SameMemory s t) ∧
        (x.f.getLsbD 0 = true → MemoryOk s → (∀ c, t.hbm.read c = s.hbm.read c) ∧
          (∀ c, c < at' ∨ at' + n ≤ c ∨ d.level ≠ .spad → t.spad.read c = s.spad.read c) ∧
          (∀ c, c < at' ∨ at' + n ≤ c ∨ d.level = .spad → t.sram.read c = s.sram.read c) ∧
          ∀ c, at' ≤ c → c < at' + n → (if d.level = .spad then t.spad.read c else t.sram.read c) = 0)) ∧
    (engUses s r h = false → declOf r h = some d → d.dyn = true → old.valid = true →
      Completes (.hfree o x) s fun t =>
        Claims.ChangesEntry s f 0xA1 o r h { old with w0 := old.w0 &&& 0x7FFFFFFFFFFFFFFF } 0 t ∧ SameMemory s t) ∧
    (declOf r h = some d → old.valid = false → a.toNat < 2 ^ 57 → 0 < b.toNat → b.toNat < 2 ^ 48 → a.toNat + b.toNat ≤ 2 ^ 57 →
      Completes (.hmap o x) s fun t =>
        Claims.ChangesEntry s f 0xA2 o r h ⟨handleW0 true 2 (kindNum d.kind) (encodeFmt d.fmt).toNat true false r.part
          ⟨0, 0, 0, 0⟩ d.rows d.cols, a, b, declW3 d⟩ 0 t ∧ SameMemory s t) ∧
    (engUses s r h = false → old.valid = true → (roleKinds role).contains old.kind = true →
      (role ≤ 3 → (handleHome r x.h2.toNat).valid = true ∧ (handleHome r x.h2.toNat).part = old.part) →
      (role = 4 → a.toNat < 32) → (role = 5 → a.toNat < 16 ∧ (decodeFmt? (a.extractLsb' 0 4)).isSome) →
      Completes (.hfmt o x) s fun t =>
        Claims.ChangesEntry s f 0xA3 o r h (withRole role x.h2.toNat a old) 0 t ∧ SameMemory s t)

/-- R205 to R209: where a handle instruction is refused it sends its status, changes no entry and no memory: HFMT 0x03, then 0x06, then
0x04, as R209 orders them; the order of HALLOC's statuses, of HMAP's 2 before 4 and of HFREE's 5 before 3 is the model's choice (log
entry 25). HFREE and HFMT wait while an engine operation names the handle. -/
def Sys2Proof.Claims.HandleRefusals : Prop :=
  ∀ (o : Ops2) (x : Xh) (s : State) (f : Firing) (r : Region) (d : HandleDecl), s.cur = some f → regionOf s f.pos = some r →
    let h := x.h1.toNat
    let a := lowWord (sideA s f o.sa)
    let b := lowWord (sideB s f o.sb)
    let old := handleHome r h
    let status := fun (i : Instr) (op st : Nat) =>
      Computes i s f op o.ta (sideB s f o.sb) none (bothOuts o.d0 o.d1 (ofWord (nat64 (st + 256 * h))) false) 0
    let asked := if a.toNat % 2 ^ 32 = 0 then declSize d else a.toNat % 2 ^ 32
    let most := if d.level = .spad then 262144 else handlePartition s f.pos
    (declOf r h = some d → old.valid = true → status (.halloc o x) 0xA0 2 ∧ status (.hmap o x) 0xA2 2) ∧
    (declOf r h = some d → old.valid = false → most < asked → status (.halloc o x) 0xA0 4) ∧
    (declOf r h = some d → old.valid = false → asked ≤ most → placeStorage s f.pos d asked = none →
      status (.halloc o x) 0xA0 1) ∧
    (declOf r h = some d → old.valid = false → 2 ^ 57 ≤ a.toNat ∨ 2 ^ 48 ≤ b.toNat ∨ b = 0 ∨ 2 ^ 57 < a.toNat + b.toNat →
      status (.hmap o x) 0xA2 4) ∧
    (declOf r h = none → ∀ i ∈ [Instr.halloc o x, .hmap o x], Completes i s (Claims.Raises s f codeEhandle 0)) ∧
    (engUses s r h = false → declOf r h = some d → d.dyn = false → status (.hfree o x) 0xA1 5) ∧
    (engUses s r h = false → declOf r h = some d → d.dyn = true → old.valid = false → status (.hfree o x) 0xA1 3) ∧
    (engUses s r h = false → old.valid = false → status (.hfmt o x) 0xA3 3) ∧
    (let role := x.f.toNat % 8
     let sub := handleHome r x.h2.toNat
     let refused := (role ≤ 3 ∧ (sub.valid = false ∨ sub.part ≠ old.part)) ∨ (role ≤ 1 ∧ old.kind ≠ 2) ∨
       (role = 2 ∧ (old.kind < 2 ∨ 4 < old.kind)) ∨ (role = 3 ∧ old.kind ≠ 3) ∨ (role = 4 ∧ old.kind ≠ 4) ∨ (role = 5 ∧ 4 < old.kind)
     let badArgument := (role = 4 ∧ 32 ≤ a.toNat) ∨ (role = 5 ∧ (16 ≤ a.toNat ∨ decodeFmt? (a.extractLsb' 0 4) = none))
     engUses s r h = false → old.valid = true → role ≤ 5 →
       (refused → status (.hfmt o x) 0xA3 6) ∧ (¬refused → badArgument → status (.hfmt o x) 0xA3 4)) ∧
    (engUses s r h = true → ∀ i ∈ [Instr.hfree o x, .hfmt o x], Completes i s (Claims.HeldBack s f))

/-- R210: HDESC gives the word of the handle's entry, in the copy of its own tile, that FUNC names. -/
def Sys2Proof.Claims.HandleWords : Prop :=
  ∀ (o : Ops2) (x : Xh) (s : State) (f : Firing) (r : Region), s.cur = some f → regionOf s f.pos = some r →
    let e := handleAt r f.pos x.h1.toNat
    let k := x.f.toNat % 4
    let w := if k = 0 then e.w0 else if k = 1 then e.w1 else if k = 2 then e.w2 else e.w3
    Computes (.hdesc o x) s f 0xA4 o.ta (sideB s f o.sb) none (bothOuts o.d0 o.d1 (ofWord w) false) 0

/-- R201, R211 to R213: RPUSH, COPY and STRMI begin an engine operation with their operands; a COPY of no byte and a STRMI with
no block left complete at once; a STRMI starts at its release mark only in the replay after a rollback (the model's reading, log entry
35), and one whose replay window is no ring of its tile raises EHANDLE; no memory and no other element changes. -/
def Sys2Proof.Claims.EnginesBegin : Prop :=
  ∀ (o : Ops2) (x : Xh) (s : State) (f : Firing) (r : Region), s.cur = some f → regionOf s f.pos = some r →
    let a := lowWord (sideA s f o.sa)
    let b := lowWord (sideB s f o.sb)
    let no := x.f.toNat / 2 ^ 13 % 8
    let old := streamAt s f.pos no
    let m := if (old.map (·.replay)).getD false then (old.map (·.mark)).getD 0 else 0
    (engFull s f.pos = false → Completes (.rpush o x) s fun t =>
      Claims.Begins s f t (fun e => e.kind = .rpush ∧ e.h1 = x.h1.toNat ∧ e.d0 = dstNat o.d0 ∧ e.d1 = dstNat o.d1) ∧
      (∃ p, t.chip.pushes = s.chip.pushes ++ [p] ∧ p.tile = unitOf f.pos ∧ p.q = x.f.toNat % 16 ∧ p.data = [sideA s f o.sa] ∧
        p.side = b.extractLsb' 0 40 ∧ s.fc < p.due) ∧
      { t.chip with elems := s.chip.elems, qs := s.chip.qs, pushes := s.chip.pushes } = s.chip) ∧
    (engFull s f.pos = false → a.toNat / 2 ^ 40 ≠ 0 → Completes (.copy o x) s fun t =>
      Claims.Begins s f t fun e => e.kind = .copy ∧ e.h1 = x.h1.toNat ∧ e.h2 = x.h2.toNat ∧ e.a = a.toNat % 2 ^ 40 ∧
        e.b = b.toNat % 2 ^ 40 ∧ e.n = a.toNat / 2 ^ 40 ∧ e.sent = 0 ∧ e.d0 = dstNat o.d0 ∧ e.d1 = dstNat o.d1 ∧
        e.ss = if x.f.getLsbD 15 then some r.ssn.toNat else none) ∧
    (engFull s f.pos = false → a.toNat / 2 ^ 40 = 0 → Completes (.copy o x) s fun t =>
      qAt t f.pos = qAt s f.pos ∧ SameMemory s t ∧ t.cur = none ∧
      ∃ y, (elemAt t f.pos).pipe = (elemAt s f.pos).pipe ++ [y] ∧ y.outs = bothOuts o.d0 o.d1 0 false ∧ y.due = some s.fc) ∧
    (engFull s f.pos = false → streamEng s f.pos no = none → Claims.Windowed s f.pos x.h2.toNat → m < b.toNat % 2 ^ 32 →
      Completes (.strmi o x) s fun t =>
      Claims.Begins s f t (fun e => e.kind = .strmi ∧ e.stream = no ∧ e.h1 = x.h1.toNat ∧ e.h2 = x.h2.toNat ∧
        e.a = a.toNat % 2 ^ 48 ∧ e.n = b.toNat % 2 ^ 32 ∧ e.sent = m ∧ e.win = x.f.toNat / 2 ^ 7 % 64 + 1 ∧
        e.d0 = dstNat o.d0 ∧ e.d1 = dstNat o.d1) ∧
      ∃ z, streamAt t f.pos no = some z ∧ z.open' = true ∧ z.input = true ∧ z.cursor = m ∧ z.mark = m) ∧
    (engFull s f.pos = false → streamEng s f.pos no = none → Claims.Windowed s f.pos x.h2.toNat → b.toNat % 2 ^ 32 ≤ m →
      Completes (.strmi o x) s fun t =>
      (qAt t f.pos).engs = (qAt s f.pos).engs ∧ SameMemory s t ∧ t.cur = none ∧
      ∃ y, (elemAt t f.pos).pipe = (elemAt s f.pos).pipe ++ [y] ∧ y.outs = outOf (dstNat o.d1) 0 false false) ∧
    (engFull s f.pos = false → streamEng s f.pos no = none → ¬ Claims.Windowed s f.pos x.h2.toNat →
      Completes (.strmi o x) s (Claims.Raises s f codeEhandle 0)) ∧
    (engFull s f.pos = true → ∀ i ∈ [Instr.rpush o x, .strmi o x], Completes i s (Claims.HeldBack s f)) ∧
    (engFull s f.pos = true → Completes (.copy o x) s (Claims.HeldBack s f))

/-- R185, R215: STRMO with OPEN opens an output stream of N blocks and sends 0 to D0, with N 0 at once 0 to D1 also; it is held back while
the engines are full or the stream is open. Without OPEN it takes side A as the stream's next block, and raises EHANDLE when the stream is
not open for output to that handle. Blocks are written in cursor order: the first that waits is written when none is on its way, and
waits while one is (one write of a stream on its way at a time is the model's choice, log entry 90). -/
def Sys2Proof.Claims.OutputStreams : Prop :=
  ∀ (o : Ops2) (x : Xh) (s : State) (f : Firing) (r : Region), s.cur = some f → regionOf s f.pos = some r →
    let n := (lowWord (sideB s f o.sb)).toNat % 2 ^ 32
    let no := x.f.toNat / 2 ^ 13 % 8
    let fresh := ∀ z, streamAt s f.pos no = some z → z.replay = false
    (x.f.getLsbD 12 = true → engFull s f.pos = false → streamEng s f.pos no = none → fresh → 0 < n →
      Completes (.strmo o x) s fun t =>
        (∃ e, (qAt t f.pos).engs = (qAt s f.pos).engs ++ [e] ∧ e.kind = .strmo ∧ e.stream = no ∧ e.h1 = x.h1.toNat ∧
          e.a = (lowWord (sideA s f o.sa)).toNat % 2 ^ 48 ∧ e.n = n ∧ e.next = 0 ∧ e.sent = 0 ∧ e.tag = f.tag) ∧
        (∃ y, (elemAt t f.pos).pipe = (elemAt s f.pos).pipe ++ [y] ∧ y.outs = outOf (dstNat o.d0) 0 false false) ∧
        (∀ p, p ≠ f.pos → qAt t p = qAt s p ∧ elemAt t p = elemAt s p) ∧ SameMemory s t ∧ SameRest s t ∧ t.cur = none ∧
        ∃ z, streamAt t f.pos no = some z ∧ z.open' = true ∧ z.input = false ∧ z.n = n ∧ z.cursor = 0) ∧
    (x.f.getLsbD 12 = true → engFull s f.pos = false → streamEng s f.pos no = none → n = 0 →
      Computes (.strmo o x) s f 0xA8 o.ta 0 none (outOf (dstNat o.d0) 0 false false ++ outOf (dstNat o.d1) 0 false false) 0) ∧
    (x.f.getLsbD 12 = true → engFull s f.pos = true ∨ (streamEng s f.pos no).isSome = true →
      Completes (.strmo o x) s (Claims.HeldBack s f)) ∧
    (x.f.getLsbD 12 = false → (∀ e, streamEng s f.pos no = some e → e.kind ≠ .strmo ∨ e.h1 ≠ x.h1.toNat ∨ e.n ≤ e.next) →
      Completes (.strmo o x) s (Claims.Raises s f codeEhandle 0)) ∧
    ∀ e, x.f.getLsbD 12 = false → streamEng s f.pos no = some e → e.kind = .strmo → e.h1 = x.h1.toNat → e.next < e.n →
      engAt s f.pos e.id = some e → e.win ≠ 0 →
      ∀ b rest, e.got ++ [(e.next, sideA s f o.sa)] = b :: rest →
      Completes (.strmo o x) s fun t =>
        (e.open' = [] → engLanes (handleAt r f.pos e.h1) (e.writeOff b.1) (e.unitLen (e.unitNo b.1)) ≠ [] →
          ∃ q, t.chip.reqs = s.chip.reqs ++ [q] ∧ q.op = .engWrite ∧ q.h = e.h1 ∧ q.b = b.2 ∧ q.n = 1 ∧
          ∀ l, l ∈ q.parts.flatMap (·.lanes) ↔
            l ∈ engLanes (handleAt r f.pos e.h1) (e.writeOff b.1) (e.unitLen (e.unitNo b.1))) ∧
        (e.open' ≠ [] → t.chip.reqs = s.chip.reqs) ∧
        (∃ e', engAt t f.pos e.id = some e' ∧ e'.next = e.next + 1 ∧ e'.sent = e.next + 1 ∧
          e'.got = if e.open' = [] then rest else b :: rest) ∧
        (∀ z, streamAt s f.pos no = some z → ∃ z', streamAt t f.pos no = some z' ∧ z'.cursor = e.next + 1 ∧
          z'.open' = decide (e.next + 1 ≠ e.n)) ∧
        SameMemory s t ∧ t.cur = none

/-- R216, R372: RELM sends the number of blocks an open input stream has sent, makes it the stream's release mark, and clears the
region's NR. -/
def Sys2Proof.Claims.ReleaseMarks : Prop :=
  ∀ (o : Ops2) (x : Xh) (s : State) (f : Firing) (r : Region) (e : EngOp) (z : Stream), s.cur = some f →
    regionOf s f.pos = some r → streamEng s f.pos (x.f.toNat / 2 ^ 13 % 8) = some e → e.kind = .strmi →
    streamAt s f.pos (x.f.toNat / 2 ^ 13 % 8) = some z →
    Completes (.relm o x) s fun t =>
      (∃ y, (elemAt t f.pos).pipe = (elemAt s f.pos).pipe ++ [y] ∧
        y.outs = bothOuts o.d0 o.d1 (ofWord (nat64 e.sent)) false ∧ y.op = 0xA9) ∧
      (∃ z', streamAt t f.pos (x.f.toNat / 2 ^ 13 % 8) = some z' ∧ z'.mark = e.sent ∧ z'.cursor = z.cursor) ∧
      (∃ r', regionAt t r.id = some r' ∧ r'.nr = false ∧ { r' with nr := r.nr, rollbacks := r.rollbacks, windowHits := r.windowHits } = r) ∧
      (∀ p, p ≠ f.pos → elemAt t p = elemAt s p) ∧ SameMemory s t ∧ SameRest s t ∧ t.cur = none

/-- R255: MRG puts its token at the end of its side's queue of the merge unit, and changes nothing else; a unit that had no token
waits from now (the model's field since). -/
def Sys2Proof.Claims.MergeRecords : Prop :=
  ∀ (o : Ops2) (x : Xh) (s : State) (f : Firing), s.cur = some f →
    let g := (qAt s f.pos).merge
    let since := if g.qa = [] ∧ g.qb = [] then max g.since s.fc else g.since
    Completes (.mrg o x) s fun t =>
      (f.side = 0 → qAt t f.pos = { qAt s f.pos with merge := { g with qa := g.qa ++ [(f.a, f.tag)], since := since } }) ∧
      (f.side ≠ 0 → qAt t f.pos = { qAt s f.pos with merge := { g with qb := g.qb ++ [(f.b, f.tag)], since := since } }) ∧
      (∀ p, p ≠ f.pos → qAt t p = qAt s p ∧ elemAt t p = elemAt s p) ∧
      elemAt t f.pos = { elemAt s f.pos with lastFire := some s.fc } ∧
      { t.chip with elems := s.chip.elems, qs := s.chip.qs } = s.chip ∧ SameMemory s t ∧ SameRest s t ∧ t.cur = none

/-! ## Matrix elements, access processors, the mill, launches, kiln (spec/09, spec/10, spec/13, spec/15) -/

/-- R219, R240: each instruction of the matrix sequencer enters the queue with its sides while the queue holds fewer than 4 and
is held back while it holds 4; MSTAT reads the word that A[2:0] selects and does not enter the queue: word 0 is the state of the
sequencer, words 1 to 5 its counters, words 6 and 7 are 0. -/
def Obligations.MatrixQueue : Prop :=
  ∀ (o : Ops2) (x : Xx) (y : Xh) (s : State) (f : Firing), s.cur = some f →
    let q := matAt s f.pos
    let entry := fun (op : Nat) (x : Xx) (h1 : Nat) (inv : Bool) => (⟨op, f.entry, f.tag, lowWord (sideA s f o.sa),
      lowWord (sideB s f o.sb), dstNat o.d0, dstNat o.d1, x, h1, inv, 0, false, false⟩ : MatOp)
    (∀ z ∈ [(Instr.mldb o x, entry 0xB8 x 0 false), (.mma o x, entry 0xB9 x 0 false), (.mmas o x, entry 0xBA x 0 false),
        (.mmap o x, entry 0xBB x 0 false), (.mzero o x, entry 0xBC x 0 false), (.mout o x, entry 0xBD x 0 false),
        (.madj o y, entry 0xBE ⟨0, 0, .fp32, .fp32, 0, false, false, false, false, false⟩ y.h1.toNat (y.f.getLsbD 0))],
      (q.queue.length < 4 → Completes z.1 s fun t =>
        matAt t f.pos = { q with queue := q.queue ++ [z.2] } ∧ (∀ p, p ≠ f.pos → matAt t p = matAt s p ∧ elemAt t p = elemAt s p) ∧
        elemAt t f.pos = { elemAt s f.pos with lastFire := some s.fc } ∧
        { t.chip with elems := s.chip.elems, mats := s.chip.mats } = s.chip ∧ SameMemory s t ∧ SameRest s t ∧ t.cur = none) ∧
      (4 ≤ q.queue.length → Completes z.1 s (Claims.HeldBack s f))) ∧
    ∃ w : Word, Computes (.mstat o x) s f 0xBF o.ta 0 none (bothOuts o.d0 o.d1 (ofWord w) false) 0 ∧
      let k := (lowWord (sideA s f o.sa)).toNat % 8
      (k = 0 → field w 63 32 = 0 ∧ field w 7 5 = q.queue.length % 8 ∧ w.getLsbD 4 = q.rv ∧ w.getLsbD 3 = q.rnm ∧
        w.getLsbD 2 = q.ctx.isSome ∧ field w 1 0 = 0 ∧ (q.run = none → field w 31 8 = 0) ∧
        ∀ z l r, q.queue = z :: l → q.run = some r → z.op < 256 →
          field w 31 24 = z.op ∧ field w 23 16 = r.chunk % 256 ∧ field w 15 8 = r.chunkDefers % 256) ∧
      (∀ c, [q.commits, q.abandons, q.replays, q.hits, q.misses][k - 1]? = some c → 1 ≤ k → w = c.zeroExtend 64) ∧ (6 ≤ k → w = 0)

/-- R251, R252: CLOAD adds a coordinate and its payload unless the coordinate is there (DUP) or the CAM is full (OVF), and sends
the number of entries; CCLR empties the CAM and sends the status it had; nothing else changes. -/
def Sys2Proof.Claims.CamChanges : Prop :=
  ∀ (o : Ops2) (x : Xs) (s : State) (f : Firing), s.cur = some f →
    let w := lowWord (sideA s f o.sa)
    let a := apAt s f.pos
    let here := ∃ e ∈ a.cam, e.coord = w.extractLsb' 0 32
    let loaded := fun (b : ApState) => Completes (.cload o x) s (Leaves { s with chip := { s.chip with
      aps := setKey (unitOf f.pos) b s.chip.aps } } f
        ⟨0xC0, o.ta, sideB s f o.sb, some 2, bothOuts o.d0 o.d1 (ofWord (nat64 b.cam.length)) false, 0, .none, false⟩ fun _ => [])
    (here → loaded { a with dup := true }) ∧
    (¬here → 1024 ≤ a.cam.length → loaded { a with ovf := true }) ∧
    (¬here → a.cam.length < 1024 → loaded { a with cam := a.cam ++ [⟨w.extractLsb' 0 32, w.extractLsb' 32 32, false⟩] }) ∧
    Completes (.cclr o x) s (Leaves { s with chip := { s.chip with
      aps := setKey (unitOf f.pos) { a with cam := [], dup := false, ovf := false } s.chip.aps } } f
        ⟨0xC3, o.ta, sideB s f o.sb, none, bothOuts o.d0 o.d1 (ofWord (camStatus a)) false, 0, .none, false⟩ fun _ => [])

/-- R252: CPROBE marks the entry of its coordinate and sends its payload with A's high half to D0; a miss sends A to D1 with PASS,
else nothing. CFLUSH sends each entry that was not hit to D0 and the status word to D1, and changes nothing; it goes over 64 entries in each
fc, and its time of 1 fc more than they take is the model's choice (log 36). -/
def Sys2Proof.Claims.CamReads : Prop :=
  ∀ (o : Ops2) (x : Xs) (s : State) (f : Firing), s.cur = some f →
    let w := lowWord (sideA s f o.sa)
    let c := w.extractLsb' 0 32
    let a := apAt s f.pos
    let marked := { a with cam := a.cam.map fun e => if e.coord = c then { e with hit := true } else e }
    let probe := fun (outs : List Out) => Completes (.cprobe o x) s (Leaves { s with chip := { s.chip with
      aps := setKey (unitOf f.pos) marked s.chip.aps } } f ⟨0xC1, o.ta, sideB s f o.sb, some 2, outs, 0, .none, false⟩ fun _ => [])
    (∀ e, a.cam.find? (fun z => z.coord = c) = some e →
      probe (outOf (dstNat o.d0) (ofWord (e.pay ++ w.extractLsb' 32 32)) false false)) ∧
    ((∀ e ∈ a.cam, e.coord ≠ c) →
      probe (if x.mode.getLsbD 0 then outOf (dstNat o.d1) (ofWord w) false false else [])) ∧
    Computes (.cflush o x) s f 0xC2 o.ta (sideB s f o.sb) (some (1 + a.cam.length / 64))
      ((a.cam.filter fun e => !e.hit).flatMap (fun e => outOf (dstNat o.d0) (ofWord (e.pay ++ e.coord)) false false) ++
        outOf (dstNat o.d1) (ofWord (camStatus a)) false false) 0

/-- R244, R246, R248: CSRW begins a walk at the row that side A names, with the read of its two pointers; one of a row that is not there
sends 0 to D1; while the queue of 256 is full, or another CSRW of the access processor walks its row (R421 by inference, log 115), it is held back; a handle that is no csr handle with its three dense parts, or that cannot
be packed as asked, raises EHANDLE. -/
def Sys2Proof.Claims.RowWalks : Prop :=
  ∀ (o : Ops2) (x : Xs) (s : State) (f : Firing) (r : Region), s.cur = some f → regionOf s f.pos = some r →
    let e := copyOf s f.pos x.h.toNat
    let row := (lowWord (sideA s f o.sa)).toNat % 2 ^ 32
    let good := e.valid = true ∧ e.kind = 2 ∧ (denseEntry s f.pos e.ptr).isSome ∧ (denseEntry s f.pos e.idx).isSome ∧
      ∃ v, denseEntry s f.pos e.vals = some v ∧ (x.mode.getLsbD 1 = true → elemBits v.format < 32)
    let idle := ∀ w ∈ s.chip.walks, w.p = f.pos → w.code ≠ 0xC7
    (¬ idle → Completes (.csrw o x) s (Claims.HeldBack s f)) ∧
    (idle → good → row < e.rows → Claims.roomy s f → Completes (.csrw o x) s fun t =>
      Claims.WalksFrom s f t 0xC7 o x e.ptr [(0, 4 * row), (1, 4 * row + 4)] fun w =>
        w.row = row ∧ w.q = x.mode.toNat / 16 % 16 ∧ w.tile = (walkTile s f.pos x.uc.toNat).getD (unitOf f.pos)) ∧
    (idle → good → row < e.rows → ¬ Claims.roomy s f → Completes (.csrw o x) s (Claims.HeldBack s f)) ∧
    (idle → good → e.rows ≤ row → Computes (.csrw o x) s f 0xC7 o.ta (sideB s f o.sb) none (outOf (dstNat o.d1) 0 false false) 0) ∧
    (idle → ¬ good → Completes (.csrw o x) s (Claims.Raises s f codeEhandle 0))

/-- R244, R246, R250: NMX begins a walk at the chunk of the row that side A names, with the read of its values; a chunk that is not there
raises EMETA, a handle that is no nm handle of 8 or 16 bits with its dense parts, or a tile that is not there, EHANDLE. -/
def Sys2Proof.Claims.ChunkWalks : Prop :=
  ∀ (o : Ops2) (x : Xs) (s : State) (f : Firing) (r : Region), s.cur = some f → regionOf s f.pos = some r →
    let e := copyOf s f.pos x.h.toNat
    let a := lowWord (sideA s f o.sa)
    let row := a.toNat % 2 ^ 32
    let col := a.toNat / 2 ^ 32
    let bits := fun (v : HandleEntry) => elemBits v.format = 8 ∨ elemBits v.format = 16
    (∀ v tile, e.valid = true → e.kind = 3 → denseEntry s f.pos e.vals = some v → (denseEntry s f.pos e.metaH).isSome →
      walkTile s f.pos x.uc.toNat = some tile → bits v →
      let kc := nmChunks e.cols (packCount (elemBits v.format))
      (row < e.rows → col < kc → Claims.roomy s f → Completes (.nmx o x) s fun t =>
        Claims.WalksFrom s f t 0xC8 o x e.vals (byteLanes ((row * kc + col) * 48) 48) fun w =>
          w.row = row ∧ w.chunk = col ∧ w.tile = tile ∧ w.q = x.mode.toNat % 16) ∧
      (row < e.rows → col < kc → ¬ Claims.roomy s f → Completes (.nmx o x) s (Claims.HeldBack s f)) ∧
      (e.rows ≤ row ∨ kc ≤ col → Completes (.nmx o x) s (Claims.Raises s f codeEmeta 0))) ∧
    (e.valid = false ∨ e.kind ≠ 3 ∨ denseEntry s f.pos e.metaH = none ∨ walkTile s f.pos x.uc.toNat = none ∨
        (∀ v, denseEntry s f.pos e.vals = some v → ¬ bits v) → Completes (.nmx o x) s (Claims.Raises s f codeEhandle 0))

/-- R244, R246, R249: GATHB begins a walk at the row that side A names, with the read of its bytes; 0xFFFFFFFF is a row of zeros, which asks
memory for nothing; a row that is not there raises EMETA, a handle that is no dense one of 64 columns of 4, 8 or 16 bits, or a tile that
is not there, EHANDLE. -/
def Sys2Proof.Claims.GatherWalks : Prop :=
  ∀ (o : Ops2) (x : Xs) (s : State) (f : Firing) (r : Region), s.cur = some f → regionOf s f.pos = some r →
    let row := (lowWord (sideA s f o.sa)).toNat % 2 ^ 32
    let fit := fun (e : HandleEntry) => e.cols = 64 ∧ (elemBits e.format = 4 ∨ elemBits e.format = 8 ∨ elemBits e.format = 16)
    (∀ e tile, denseEntry s f.pos x.h.toNat = some e → walkTile s f.pos x.uc.toNat = some tile → fit e →
      let b := elemBits e.format
      (row ≠ 0xFFFFFFFF → row < e.rows → Claims.roomy s f → Completes (.gathb o x) s fun t =>
        Claims.WalksFrom s f t 0xC9 o x x.h.toNat (byteLanes (8 * b * row) (min 64 (8 * b))) fun w =>
          w.row = row ∧ w.tile = tile ∧ w.q = x.mode.toNat % 16) ∧
      (row ≠ 0xFFFFFFFF → row < e.rows → ¬ Claims.roomy s f → Completes (.gathb o x) s (Claims.HeldBack s f)) ∧
      (row ≠ 0xFFFFFFFF → e.rows ≤ row → Completes (.gathb o x) s (Claims.Raises s f codeEmeta 0)) ∧
      (row = 0xFFFFFFFF → Completes (.gathb o x) s fun t =>
        (∃ y ∈ (elemAt t f.pos).pipe, y.op = 0xC9 ∧ y.entry = f.entry ∧ y.tag = f.tag) ∧
        (elemAt t f.pos).pipe.length = (elemAt s f.pos).pipe.length + 1 ∧ (∀ p, p ≠ f.pos → elemAt t p = elemAt s p) ∧
        t.chip.reqs = s.chip.reqs ∧ t.frames = s.frames ∧ SameMemory s t ∧ t.cur = none)) ∧
    (walkTile s f.pos x.uc.toNat = none ∨ (∀ e, denseEntry s f.pos x.h.toNat = some e → ¬ fit e) →
      Completes (.gathb o x) s (Claims.Raises s f codeEhandle 0))

/-- R267, R268: PRUN, PRUNT and PCNT send their request to the cluster's mill with the claimed context they name, and wait; PRUN
with BIND asks for the binding of A, whose tile and ring exist. A context that is not claimed, and a binding to a tile or ring that does
not exist, raise EHANDLE. -/
def Sys2Proof.Claims.MillRequests : Prop :=
  ∀ (o : Ops2) (x : Xs) (s : State) (f : Firing) (r : Region), s.cur = some f → regionOf s f.pos = some r →
    let a := lowWord (sideA s f o.sa)
    let ring := (walkTile s f.pos (a.toNat % 32)).bind fun t => ringAt s t (a.toNat / 256 % 16)
    let ask := fun (c : Nat) (kind : MillKind) (k : Nat) =>
      Body.mill ⟨kind, c, x.h.toNat, a.toNat % 2 ^ 32, f.pos, f.entry, f.tag, f.tag, k⟩
    (∀ c, millContext r f.pos x.uc.toNat = some c →
      (x.mode.getLsbD 15 = false →
        Claims.Asks (.prun o x) s f 0xC4 o.ta (sideB s f o.sb) [] (ask c (.row (x.mode.getLsbD 0)))) ∧
      (x.mode.getLsbD 15 = true → ring.isSome → Claims.Asks (.prun o x) s f 0xC4 o.ta (sideB s f o.sb) []
          (ask c (.bind (a.toNat % 32) (a.toNat / 256 % 16) (a.toNat / 2 ^ 32)))) ∧
      Claims.Asks (.prunt o x) s f 0xC5 o.ta (sideB s f o.sb) [] (ask c (.col (x.mode.getLsbD 0))) ∧
      Claims.Asks (.pcnt o x) s f 0xC6 o.ta (sideB s f o.sb) [] (ask c (.count (x.mode.getLsbD 0)))) ∧
    (millContext r f.pos x.uc.toNat = none →
      ∀ i ∈ [Instr.prun o x, .prunt o x, .pcnt o x], Completes i s (Claims.Raises s f codeEhandle 0)) ∧
    (x.mode.getLsbD 15 = true → ring = none → Completes (.prun o x) s (Claims.Raises s f codeEhandle 0))

/-- R338: LAUNCH puts the packet at A in its handle into its element's launch output of 4, from which launches move on, and waits for the
acceptance; a packet that is not aligned or not within the handle raises EPROT, and a full output holds the firing back. -/
def Sys2Proof.Claims.Launches : Prop :=
  ∀ (o : Ops2) (x : Xh) (s : State) (f : Firing) (r : Region), s.cur = some f → regionOf s f.pos = some r →
    let e := handleAt r f.pos x.h1.toNat
    let off := (lowWord (sideA s f o.sa)).toNat
    let fits := off % 64 = 0 ∧ off < e.ext
    (e.valid = true → fits → (qAt s f.pos).launches.length < 4 → Completes (.launch o x) s fun t => ∃ (u : State) (y : PipeOp) (l : LaunchReq),
      t = after drainLaunches u ∧
      OpOf s f ⟨0xAB, o.ta, sideB s f o.sb, some 0, outOf (dstNat o.d0) 0 false false, 0, .reply, false⟩ y ∧
      (elemAt u f.pos).pipe.map Claims.unreleased =
        (elemAt s f.pos).pipe.map Claims.unreleased ++ [Claims.unreleased y] ∧
      qAt u f.pos = { qAt s f.pos with launches := (qAt s f.pos).launches ++ [l] } ∧
      l.part = r.part ∧ l.va = e.va + off ∧ l.entry = f.entry ∧ l.tag = f.tag ∧ l.priv = r.priv ∧ l.r = r.id ∧ l.p = f.pos ∧ l.op = y.id ∧
      (∀ p, p ≠ f.pos → qAt u p = qAt s p ∧ elemAt u p = elemAt s p) ∧ SameMemory s u ∧ SameRest s u ∧ u.cur = none) ∧
    (e.valid = true → ¬fits → Completes (.launch o x) s (Claims.Raises s f codeEprot 0)) ∧
    (e.valid = false → Completes (.launch o x) s (Claims.Raises s f codeEhandle 0)) ∧
    (e.valid = true → fits → 4 ≤ (qAt s f.pos).launches.length → Completes (.launch o x) s (Claims.HeldBack s f))

/-- R339: CONDW sends a store of A, 8 bytes, at element B[31:8] of the run's graph handle B[7:0], and holds A until it has been
performed; a handle the run does not have raises EHANDLE, an element beyond it EPROT. While the pool of requests is full it is held back,
which is the model's reading (log 56). -/
def Sys2Proof.Claims.ConditionWrites : Prop :=
  ∀ (o : Ops2) (s : State) (f : Firing) (r : Region) (run : Run), s.cur = some f → regionOf s f.pos = some r →
    runAt s r.run = some run →
    let b := (lowWord (sideB s f o.sb)).toNat
    let found := run.handles.find? fun y => y.1 = b % 256
    let off := 8 * (b / 256 % 2 ^ 24)
    (∀ h, found = some h → off + 8 ≤ h.2.2 → Claims.roomy s f → Completes (.condw o) s fun t => ∃ (y : PipeOp) (q : MemReq),
      OpOf s f ⟨0x0F, o.ta, sideB s f o.sb, none, bothOuts o.d0 o.d1 (sideA s f o.sa) false, 0, .reply, false⟩ y ∧
      elemAt t f.pos = { elemAt s f.pos with pipe := (elemAt s f.pos).pipe ++ [y], lastFire := some s.fc } ∧
      t.chip.reqs = s.chip.reqs ++ [q] ∧ q.op = .store ∧ q.client = .condw f.pos y.id ∧ q.h = b % 256 ∧ q.n = 8 ∧
      q.b = sideA s f o.sa ∧ q.scope = .package ∧ (∀ l, l ∈ q.parts.flatMap (·.lanes) ↔ l = (0, off)) ∧
      (∀ p, p ≠ f.pos → elemAt t p = elemAt s p) ∧ t.frames = s.frames ∧ SameMemory s t ∧ t.cur = none) ∧
    (found = none → Completes (.condw o) s (Claims.Raises s f codeEhandle 0)) ∧
    (∀ h, found = some h → h.2.2 < off + 8 → Completes (.condw o) s (Claims.Raises s f codeEprot 0)) ∧
    (∀ h, found = some h → off + 8 ≤ h.2.2 → ¬Claims.roomy s f → Completes (.condw o) s (Claims.HeldBack s f))

/-- R377, R379: KILN on a tile marked lastingly faulty that is all of a privileged region begins a scan of it, of 200 µs; any other tile
gets result 3 at once, and a region without privilege raises ESYS. -/
def Obligations.KilnBegins : Prop :=
  ∀ (o : Ops2) (x : Xh) (s : State) (f : Firing) (r : Region), s.cur = some f → regionOf s f.pos = some r →
    let mine := unitOf f.pos ∈ s.chip.faulty ∧ r.units = [unitOf f.pos]
    (r.priv = true → mine → Completes (.kiln o x) s fun t => ∃ (y : PipeOp),
      (elemAt t f.pos).pipe = (elemAt s f.pos).pipe ++ [y] ∧ y.op = 0xE6 ∧ y.wait = .reply ∧ y.tag = f.tag ∧
      (qAt t f.pos) = { qAt s f.pos with scan := some ⟨y.id, x.f.toNat % 16, s.t18 + 3600000, false⟩ } ∧
      t.chip.kiln = { s.chip.kiln with busy := true, tile := some (unitOf f.pos) } ∧
      (∀ p, p ≠ f.pos → elemAt t p = elemAt s p ∧ qAt t p = qAt s p) ∧ SameMemory s t ∧ SameRest s t ∧ t.cur = none) ∧
    (r.priv = true → ¬mine → Computes (.kiln o x) s f 0xE6 o.ta (sideB s f o.sb) (some 0) (bothOuts o.d0 o.d1 (ofWord 3) false) 0) ∧
    (r.priv = false → Completes (.kiln o x) s (Claims.Raises s f codeEsys 0))

/-! ## The part's own moves: tokens and frames (spec/01, spec/03) -/

/-- R76, R86, R87, R255: a token that its store can take is fired when its instruction then has every operand, with the slots of that
instruction and tag consumed, and is stored otherwise; a MERGE fires on any token, a JOIN counts and sums the tokens of its side B, and
a token of MRG enters its side's queue. The token leaves its input buffer and no memory changes. -/
def Sys2Proof.Claims.TokensTaken : Prop :=
  ∀ (m : Nat) (x : Msg) (s : State) (instr side : Nat) (tag : Tag) (v : View), tokenEnabled s m = true → atElement s m = some x →
    tokenNeed s x = .go → arrivalOf s x = .operand instr side tag v →
    let p := x.dst
    let val := arrivedValue s x
    let pick := fun k => if k = side then val else slotVal (elemAt s p) instr k tag
    let sum := lowWord val + lowWord (slotVal (elemAt s p) instr 1 tag)
    let ended := fun (t : State) => t.chip.net = s.chip.net.filter (fun y => y.id ≠ x.id) ∧ (∀ q, q ≠ p → elemAt t q = elemAt s q) ∧
      SameMemory s t ∧ SameRest s t
    (v.op = opMrg → Completes (.tokenArrival m) s fun t =>
      (side = 0 → (qAt t p).merge.qa = (qAt s p).merge.qa ++ [(val, tag)] ∧ (qAt t p).merge.qb = (qAt s p).merge.qb) ∧
      (side ≠ 0 → (qAt t p).merge.qb = (qAt s p).merge.qb ++ [(val, tag)] ∧ (qAt t p).merge.qa = (qAt s p).merge.qa) ∧
      elemAt t p = elemAt s p ∧ ended t) ∧
    (v.op ≠ opMrg → v.op = opMerge ∨ readyBy s p instr side tag v val = true → Completes (.tokenArrival m) s fun t => ∃ f : Firing,
      (elemAt t p).ready = (elemAt s p).ready ++ [f] ∧ f.pos = p ∧ f.entry = instr ∧ f.tag = tag ∧ f.side = side ∧
      (v.op = opMerge → f.a = val ∧ (elemAt t p).slots = (elemAt s p).slots) ∧
      (v.op ≠ opMerge → f.a = pick 0 ∧
        (v.op ≠ opJoin → f.b = pick 1 ∧ f.c = pick 2) ∧
        (v.op = opJoin → f.b = ofWord (if side = 1 then sum else lowWord (slotVal (elemAt s p) instr 1 tag))) ∧
        (elemAt t p).slots = (elemAt s p).slots.filter fun y => !(y.instr = instr ∧ y.tag = tag)) ∧ ended t) ∧
    (v.op ≠ opMrg → v.op ≠ opMerge → readyBy s p instr side tag v val = false → Completes (.tokenArrival m) s fun t =>
      (∃ y ∈ (elemAt t p).slots, y.instr = instr ∧ y.side = side ∧ y.tag = tag ∧
        (v.op = opJoin ∧ side = 1 → y.val = ofWord sum ∧ y.cnt = ((slotOf (elemAt s p) instr 1 tag).map (·.cnt)).getD 0 + 1) ∧
        (v.op ≠ opJoin ∨ side ≠ 1 → y.val = val)) ∧
      (elemAt t p).ready = (elemAt s p).ready ∧ ended t)

/-- R77: a token whose entry must first be looked for, brought back or made room for begins that transfer of 24 fc, and stays in its input
buffer; one that makes room needs no lookup after it, as its entry was in neither the store nor the cellar. -/
def Sys2Proof.Claims.TransfersBegin : Prop :=
  ∀ (m : Nat) (x : Msg) (s : State), tokenEnabled s m = true → atElement s m = some x →
    (tokenNeed s x = .look → Completes (.tokenArrival m) s fun t =>
      t.chip.net = s.chip.net.map (fun y => if y.id = m then { y with look := .looking (s.fc + 24) } else y) ∧
      (∀ p, elemAt t p = elemAt s p) ∧ SameMemory s t ∧ SameRest s t) ∧
    ∀ k, tokenNeed s x = .fill k ∨ tokenNeed s x = .spill k → Completes (.tokenArrival m) s fun t =>
      (tokenNeed s x = .fill k → (∀ y ∈ (elemAt t x.dst).entries, y.id = k → y.st = .filling (s.fc + 24)) ∧
        t.chip.net = s.chip.net) ∧
      (tokenNeed s x = .spill k → (∀ y ∈ (elemAt t x.dst).entries, y.id = k → y.st = .spilling (s.fc + 24) x.id) ∧
        t.chip.net = s.chip.net.map fun y => if y.id = x.id then { y with look := .absent } else y) ∧
      (elemAt t x.dst).entries.map (·.id) = (elemAt s x.dst).entries.map (·.id) ∧
      (elemAt t x.dst).slots = (elemAt s x.dst).slots ∧ (elemAt t x.dst).ready = (elemAt s x.dst).ready ∧
      (∀ p, p ≠ x.dst → elemAt t p = elemAt s p) ∧ SameMemory s t ∧ SameRest s t

/-- R23, R24, R102, R103: a set-token that arrives waits to be applied at the end of its fc; a message with a wrong RID, KIND or residue, or
for an entry that holds no instruction or does not wait on that side, is discarded and, where its place is a region's, an abort is
reported to that region's control point. -/
def Sys2Proof.Claims.SetTokensAndMismatches : Prop :=
  ∀ (m : Nat) (x : Msg) (s : State), tokenEnabled s m = true → atElement s m = some x →
    let w := x.hdr.extractLsb' 0 64
    (∀ k, arrivalOf s x = .set k → Completes (.tokenArrival m) s fun t =>
      (∃ y ∈ (elemAt t x.dst).pendSet, y.entry = k ∧ y.val = x.pay) ∧
      (elemAt t x.dst).pendSet.length = (elemAt s x.dst).pendSet.length + 1 ∧
      t.chip.net = s.chip.net.filter (fun y => y.id ≠ x.id) ∧ SameMemory s t ∧ SameRest s t) ∧
    ((∃ kind, arrivalOf s x = .bad kind) ↔ ridOk x.hdr = false ∨ 5 ≤ kindOf x.hdr ∨ x.res ≠ residues x.pay ∨
      (routeSide w ≠ 3 ∧ ∀ v, entryView s x.dst (routeInstr w) = some v → (tSides v).contains (routeSide w) = false)) ∧
    ∀ kind, arrivalOf s x = .bad kind → Completes (.tokenArrival m) s fun t =>
      (∃ l, t.chip.net = s.chip.net.filter (fun y => y.id ≠ x.id) ++ l ∧
        Claims.Reported s (regionOf s x.dst) x.dst.die ⟨false, none, x.dst, 0, headerTag x.hdr, none⟩ l t) ∧
      (∀ p, elemAt t p = elemAt s p) ∧ t.frames = s.frames

/-- R24 to R26: a message with a good RID and KIND goes on to the next switch of its way after that hop's cost, and later where another
message stands ready at its switch (by a free delay, log entry 5); one without is discarded and, where its destination or the switch is a
region's, an abort is reported to that region's control point. A retried flit is later by the delay, at most 64 fc in all, and nothing else
changes (R391). -/
def Sys2Proof.Claims.MessagesMove : Prop :=
  ∀ (m : Nat) (x : Msg) (s : State), msgAt s m = some x →
    let d := switchOf x.dst
    let n := nextSwitch x.col x.row d.1 d.2
    (hopEnabled s m = true → ridOk x.hdr = true → kindOf x.hdr < 5 → Completes (.flitHop m) s fun t =>
      (∃ more, (crowded s x = false → more = 0) ∧ t.chip.net = replaceIf (fun y => y.id = m)
        (fun y => { y with
          col := n.1, row := n.2, due := s.fc + hopCost x.col x.row n.1 n.2 + more,
          link := if (switchTile x.col x.row).die = (switchTile n.1 n.2).die then none else some 0 }) s.chip.net) ∧
      (∀ p, elemAt t p = elemAt s p) ∧ SameMemory s t ∧ SameRest s t) ∧
    (hopEnabled s m = true → ridOk x.hdr = false ∨ 5 ≤ kindOf x.hdr → Completes (.flitHop m) s fun t =>
      (∃ l, t.chip.net = s.chip.net.filter (fun y => y.id ≠ m) ++ l ∧
        Claims.Reported s ((if ridOk x.hdr then regionOf s x.dst else none).orElse fun _ => regionOf s (switchTile n.1 n.2))
          (switchTile n.1 n.2).die ⟨false, none, switchTile n.1 n.2, 0, headerTag x.hdr, none⟩ l t) ∧
      ∀ p, elemAt t p = elemAt s p) ∧
    ∀ late, retryFlitEnabled s m late = true → Completes (.flitRetry m late) s fun t =>
      t = { s with chip := { s.chip with
        net := replaceIf (fun y => y.id = m) (fun y => { y with due := y.due + late, link := y.link.map (· + late) }) s.chip.net } } ∧
      ∃ n, x.link = some n ∧ n + late ≤ 64

/-- R22, R144: an operation whose time has come, with its tag and room, leaves its pipeline and its tokens enter the output buffer, one value
in an fc of those that stream; a FREE releases its tag with them (R70), and a result whose residue does not match is discarded and
reported to its region's control point (R369, R370). The buffer's token leaves for its switch, and the message of a request leaves its unit's outgoing buffer whole. -/
def Sys2Proof.Claims.ResultsLeave : Prop :=
  (∀ (p : Pos) (k : Nat) (s : State) (x : PipeOp), completionEnabled s p k = true → opAt s p k = some x → opStep s p x = .send →
    x.defer = none →
    (x.bad = false → x.streams = false ∨ x.outs.length ≤ 1 → Completes (.pipelineCompletion p k) s fun t =>
      (elemAt t p).pipe = (elemAt s p).pipe.filter (fun y => y.id ≠ k) ∧
      (tagNow x ≠ some noTag → (elemAt t p).out.length = (elemAt s p).out.length + tokenCount (tablesAt s p) x.outs) ∧
      (∃ l, t.chip.net = s.chip.net ++ l ∧ l.map (·.body) = if x.rel then [.frame (.release (frameOf x.tag) (iterOf x.tag))] else []) ∧
      (∀ q, q ≠ p → elemAt t q = elemAt s q) ∧ SameMemory s t ∧ t.fc = s.fc) ∧
    (x.bad = false → x.streams = true → 1 < x.outs.length → Completes (.pipelineCompletion p k) s fun t =>
      (elemAt t p).pipe = (elemAt s p).pipe.map
        (fun y => if y.id = k then { y with outs := y.outs.drop 1, due := some (s.fc + 1) } else y) ∧
      (tagNow x ≠ some noTag → (elemAt t p).out.length = (elemAt s p).out.length + tokenCount (tablesAt s p) (x.outs.take 1)) ∧
      t.chip.net = s.chip.net ∧ (∀ q, q ≠ p → elemAt t q = elemAt s q) ∧ SameMemory s t ∧ t.fc = s.fc) ∧
    (x.bad = true → Completes (.pipelineCompletion p k) s fun t =>
      (elemAt t p).pipe = (elemAt s p).pipe.filter (fun y => y.id ≠ k) ∧ (elemAt t p).out = (elemAt s p).out ∧
      (∃ l, t.chip.net = s.chip.net ++ l ∧
        Claims.Reported s (regionOf s p) p.die ⟨false, none, p, x.entry, x.tag, none⟩ l t) ∧
      (∀ q, q ≠ p → elemAt t q = elemAt s q) ∧ t.frames = s.frames ∧ t.fc = s.fc)) ∧
  (∀ (p : Pos) (m : Nat) (s : State) (x : Msg), injectEnabled s p m = true → (elemAt s p).out.find? (fun y => y.id = m) = some x →
    Completes (.tokenInject p m) s fun t =>
      t.chip.net = s.chip.net ++ [{ x with due := s.fc }] ∧
      (elemAt t p).out.map (·.id) = ((elemAt s p).out.filter fun y => y.id ≠ m).map (·.id) ∧
      (elemAt t p).pipe = (elemAt s p).pipe ∧ (∀ q, q ≠ p → elemAt t q = elemAt s q) ∧ SameMemory s t ∧ SameRest s t) ∧
  ∀ (p : Pos) (m : Nat) (s : State) (x : Msg) (q : MemReq), requestInjects s p m = true → msgAt s m = some x → requestIn s x = some q →
    (elemAt s p).out.find? (fun y => y.id = m) = none → Completes (.tokenInject p m) s fun t =>
      t.chip.reqs = s.chip.reqs.map (fun y => if y.id = q.id then
        { y with parts := y.parts.map fun z => if z.st = .tile then { z with st := .sent } else z } else y) ∧
      t.chip.net = s.chip.net ∧ (∀ u, elemAt t u = elemAt s u) ∧ SameMemory s t ∧ SameRest s t

/-- R77, R78, R79: a spill that is over leaves its entry in the cellar under its partition's owner tag, a fill its entry in the store, and a
lookup that found nothing lets the entry of its token, or of the key that was looked for, be made. -/
def Sys2Proof.Claims.CellarMoves : Prop :=
  ∀ (p : Pos) (k : Nat) (s : State),
    (spillDone s p k = true → Completes (.spill p k) s fun t =>
      (elemAt t p).entries = (elemAt s p).entries.map (fun y =>
        if y.id = k then { y with st := .cellar, owner := ((regionOf s p).map (·.part)).getD 0 } else y) ∧
      (elemAt t p).slots = (elemAt s p).slots ∧ t.chip.net = s.chip.net ∧ SameMemory s t ∧ SameRest s t) ∧
    (∀ y, cellarDone s p k = true → (elemAt s p).entries.find? (fun x => x.id = k) = some y → Completes (.cellarLookup p k) s fun t =>
      (elemAt t p).entries =
        (elemAt s p).entries.map (fun y => if y.id = k then { y with st := .resident, used := s.fc } else y) ∧
      (elemAt t p).slots = (elemAt s p).slots ∧ t.chip.net = s.chip.net ∧ SameMemory s t ∧ SameRest s t) ∧
    (cellarDone s p k = true → (elemAt s p).entries.find? (fun x => x.id = k) = none → Completes (.cellarLookup p k) s fun t =>
      t.chip.net = s.chip.net.map (fun y => if y.id = k then { y with look := .absent } else y) ∧
      elemAt t p = { elemAt s p with looks := (elemAt s p).looks.map fun z => if z.id = k then { z with look := .absent } else z } ∧
      (∀ q, q ≠ p → elemAt t q = elemAt s q) ∧ { t.chip with net := s.chip.net, elems := s.chip.elems } = s.chip ∧
      SameMemory s t ∧ SameRest s t)

/-- R70, R71, R79: a held result whose tag is to be had is sent: it leaves the pipeline, its frame's PEND falls by one, and no other frame
changes; one that has a request to make goes on with its tag; one whose residue does not match is discarded and reported (R369, R370); one
whose entry is in the cellar has it brought back first, and room made for it. -/
def Sys2Proof.Claims.HeldResultsLeave : Prop :=
  ∀ (p : Pos) (k : Nat) (s : State) (x : PipeOp), nextSendEnabled s p k = true → opAt s p k = some x →
    let need := heldEntry s p x.entry x.id x.tag
    let rest := fun (t : State) => (∀ g, g ≠ frameOf x.tag → frameAt t g = frameAt s g) ∧ SameMemory s t ∧ t.fc = s.fc
    (need = .go → x.bad = false → x.defer = none → Completes (.nextSend p k) s fun t =>
      (elemAt t p).pipe = (elemAt s p).pipe.filter (fun y => y.id ≠ k) ∧
      (tagNow x ≠ some noTag → (elemAt t p).out.length = (elemAt s p).out.length + tokenCount (tablesAt s p) x.outs) ∧
      (frameAt t (frameOf x.tag)).pend = (frameAt s (frameOf x.tag)).pend - 1 ∧ rest t) ∧
    (need = .go → x.bad = true → Completes (.nextSend p k) s fun t =>
      (elemAt t p).pipe = (elemAt s p).pipe.filter (fun y => y.id ≠ k) ∧ (elemAt t p).out = (elemAt s p).out ∧
      (∃ l, t.chip.net = s.chip.net ++ l ∧
        Claims.Reported s (regionOf s p) p.die ⟨false, none, p, x.entry, x.tag, none⟩ l t) ∧
      (frameAt t (frameOf x.tag)).pend = (frameAt s (frameOf x.tag)).pend - 1 ∧
      (∀ g, g ≠ frameOf x.tag → frameAt t g = frameAt s g) ∧ t.fc = s.fc) ∧
    (need = .go → x.bad = false → x.defer.isSome = true → Completes (.nextSend p k) s fun t =>
      (elemAt t p).pipe = (elemAt s p).pipe.map (fun y => if y.id = k then { y with wait := .none, due := some s.fc } else y) ∧
      (frameAt t (frameOf x.tag)).pend = (frameAt s (frameOf x.tag)).pend - 1 ∧ rest t) ∧
    ∀ j, need = .fill j ∨ need = .spill j → Completes (.nextSend p k) s fun t =>
      (∀ y ∈ (elemAt t p).entries, y.id = j →
        y.st = if need = .fill j then .filling (s.fc + 24) else .spilling (s.fc + 24) x.id) ∧ (elemAt t p).pipe = (elemAt s p).pipe ∧
      t.frames = s.frames ∧ rest t

/-- R25, R272: a request that delivers no token ends with its message: it is no longer outstanding. A condition word's store lets its CONDW go
on (R339), an engine's write is no longer open (R212, R215); an engine's read, an adjunct fill and a mill's read are there from this fc
on. -/
def Sys2Proof.Claims.RequestsEnd : Prop :=
  ∀ (m : Nat) (s : State) (q : MemReq), doneEnabled s m = true → doneOf s m = some q →
    let ended := fun (t : State) => t.chip.reqs = s.chip.reqs.filter (fun y => y.id ≠ q.id) ∧
      (∃ l, t.chip.net = s.chip.net.filter (fun y => y.id ≠ m) ++ l) ∧ SameMemory s t ∧ t.fc = s.fc
    (q.client = .instr ∨ q.dead = true → Completes (.internalCompletion m) s fun t => (∀ p, elemAt t p = elemAt s p) ∧ ended t) ∧
    (∀ p k, q.client = .condw p k → q.dead = false → Completes (.internalCompletion m) s fun t =>
      (elemAt t p).pipe = (elemAt s p).pipe.map (fun y => if y.id = k then { y with wait := .none, due := some s.fc } else y) ∧
      (∀ u, u ≠ p → elemAt t u = elemAt s u) ∧ ended t) ∧
    (∀ p k u, q.client = .eng p k u → q.op = .engWrite → q.dead = false → Completes (.internalCompletion m) s fun t =>
      (qAt t p).engs = (qAt s p).engs.map (fun e => if e.id = k then { e with open' := e.open'.filter fun j => j ≠ u } else e) ∧
      (∀ v, elemAt t v = elemAt s v) ∧ ended t) ∧
    ((∃ p k u, q.client = .eng p k u ∧ q.op ≠ .engWrite) ∨ (∃ k i, q.client = .fill k i) ∨ (∃ u k, q.client = .mill u k) → q.dead = false →
      Completes (.internalCompletion m) s fun t =>
        t.chip.reqs = s.chip.reqs.map (fun y => if y.id = q.id then { y with doneAt := some s.fc } else y) ∧
        t.chip.net = s.chip.net.filter (fun y => y.id ≠ m) ∧ (∀ p, elemAt t p = elemAt s p ∧ qAt t p = qAt s p) ∧
        SameMemory s t ∧ SameRest s t)

/-- R64, R69: a release that reaches its frame table frees the tag: an allocated one is set in FREEM and taken from LIVE, and SUCCM is
cleared; a free one changes neither FREEM nor LIVE; no other frame changes, and what waits at the table waits on, as a table completes one
operation per fc. -/
def Sys2Proof.Claims.FrameOperations : Prop :=
  ∀ (m : Nat) (s : State) (x : Msg) (f tg : Nat), frameOpEnabled s m = true → msgAt s m = some x → x.body = .frame (.release f tg) →
    tg < 64 → Completes (.frameOperation m) s fun t =>
      let r := frameAt s f
      (r.freem.getLsbD tg = false → (frameAt t f).live = r.live - 1) ∧ (r.freem.getLsbD tg = true → (frameAt t f).live = r.live) ∧
      (∀ k, (frameAt t f).freem.getLsbD k = (r.freem.getLsbD k || decide (k = tg))) ∧
      (∀ k, (frameAt t f).succm.getLsbD k = (r.succm.getLsbD k && decide (k ≠ tg))) ∧
      t.chip.fwaits = s.chip.fwaits ∧ (∀ g, g ≠ f → frameAt t g = frameAt s g) ∧
      t.chip.net = s.chip.net.filter (fun y => y.id ≠ m) ∧ lookupKey (cluOf x.dst) t.chip.lastOp = some s.fc ∧
      SameMemory s t ∧ t.fc = s.fc

/-- R70, R89, R93, R361: the table answers an EXIT with the parent tag of its frame, or with the tag that names no frame where the frame is
not allocated; an FFREE or RET of a frame that is not allocated, or a RET whose continuation is not the frame's, raises ECTRL and
releases nothing; another one releases its tag and waits in the table, and a RET's token goes with the tag of its continuation. -/
def Sys2Proof.Claims.FrameAnswers : Prop :=
  ∀ (m : Nat) (s : State) (x : Msg) (q : FrameReq), frameOpEnabled s m = true → msgAt s m = some x → x.body = .frame q →
    let kept := fun (t : State) => lookupKey (cluOf x.dst) t.chip.lastOp = some s.fc ∧ SameMemory s t ∧ t.fc = s.fc
    (∀ f p op, q = .parent f p op → Completes (.frameOperation m) s fun t =>
      (elemAt t p).pipe.map (·.id) = (elemAt s p).pipe.map (·.id) ∧
      (∀ y ∈ (elemAt t p).pipe, y.id = op → y.out = .known (if (frameAt s f).val then (frameAt s f).parent else 0x7FFFFF) ∧
        ∃ d, y.due = some d ∧ s.fc ≤ d) ∧
      (∀ u, u ≠ p → elemAt t u = elemAt s u) ∧ t.frames = s.frames ∧ t.chip.fwaits = s.chip.fwaits ∧
      t.chip.net = s.chip.net.filter (fun y => y.id ≠ m) ∧ kept t) ∧
    ∀ f tg ret p op, q = .free f tg ret p op →
      let r := frameAt s f
      let bad := r.val = false ∨ ∃ b, ret = some b ∧ (r.cv = false ∨ b ≠ r.cont)
      (bad → ∀ y z, opAt s p op = some y → regionOf s p = some z → Completes (.frameOperation m) s fun t =>
        (∃ w, t.chip.net = s.chip.net.filter (fun y => y.id ≠ m) ++ [w] ∧ w.dst = controlPoint z.homeClu ∧
          w.body = .error z.id ⟨codeEctrl, p, y.entry, y.tag, 0⟩) ∧
        (elemAt t p).pipe = (elemAt s p).pipe.filter (fun y => y.id ≠ op) ∧ t.frames = s.frames ∧
        t.chip.fwaits = s.chip.fwaits ∧ kept t) ∧
      (¬ bad → Completes (.frameOperation m) s fun t =>
        frameAt t f = (FrameUpd.drop tg).apply r ∧ (∀ g, g ≠ f → frameAt t g = frameAt s g) ∧
        (∃ w, t.chip.fwaits = s.chip.fwaits ++ [w] ∧ w.q = q ∧ w.since = s.fc) ∧
        (∀ b, ret = some b → ∀ y ∈ (elemAt t p).pipe, y.id = op → y.wait = .none ∧ y.out = .known (b.extractLsb' 0 23)) ∧
        t.chip.net = s.chip.net.filter (fun y => y.id ≠ m) ∧ kept t)

/-- R64, R70, R71, R90: a NEXT or a LOOPN emission that asks for a tag nothing waits for is given it when it is free, and a NEXT whose tag an
earlier NEXT of its iteration has taken is given that one; the answer reaches the element that asked. Else it waits in its table. No other
frame changes. Which of several that wait for one tag comes first is the model's choice (log 83). -/
def Sys2Proof.Claims.TagsAsked : Prop :=
  ∀ (m : Nat) (s : State) (x : Msg) (q : FrameReq) (f : Nat), frameOpEnabled s m = true → msgAt s m = some x → x.body = .frame q →
    q.tagFrame = some f →
    let r := frameAt s f
    let u := tagAsked r q
    let ended := fun (t : State) => (∀ g, g ≠ f → frameAt t g = frameAt s g) ∧ t.chip.net = s.chip.net.filter (fun y => y.id ≠ m) ∧
      SameMemory s t ∧ t.fc = s.fc
    let granted := tagOpen r q = true ∧ ((∀ w ∈ s.chip.fwaits, w.q.tagFrame = some f → tagAsked r w.q ≠ u) ∨
      ∃ tg p op, q = .next f tg p op ∧ r.succm.getLsbD tg = true)
    (granted → Completes (.frameOperation m) s fun t =>
      t.chip.fwaits = s.chip.fwaits ∧
      (∀ tg p op, q = .next f tg p op →
        (r.succm.getLsbD tg = true → frameAt t f = r) ∧
        (r.succm.getLsbD tg = false → frameAt t f = (FrameUpd.succ tg).apply ((FrameUpd.take u).apply r)) ∧
        ∀ y ∈ (elemAt t p).pipe, y.id = op → y.out = .known (mkTag f u)) ∧
      (∀ tg i exit p id, q = .loop f tg i exit p id → frameAt t f = (FrameUpd.take u).apply r ∧
        ∀ y ∈ (elemAt t p).loops, y.id = id → y.given = some u) ∧ ended t) ∧
    (¬ granted → Completes (.frameOperation m) s fun t =>
      (∃ w, t.chip.fwaits = s.chip.fwaits ++ [w] ∧ w.q = q ∧ w.since = s.fc) ∧ frameAt t f = r ∧ ended t)

/-- R64, R90: an emission of LOOPN that has its tag: an iteration goes on to the next, whose tag is asked of the frame table, and no frame
changes; the exit ends the record and lowers PEND. -/
def Sys2Proof.Claims.LoopEmissions : Prop :=
  ∀ (p : Pos) (k : Nat) (s : State) (l : LoopRec), loopEnabled s p k = true → loopAt s p k = some l →
    heldEntry s p l.entry l.id l.tag = .go →
    let sent := fun (t : State) => mkTag (frameOf l.tag) (l.given.getD 0) ≠ noTag →
      (elemAt t p).out.length = (elemAt s p).out.length + tokenCount (tablesAt s p) l.out
    (l.i < l.n → Completes (.loopnEmission p k) s fun t =>
      (elemAt t p).loops =
        (elemAt s p).loops.map (fun y => if y.id = k then { y with i := y.i + 1, given := none, due := s.fc + 1 } else y) ∧
      (∃ m, t.chip.net = s.chip.net ++ [m] ∧
        m.body = .frame (.loop (frameOf l.tag) (iterOf l.tag) (l.i + 1) (decide (l.n ≤ l.i + 1)) p k)) ∧
      sent t ∧ t.frames = s.frames ∧ SameMemory s t ∧ t.fc = s.fc) ∧
    (l.n ≤ l.i → Completes (.loopnEmission p k) s fun t =>
      (elemAt t p).loops = (elemAt s p).loops.filter (fun y => y.id ≠ k) ∧ t.chip.net = s.chip.net ∧ sent t ∧
      (frameAt t (frameOf l.tag)).pend = (frameAt s (frameOf l.tag)).pend - 1 ∧
      (∀ g, g ≠ frameOf l.tag → frameAt t g = frameAt s g) ∧ SameMemory s t ∧ t.fc = s.fc)

/-- R88, R89, R352: a waiting FALLOC or CALL gets its frame, with tag 0 allocated and the firing's tag as its parent; a waiting NEXT or LOOPN
emission gets its tag (R70, R90); a waiting FFREE or RET whose frame is quiet ends the frame: VAL is cleared and its elements are told to drop what they hold of it; with the root frame the
frames parked at a YIELD go on. -/
def Sys2Proof.Claims.FramesGrantedAndReleased : Prop :=
  (∀ (k : Nat) (s : State) (w : FrameWait) (r decl logk : Nat) (tag : Tag) (cont : Option Word) (p : Pos) (op g : Nat) (z : Region),
    frameGrantEnabled s k = true → waitAt s k = some w → w.q = .alloc r decl logk tag cont p op → grantOf s (cluOf p) r decl = some g →
    regionAt s r = some z → Completes (.frameGrant k) s fun t =>
      let f := frameAt t g
      f.val = true ∧ f.decl = decl ∧ f.logk = logk ∧ f.parent = tag ∧ f.live = 1 ∧ f.pend = 0 ∧ f.memout = 0 ∧
      (∀ i, i < 64 → f.freem.getLsbD i = decide (i ≠ 0)) ∧ (cont.isSome = f.cv) ∧
      (∀ h, h ≠ g → frameAt t h = frameAt s h) ∧ t.chip.fwaits = s.chip.fwaits.filter (fun y => y.id ≠ k) ∧
      SameMemory s t ∧ t.fc = s.fc) ∧
  (∀ (k : Nat) (s : State) (w : FrameWait) (f : Nat), frameGrantEnabled s k = true → waitAt s k = some w → w.q.tagFrame = some f →
    Completes (.frameGrant k) s fun t =>
      let r := frameAt s f
      let u := tagAsked r w.q
      (∀ tg p op, w.q = .next f tg p op →
        (r.succm.getLsbD tg = true → frameAt t f = r) ∧
        (r.succm.getLsbD tg = false → frameAt t f = (FrameUpd.succ tg).apply ((FrameUpd.take u).apply r)) ∧
        ∀ y ∈ (elemAt t p).pipe, y.id = op → y.out = .known (mkTag f u)) ∧
      (∀ tg i exit p id, w.q = .loop f tg i exit p id → frameAt t f = (FrameUpd.take u).apply r ∧
        ∀ y ∈ (elemAt t p).loops, y.id = id → y.given = some u) ∧
      (∀ h, h ≠ f → frameAt t h = frameAt s h) ∧ t.chip.fwaits = s.chip.fwaits.filter (fun y => y.id ≠ k) ∧
      t.chip.net = s.chip.net ∧ SameMemory s t ∧ t.fc = s.fc) ∧
  ∀ (k : Nat) (s : State) (w : FrameWait) (f tg : Nat) (ret : Option Word) (p : Pos) (op : Nat) (z : Region),
    frameReleaseEnabled s k = true → waitAt s k = some w → w.q = .free f tg ret p op → regionOfFrame s f = some z →
    Completes (.frameRelease k) s fun t =>
      (frameAt t f).val = false ∧
      (z.rootFrame ≠ some f → (∀ h, h ≠ f → frameAt t h = frameAt s h) ∧
        ∃ l, t.chip.net = s.chip.net ++ l ∧ l.map (fun y => (y.dst, y.body)) = (regionElems s z).map fun q => (q, .purge f)) ∧
      (z.rootFrame = some f → (∀ h, h ≠ f → frameAt t h = { frameAt s h with yld := (frameAt s h).yld && !z.reserved.contains h }) ∧
        (∀ q ∈ regionElems s z, ∃ m ∈ t.chip.net, m.dst = q ∧ m.body = .purge f) ∧
        ∃ z', regionAt t z.id = some z' ∧ z'.rootFreed = true) ∧
      t.chip.fwaits = s.chip.fwaits.filter (fun y => y.id ≠ k) ∧ SameMemory s t ∧ t.fc = s.fc

/-- R89: an element drops every operand and entry of a frame that is purged and acknowledges; the last acknowledgement resets the frame's
record. -/
def Sys2Proof.Claims.FramesPurged : Prop :=
  (∀ (m : Nat) (s : State) (x : Msg) (f : Nat), purgeReached s m = true → msgAt s m = some x → x.body = .purge f →
    Completes (.framePurge m) s fun t =>
      (elemAt t x.dst).slots = (elemAt s x.dst).slots.filter (fun y => frameOf y.tag ≠ f) ∧
      (elemAt t x.dst).entries = (elemAt s x.dst).entries.filter (fun y => y.fid ≠ f) ∧
      (∃ y, t.chip.net = s.chip.net.filter (fun y => y.id ≠ m) ++ [y] ∧ y.body = .purgeAck f x.dst) ∧
      t.frames = s.frames ∧ SameMemory s t ∧ t.fc = s.fc) ∧
  ∀ (m : Nat) (s : State) (x : Msg) (f : Nat) (p : Pos) (y : Purge), ackReached s m = true → msgAt s m = some x →
    x.body = .purgeAck f p → s.chip.purges.find? (fun z => z.f = f) = some y →
    Completes (.purgeAcknowledged m) s fun t =>
      t.chip.net = s.chip.net.filter (fun z => z.id ≠ m) ∧
      ((∀ q ∈ y.left, q = p) → frameAt t f = FrameRec.reset ∧ t.chip.purges = s.chip.purges.filter fun z => z.f ≠ f) ∧
      ((∃ q ∈ y.left, q ≠ p) → t.frames = s.frames ∧ ∃ z ∈ t.chip.purges, z.f = f ∧ z.left = y.left.filter fun q => q ≠ p) ∧
      (∀ g, g ≠ f → frameAt t g = frameAt s g) ∧ SameMemory s t ∧ t.fc = s.fc

/-- R73: a change of a frame's parking is taken by the element it reaches. -/
def Sys2Proof.Claims.ParkingReaches : Prop :=
  ∀ (m : Nat) (s : State) (x : Msg) (f : Nat) (v : ParkView), parkReached s m = true → msgAt s m = some x → x.body = .park f v →
    Completes (.parkChange m) s fun t =>
      parkedAt (elemAt t x.dst) f = v.parks ∧ (∀ g, g ≠ f → parkedAt (elemAt t x.dst) g = parkedAt (elemAt s x.dst) g) ∧
      (∀ p, p ≠ x.dst → elemAt t p = elemAt s p) ∧ t.chip.net = s.chip.net.filter (fun y => y.id ≠ m) ∧
      SameMemory s t ∧ SameRest s t

/-! ## The part's own moves: control points, barriers, engines -/

/-- R132: a write of FPCTL that reaches an element is its value from then on, with which it computes from the next fc on; the firings of
this fc use the value they would have used, and no other element's value changes. -/
def Sys2Proof.Claims.FpctlReaches : Prop :=
  ∀ (m : Nat) (s : State) (x : Msg) (v : Word) (z : Region), fpctlReached s m = true → msgAt s m = some x → x.body = .fpctl z.id v →
    regionOf s x.dst = some z → regionAt s z.id = some z → Completes (.fpctlApply m) s fun t =>
      fpctlAt t x.dst = v ∧ (∀ p, p ≠ x.dst → fpctlAt t p = fpctlAt s p) ∧ (∀ p, fpctlUsed t p = fpctlUsed s p) ∧ t.chip.net = s.chip.net.filter (fun y => y.id ≠ m) ∧
      SameMemory s t ∧ SameRest s t

/-- R131, R345 to R349, R366, R367: a read takes the register's value at the control point and changes none; a write of RFLAGS or FPFLAGS
clears the bits that are 1 in the value, but those set in this fc; one of FPCTL goes on to every element of the region; one of KCTL sets the
kiln's control; one of any other register changes nothing; each answers the old value. -/
def Obligations.SystemRegisters : Prop :=
  ∀ (m : Nat) (s : State) (x : Msg) (z : Region) (n op : Nat) (p : Pos) (o : PipeOp) (v : View), sysEnabled s m = true →
    msgAt s m = some x → regionAt s z.id = some z → opAt s p op = some o → entryView s p o.entry = some v →
    (x.body = .sysreg z.id n none p op → Completes (.systemRegisterRequest m) s fun t =>
      (∃ o', opAt t p op = some o' ∧ o'.wait = .none ∧ o'.outs = bothOuts v.d0 v.d1 (ofWord (sysRead s z n)) false) ∧
      t.chip.regions = s.chip.regions ∧ t.chip.net = s.chip.net.filter (fun y => y.id ≠ m) ∧ SameMemory s t ∧ SameRest s t) ∧
    (∀ a, x.body = .sysreg z.id n (some a) p op → n ≠ 4 → Completes (.systemRegisterRequest m) s fun t =>
      (∃ o', opAt t p op = some o' ∧ o'.wait = .none ∧ o'.outs = bothOuts v.d0 v.d1 (ofWord (sysRead s z n)) false) ∧
      (n ≠ 1 → n ≠ 5 → t.chip.regions = s.chip.regions) ∧
      (n = 0x120 → t.chip.kiln = { s.chip.kiln with en := a.getLsbD 4, abl := a.toNat % 16 }) ∧
      (n ≠ 0x120 → t.chip.kiln = s.chip.kiln) ∧
      (∃ z', regionAt t z.id = some z' ∧
        (n = 1 → { z' with rflags := z.rflags } = z ∧ ∀ j, j < 64 →
          z'.rflags.getLsbD j = (z.rflags.getLsbD j && (!(a.getLsbD j && decide (j < 4)) || z.rfNew.getLsbD j))) ∧
        (n = 5 → { z' with fpflags := z.fpflags } = z ∧ ∀ j, j < 64 →
          z'.fpflags.getLsbD j = (z.fpflags.getLsbD j && (!(a.getLsbD j && decide (j < 5)) || z.fpNew.getLsbD j)))) ∧
      SameMemory s t ∧ SameRest s t) ∧
    ∀ a, x.body = .sysreg z.id 4 (some a) p op → Completes (.systemRegisterRequest m) s fun t =>
      (∃ o', opAt t p op = some o' ∧ o'.wait = o.wait ∧ o'.outs = o.outs.map fun u => { u with val := ofWord z.fpctl }) ∧
      (∃ z', regionAt t z.id = some z' ∧ z'.fpctl = a &&& 0xF ∧ (∀ q ∈ regionElems s z, regionOf s q = some z → fpctlAt t q = fpctlAt s q)) ∧
      (∃ l, t.chip.net = s.chip.net.filter (fun y => y.id ≠ m) ++ l ∧
        l.map (fun y => (y.dst, y.body)) = (regionElems s z).map fun q => (q, .fpctl z.id (a &&& 0xF))) ∧
      SameMemory s t ∧ SameRest s t

/-- R117, R118: the first decision of a region to arrive is broadcast; a unit that is empty reports; when every unit has, the units take the
slots of the decided configuration together, the decisions that were held back leave their elements, and its entry tokens leave. -/
def Obligations.ConfigurationSwitch : Prop :=
  (∀ (m : Nat) (s : State) (x : Msg) (z : Region) (cfg : Nat) (v a : Word) (p : Pos) (e : Nat) (tag : Tag), decisionEnabled s m = true →
    msgAt s m = some x → x.body = .switch z.id cfg v a p e tag → regionAt s z.id = some z → Completes (.switchDecision m) s fun t =>
      (∃ z' w, regionAt t z.id = some z' ∧ z'.switch = some w ∧ w.cfg = cfg ∧ w.value = v ∧ w.left = z.units ∧ w.since = s.fc ∧
        { z' with switch := z.switch } = z) ∧
      t.chip.net = s.chip.net.filter (fun y => y.id ≠ m) ∧ SameMemory s t ∧ SameRest s t) ∧
  (∀ (s : State) (z : Region) (u : Pos) (w : SwitchState), emptyEnabled s z.id u = true → regionAt s z.id = some z → z.switch = some w →
    Completes (.unitEmptyReport z.id u) s fun t =>
      (∃ z' w', regionAt t z.id = some z' ∧ z'.switch = some w' ∧ w'.left = w.left.filter (fun q => q ≠ u) ∧ w'.cfg = w.cfg ∧
        w.last ≤ w'.last ∧ s.fc + latency u (controlPoint z.homeClu) ≤ w'.last) ∧
      t.chip.units = s.chip.units ∧ SameMemory s t ∧ SameRest s t) ∧
  ∀ (s : State) (z : Region) (w : SwitchState), slotEnabled s z.id = true → regionAt s z.id = some z → z.switch = some w →
    Completes (.slotChange z.id) s fun t =>
      (∃ z', regionAt t z.id = some z' ∧ z'.acfg = w.cfg ∧ z'.switch = none ∧ z'.switchWait = []) ∧
      (∀ p k, unitOf p ∈ z.units → slotFor z p w.cfg = some k → (unitAt t p).active = k) ∧
      (∀ p, unitOf p ∉ z.units.map unitOf → unitAt t p = unitAt s p) ∧
      (∀ cf root, configOf z.image w.cfg = some cf → z.rootFrame = some root → ∃ held l, t.chip.net = s.chip.net ++ held ++ l ∧
        held.map (·.body) = z.switchWait.map (fun h => Body.switch z.id h.cfg h.value h.decision h.p h.entry h.tag) ∧
        (∀ y ∈ l, y.body = .token ∧ y.pay = ofWord w.value ∧ headerTag y.hdr = mkTag root 0 ∧ y.due = s.fc + 1) ∧
        l.map (·.dst) = (sortBy (fun e => locOrder z.rects e.loc) cf.elems).flatMap fun e =>
          match locPos z.rects e.loc with
          | some p => e.entries.map fun _ => p
          | none => []) ∧
      SameMemory s t ∧ SameRest s t

/-- R185: a change of a handle that reaches a copy is what the copy reads from then on; no other copy and no other handle changes. -/
def Sys2Proof.Claims.HandleCopies : Prop :=
  ∀ (m : Nat) (s : State) (x : Msg) (z : Region) (h : Nat) (e : HandleEntry), copyReached s m = true → msgAt s m = some x →
    x.body = .handle z.id h e → regionAt s z.id = some z → Completes (.handleCopyUpdate m) s fun t => ∃ z', regionAt t z.id = some z' ∧
      handleAt z' x.dst h = e ∧ (∀ g, handleHome z' g = handleHome z g) ∧
      (∀ q g, unitOf q ≠ unitOf x.dst ∨ g ≠ h → handleAt z' q g = handleAt z q g) ∧
      t.chip.net = s.chip.net.filter (fun y => y.id ≠ m) ∧ SameMemory s t ∧ SameRest s t

/-- R334 to R336, R340: one operation on a barrier at its unit. BARI sets COUNT and clears DROP; an arrival adds 1 to ARR, BARD to DROP as
well, and a waiter joins; at COUNT arrivals the phase rises, COUNT loses DROP, ARR and DROP are 0, and every waiter is woken. A package
barrier of another partition raises EPROT, an arrival at a barrier with COUNT 0 ETRAP with the instruction's extension word. The count that
is left is the greater of COUNT - DROP and 0, as Nat's difference is. -/
def Sys2Proof.Claims.BarrierOperations : Prop :=
  ∀ (m : Nat) (s : State) (x : Msg) (z : Region) (lvl : BarLevel) (n op : Nat) (q : BarOp) (p : Pos), barrierEnabled s m = true →
    msgAt s m = some x → x.body = .barrier z.id lvl n q p op → regionAt s z.id = some z →
    let k := physBarrier z lvl p n
    let b := barrierAt s lvl (barrierHome lvl p) k
    let now := fun (t : State) => barrierAt t lvl (barrierHome lvl p) k
    let own := lvl = .package → packageOwner s k = some z.part
    let enters := ∀ c, q ≠ .init c
    let dropped := if q = .drop then b.drop + 1 else b.drop
    let waiters := if q = .await then b.waiters ++ [⟨z.id, p, op⟩] else b.waiters
    let rest := s.chip.net.filter fun y => y.id ≠ m
    let ends := fun (t : State) (left : Nat) (l : List Waiter) =>
      (now t).phase = b.phase + 1 ∧ (now t).count = left ∧ (now t).arr = 0 ∧ (now t).drop = 0 ∧ (now t).waiters = [] ∧
        (∃ w, t.chip.net = rest ++ w ∧ w.map (·.dst) = l.map (·.p) ∧ ∀ y ∈ w, ∃ r p' o' st, y.body = .wake r p' o' st) ∧
        SameMemory s t ∧ SameRest s t
    let fails := fun (t : State) (code : Nat) (value : Word) => t.chip.barriers = s.chip.barriers ∧
      (∀ o, opAt s p op = some o → regionOf s p = some z → ∃ y, t.chip.net = rest ++ [y] ∧
        y.body = .error z.id ⟨code, p, o.entry, o.tag, value⟩) ∧ SameMemory s t ∧ SameRest s t
    (own → b.closing = [] →
      (∀ c, q = .init c → b.arr = 0 ∨ b.arr < c → Completes (.barrierOperation m) s fun t =>
        now t = { b with count := c, drop := 0 } ∧ t.chip.net = rest ∧ SameMemory s t ∧ SameRest s t) ∧
      (enters → b.arr + 1 < b.count → Completes (.barrierOperation m) s fun t =>
        (now t).arr = b.arr + 1 ∧ (now t).drop = dropped ∧ (now t).count = b.count ∧ (now t).phase = b.phase ∧
        (now t).waiters = waiters ∧ t.chip.net = rest ∧ SameMemory s t ∧ SameRest s t) ∧
      ((∀ r, stepBusy s r = false) → (∀ r, savingRegion s r = false) →
        (∀ c, q = .init c → 0 < b.arr → c ≤ b.arr → Completes (.barrierOperation m) s fun t => ends t c b.waiters) ∧
        (enters → b.count ≠ 0 → b.count ≤ b.arr + 1 → Completes (.barrierOperation m) s fun t => ends t (b.count - dropped) waiters))) ∧
    (own → enters → b.count = 0 → Completes (.barrierOperation m) s fun t => fails t codeEtrap (extWordOf s p op)) ∧
    (¬ own → Completes (.barrierOperation m) s fun t => fails t codeEprot 0)

/-- R340, R341: a wake lowers its frame's BWC and lets the held result be sent; the first SSTEP's of a phase raises the region's superstep
number, and no other wake of that phase does. That the number rises when the first of these wakes arrives is the model's reading
(log 94). -/
def Sys2Proof.Claims.BarrierWakes : Prop :=
  ∀ (m : Nat) (s : State) (x : Msg) (z : Region) (p : Pos) (op : Nat) (step : Option Nat) (o : PipeOp), wakeEnabled s m = true →
    msgAt s m = some x → x.body = .wake z.id p op step → regionAt s z.id = some z → opAt s p op = some o →
    Completes (.barrierWake m) s fun t =>
      frameAt t (frameOf o.tag) = { frameAt s (frameOf o.tag) with bwc := (frameAt s (frameOf o.tag)).bwc - 1 } ∧
      (∀ g, g ≠ frameOf o.tag → frameAt t g = frameAt s g) ∧
      (∃ z', regionAt t z.id = some z' ∧ z'.ssn = (if step.isSome then z.ssn + 1 else z.ssn) ∧ { z' with ssn := z.ssn } = z) ∧
      (∃ o', opAt t p op = some o' ∧ o' = { o with wait := .held }) ∧
      (∀ k, step = some k → ∀ y ∈ t.chip.net, ∀ u j, y.body ≠ .wake z.id u j (some k)) ∧ SameMemory s t ∧ t.fc = s.fc

/-- R189, R193, R195, R198 to R200, R207: a push that reaches a ring with room appends its slots: their bytes within the handle's extent are
the push's, TAIL passes them, HEAD and RDP stay, their sideband is the push's, and neither HBM nor cluster SRAM changes. Every other byte
of the scratchpads is as before, but that a line written in part is cleared beyond it when another partition owned it. A push to a ring
whose handle has gone raises EHANDLE and appends nothing. -/
def Sys2Proof.Claims.RingsTakePushes : Prop :=
  ∀ (k : Nat) (s : State) (y : Push), pushEnabled s k = true → pushAt s k = some y →
    (∀ g, ringAt s y.tile y.q = some g → (ringEntry s g).isSome → MemoryOk s → Completes (.ringPush k) s fun t =>
      (∃ g', ringAt t y.tile y.q = some g' ∧ g'.tail = g.tail + BitVec.ofNat 16 y.data.length ∧ g'.head = g.head ∧ g'.rdp = g.rdp ∧
        (y.data ≠ [] → slotSide g' g.tpos = y.side)) ∧
      t.chip.pushes = s.chip.pushes.filter (fun z => z.id ≠ k) ∧ (∀ a, t.hbm.read a = s.hbm.read a) ∧
      (∀ a, t.sram.read a = s.sram.read a) ∧ t.frames = s.frames ∧ t.fc = s.fc) ∧
    (∀ g r e, ringAt s y.tile y.q = some g → ringEntry s g = some (r, e) → MemoryOk s → g.size % 16 = 0 → g.tpos < g.count →
      y.data.length ≤ g.count → e.ext ≤ e.bankCount * 2048 → Completes (.ringPush k) s fun t =>
        let off := fun (j i : Nat) => (g.tpos + j) % g.count * g.size + i
        let stored := fun (j i : Nat) => j < y.data.length ∧ i < g.size ∧ off j i < e.ext
        (∀ j i v, y.data[j]? = some v → stored j i → t.spad.read (spadAddr e g.tile (off j i)) = v.extractLsb' (8 * i) 8) ∧
        ∀ a, (∀ j i, stored j i → a ≠ spadAddr e g.tile (off j i)) →
          ((∀ j i, stored j i → a / 32 ≠ spadAddr e g.tile (off j i) / 32) ∨ ownerOf s.chip.spadOwner (a / 32) = r.part →
            t.spad.read a = s.spad.read a) ∧
          ((∃ j i, stored j i ∧ a / 32 = spadAddr e g.tile (off j i) / 32) → ownerOf s.chip.spadOwner (a / 32) ≠ r.part →
            t.spad.read a = 0)) ∧
    ∀ r, (∀ g, ringAt s y.tile y.q = some g → ringEntry s g = none) → regionOf s y.tile = some r → Completes (.ringPush k) s fun t =>
      (∃ m e, t.chip.net = s.chip.net ++ [m] ∧ m.dst = controlPoint r.homeClu ∧ m.body = .error r.id e ∧ e.code = codeEhandle ∧ e.src = y.src) ∧
      t.chip.rings = s.chip.rings ∧ t.chip.pushes = s.chip.pushes.filter (fun z => z.id ≠ k) ∧ SameMemory s t ∧ SameRest s t

/-- R212: a COPY whose next unit has been read, with no other reply back, issues that unit's write and goes on to the next; a unit that lies
beyond the destination is dropped. -/
def Sys2Proof.Claims.CopyGoesOn : Prop :=
  ∀ (p : Pos) (k : Nat) (s : State) (e : EngOp) (r : Region) (v : Wide), copyEnabled s p k = true → engAt s p k = some e →
    arrivedReads s p k = [] → regionOf s p = some r → lookupKey e.sent e.got = some v →
    let lanes := engLanes (handleAt r p e.h1) (e.writeOff e.sent) (e.unitLen (e.unitNo e.sent))
    Completes (.copyUnit p k) s fun t =>
      (lanes ≠ [] → ∃ q, t.chip.reqs = s.chip.reqs ++ [q] ∧ q.op = .engWrite ∧ q.h = e.h1 ∧ q.b = v ∧ q.client = .eng p k e.sent ∧
        ∀ l, l ∈ q.parts.flatMap (·.lanes) ↔ l ∈ lanes) ∧
      (lanes = [] → t.chip.reqs = s.chip.reqs) ∧
      (∃ e', engAt t p k = some e' ∧ e'.sent = e.sent + 1 ∧ e'.open' = (if lanes = [] then e.open' else e.open' ++ [e.sent]) ∧
        e'.next = e.next) ∧
      (∀ q, q ≠ p → qAt t q = qAt s q) ∧ SameMemory s t ∧ t.frames = s.frames ∧ t.fc = s.fc

/-- R213, R214: a block of a stream that has arrived is sent as the stream's next, and the stream's count rises by one; with a replay window
it is read from its slot of the ring, which RDP passes. -/
def Sys2Proof.Claims.StreamsSendBlocks : Prop :=
  ∀ (p : Pos) (k : Nat) (s : State) (e : EngOp) (z : Stream), blockEnabled s p k = true → engAt s p k = some e →
    arrivedReads s p k = [] → streamAt s p e.stream = some z →
    let sent := fun (t : State) (v : Wide) =>
      (∃ e', engAt t p k = some e' ∧ e'.sent = e.sent + 1) ∧ (∃ z', streamAt t p e.stream = some z' ∧ z'.cursor = e.sent + 1 ∧ z'.mark = z.mark) ∧
      (e.out ≠ noTag → (elemAt t p).out.length =
        (elemAt s p).out.length + tokenCount (tablesAt s p) (outOf e.d0 v true true)) ∧
      SameMemory s t ∧ t.frames = s.frames ∧ t.fc = s.fc
    (e.h2 = 0 → Completes (.strmiBlock p k) s fun t => sent t (getKey 0 e.sent e.got)) ∧
    ∀ g g0 r, e.h2 ≠ 0 → e.got = [] → windowRing s p e = some g → ringAt s g.tile g.q = some g0 → regionOf s p = some r →
      slotBad s g g.rpos = false → Completes (.strmiBlock p k) s fun t =>
        sent t (ofBytes (windowBytes s g g.rpos)) ∧ ∃ g', ringAt t g.tile g.q = some g' ∧ g'.rdp = g0.rdp + 1

/-- R201, R211 to R215: an engine operation that has done all its work joins the results to be sent with its count: bytes of a COPY, blocks of
a stream, TAIL of a push; it is no longer outstanding and its stream number is free. -/
def Sys2Proof.Claims.EnginesComplete : Prop :=
  ∀ (p : Pos) (k : Nat) (s : State) (e : EngOp), engEnabled s p k = true → engAt s p k = some e →
    Completes (.engineCompletion p k) s fun t =>
      (∃ y, (elemAt t p).pipe = (elemAt s p).pipe ++ [y] ∧ y.out = .known e.out ∧ y.tag = e.tag ∧ y.entry = e.entry ∧ y.due = some s.fc ∧
        y.wait = .none ∧ y.rel = e.rel ∧
        (e.kind = .copy → y.outs = outOf e.d0 (ofWord (nat64 e.n)) false false ++ outOf e.d1 (ofWord (nat64 e.n)) false false) ∧
        (e.kind = .strmi → y.outs = outOf e.d1 (ofWord (nat64 (e.n - e.b))) false false) ∧
        (e.kind = .strmo → y.outs = outOf e.d1 (ofWord (nat64 e.n)) false false) ∧
        (e.kind = .rpush → y.outs = outOf e.d0 (ofWord (nat64 e.a)) false false ++ outOf e.d1 (ofWord (nat64 e.a)) false false)) ∧
      (qAt t p).engs = (qAt s p).engs.filter (fun z => z.id ≠ k) ∧ (∀ q, q ≠ p → qAt t q = qAt s q ∧ elemAt t q = elemAt s q) ∧
      SameMemory s t ∧ SameRest s t

/-- R255 to R257: the merge unit takes one record or end token in an fc: it sends what R256 emits and its queues and counts are as R256 leaves
them; when the last token of a run with a record out of order has been discarded, ORDER is set, and not before. -/
def Sys2Proof.Claims.MergeGoesOn : Prop :=
  ∀ (p : Pos) (s : State) (i : Nat) (v : View), mergeEnabled s p = true → mrgEntry s p = some (i, v) →
    let g := (qAt s p).merge
    let a := mergeNext (mrgMode v) g
    Completes (.mergeRecord p) s fun t =>
      (qAt t p).merge = { mergeAfter g a with lastRun := s.fc + 1, since := s.fc + 1 } ∧
      ((∀ o ∈ mergeOuts v g a, o.2 ≠ noTag) → (elemAt t p).out.length =
        (elemAt s p).out.length + tokenCount (tablesAt s p) ((mergeOuts v g a).map (·.1))) ∧
      (∀ r, regionOf s p = some r → ∃ r', regionAt t r.id = some r' ∧
        ((mergeOver g a).isSome → r'.rflags.getLsbD 1 = true) ∧ (mergeOver g a = none → r'.rflags = r.rflags)) ∧
      SameMemory s t ∧ SameRest s t

/-- R256: with both queues' heads records in order: SORT takes the lesser key, A's of equal ones; UNION and ISECT take both of equal keys and keep
A's; of different keys UNION emits the lesser, ISECT drops it. -/
def Sys2Proof.Claims.MergeOrder : Prop :=
  ∀ (mode : Nat × Bool) (g : Merge) (x y : Wide × Tag) (l k : List (Wide × Tag)), g.qa = x :: l → g.qb = y :: k →
    g.doneA = false → g.doneB = false → g.skip = false → recEnd x.1 = false → recEnd y.1 = false →
    (g.na ≠ 0 → mrgOrdered mode g.lka (recKey x.1) = true) → (g.nb ≠ 0 → mrgOrdered mode g.lkb (recKey y.1) = true) →
    let key := fun (w : Wide × Tag) => if mode.2 then (recKey w.1).toInt else ((recKey w.1).toNat : Int)
    (mode.1 = 0 → mergeNext mode g = .emit (decide (key y < key x)) false) ∧
    (mode.1 ≠ 0 → key x = key y → mergeNext mode g = .emit false true) ∧
    (mode.1 = 1 → key x ≠ key y → mergeNext mode g = .emit (decide (key y < key x)) false) ∧
    (mode.1 = 2 → key x ≠ key y → mergeNext mode g = .drop (decide (key y < key x)))

/-- R254, R256, R257: an end token ends its side's run. When it is the later of the two, an end token with ERR as either side's had it and the
number of records emitted goes to D0 and that number to D1, under the tag of side A's end token, and the next run begins at 0. A record
out of order sends an end token with ERR 1 and the number emitted so far, and that number, under its own tag. -/
def Sys2Proof.Claims.MergeEnds : Prop :=
  ∀ (v : View) (g : Merge), g.skip = false →
    let mode := mrgMode v
    let a := mergeNext mode g
    let sends := fun (err : Bool) (tag : Tag) => ∃ w : Word, field w 63 32 = 0 ∧ w.getLsbD 31 = true ∧ w.getLsbD 30 = err ∧
      field w 29 0 = min g.cnt (2 ^ 30 - 1) ∧
      mergeOuts v g a = (outOf (dstNat v.d0) (ofWord w) false false ++ outOf (dstNat v.d1) (ofWord (nat64 g.cnt)) false false).map (·, tag)
    let fresh := fun (t : Merge) => t.na = 0 ∧ t.nb = 0 ∧ t.cnt = 0 ∧ t.doneA = false ∧ t.doneB = false ∧ t.bad = false
    (∀ x l, g.doneA = false → g.qa = x :: l → recEnd x.1 = true → (mergeAfter g a).qa = l ∧ (mergeAfter g a).qb = g.qb ∧
      (g.doneB = false → mergeOuts v g a = [] ∧ (mergeAfter g a).doneA = true ∧ (mergeAfter g a).cnt = g.cnt ∧
        (mergeAfter g a).bad = (g.bad || x.1.getLsbD 30) ∧ (mergeAfter g a).ta = x.2) ∧
      (g.doneB = true → sends (g.bad || x.1.getLsbD 30) x.2 ∧ fresh (mergeAfter g a))) ∧
    (∀ y k, g.doneA = true → g.doneB = false → g.qb = y :: k → recEnd y.1 = true → (mergeAfter g a).qb = k ∧ (mergeAfter g a).qa = g.qa ∧
      sends (g.bad || y.1.getLsbD 30) g.ta ∧ fresh (mergeAfter g a)) ∧
    (∀ x l, g.doneA = false → g.qa = x :: l → recEnd x.1 = false → g.na ≠ 0 → mrgOrdered mode g.lka (recKey x.1) = false →
      sends true x.2 ∧ (mergeAfter g a).skip = true)

/-! ## The part's own moves: memory (spec/11) -/

namespace Sys2Proof.Claims

open Sys2Proof Sys2Proof.Machine

/-- The entry that validates a request at a place (R185, R270). -/
def entryThere (s : State) (r : Region) (q : MemReq) (place : Pos) : HandleEntry := reqEntry s r q.client place q.h q.op.reads

/-- A request goes no further: it is gone, and its error leaves for its region's control point; no byte of memory changes. -/
def Refused (s : State) (q : MemReq) (r : Region) (code : Nat) (t : State) : Prop :=
  (∀ y ∈ t.chip.reqs, y.id ≠ q.id) ∧
    (∃ m ∈ t.chip.net, m.dst = controlPoint r.homeClu ∧ m.body = .error r.id ⟨reqCode q code, reqSource q, reqEntryNo q, q.tag, 0⟩) ∧
    SameMemory s t ∧ t.fc = s.fc

/-- A part of a request is left like this. -/
def PartIs (t : State) (k j : Nat) (c : MemReq → Part → Prop) : Prop := ∃ q p, partAtReq t k j = some (q, p) ∧ c q p

/-- The address of a byte of a lane in its 64-byte block of HBM. -/
def blockByte (q : MemReq) (a : Nat) (l : Nat × Nat) : Nat := a / 64 * 64 + (q.ent.va + l.2) % 64

/-- A part that has its translation, its timer running from now (R288, R364). -/
def translatedPart (s : State) (p : Part) (x : TlbEntry) (extra : Nat) (slot : Option Nat) : Part :=
  { p with st := .hub, slot := slot, timer := some s.fc, pa := some (leafAddr x.level x.leaf p.va), key := some (leafKey x.leaf), due := s.fc + extra,
           owes := false }

/-- A part that no longer faults: the PFC of its frame falls only where its fault was answered (R290, R359, assumption 119). -/
def framesStay (s : State) (p : Part) (t : State) : Prop := p.owes = false → t.frames = s.frames

/-- A request of no lane is over where it has been taken in: its reply's tokens leave there, and no byte of memory changes (R271, R299). -/
def EmptyAnswered (s : State) (q : MemReq) (m : Msg) (place : Pos) (t : State) : Prop :=
  (∃ l, t.chip.net = s.chip.net.filter (fun y => y.id ≠ m.id) ++ l ∧
    (l.filter fun y => y.body = .token).map (fun y => (y.src, y.dst)) = q.tokens.map fun w => (place, routePos w)) ∧
    SameMemory s t ∧ t.fc = s.fc

/-- Each lane of a part lies within its 64-byte block (R275). -/
def inBlock (q : MemReq) (p : Part) : Prop := ∀ l ∈ p.lanes, (q.ent.va + l.2) % 64 + q.n ≤ 64

/-- What a lane's bytes are written at on the chip: line by line from the lane's offset. -/
def chipByte (q : MemReq) (l : Nat × Nat) (i : Nat) : Nat := chipAddr q (l.2 + 32 * (i / 32)) + i % 32

/-- Each 32 bytes of a lane lie within one line, and different ones in different lines (R191). -/
def inLines (q : MemReq) (l : Nat × Nat) : Prop :=
  (∀ i, 32 * i < q.n → chipAddr q (l.2 + 32 * i) % 32 + min 32 (q.n - 32 * i) ≤ 32) ∧
    ∀ i j, 32 * i < q.n → 32 * j < q.n → chipAddr q (l.2 + 32 * i) / 32 = chipAddr q (l.2 + 32 * j) / 32 → i = j

/-- A byte of the memory on the chip of a level, and the owner of its line. -/
def chipMem (s : State) (level a : Nat) : Byte := if level = 0 then s.spad.read a else s.sram.read a
def chipOwner (s : State) (level a : Nat) : Nat := ownerOf (if level = 0 then s.chip.spadOwner else s.chip.sramOwner) (a / 32)

end Sys2Proof.Claims

/-- R185, R272, R276, R288, R295, R364: a request that its port's copy of the table cannot serve ends with EHANDLE, one with a lane out of range
with EPROT; one it can serve is divided into its 64-byte blocks and waits for slots, and a store acknowledged at cluster scope is so then; one of no lane
is over there.
The first that waits, when as many slots are free, gives each block one and its timer, and seeks its translation: in the cluster's TLB, in the
die's with 16 fc more, or it waits to be sought. -/
def Sys2Proof.Claims.TransactionsTaken : Prop :=
  ∀ (k : Nat) (s : State) (q : MemReq), acquireEnabled s k = true → reqAt s k = some q →
    (∀ m r, awaitsSlots q = false → requestMsg s k = some m → regionAt s q.r = some r →
      let e := Claims.entryThere s r q (memoryPort q.p)
      let outside := q.parts.any fun p => p.lanes.any fun l => outOfRange e q.n l.2
      (q.dead = false → entryServes r q e = false → Completes (.transactionAcquire k) s (Claims.Refused s q r codeEhandle)) ∧
      (q.dead = false → entryServes r q e = true → outside = true → Completes (.transactionAcquire k) s (Claims.Refused s q r codeEprot)) ∧
      (entryServes r q e = true → outside = false → blocksOf e q = [] → q.client = .instr → q.silent = false → q.dead = false → q.acked = false →
        Completes (.transactionAcquire k) s (Claims.EmptyAnswered s q m (memoryPort q.p))) ∧
      (entryServes r q e = true → outside = false → blocksOf e q ≠ [] → Completes (.transactionAcquire k) s fun t =>
        (∃ q', reqAt t k = some q' ∧ q'.ent = e ∧ q'.parts.map (·.lanes) = blocksOf e q ∧
          ∀ p ∈ q'.parts, p.st = .port ∧ p.slot = none ∧ p.va = e.va + (p.lanes.headD (0, 0)).2) ∧
        (∃ l, t.chip.net = s.chip.net.filter (fun y => y.id ≠ m.id) ++ l ∧ (q.scope ≠ .cluster ∨ q.ack = false → l = [])) ∧
        t.frames = s.frames ∧ SameMemory s t ∧ t.fc = s.fc)) ∧
    ∀ slots, awaitsSlots q = true → takeSlots s q.p q.parts.length = some slots →
      let clu := fun (p : Part) => tlbFind (cluTlbAt s q.p) q.part p.va
      let die := fun (p : Part) => tlbFind (dieTlbAt s q.p.die) q.part p.va
      ((∀ p ∈ q.parts, clu p = none ∧ die p = none) → Completes (.transactionAcquire k) s fun t =>
        (∃ q', reqAt t k = some q' ∧ q'.parts.map (·.lanes) = q.parts.map (·.lanes) ∧ q'.parts.map (·.slot) = slots.map some ∧
          ∀ p ∈ q'.parts, p.st = .hub ∧ p.pa = none ∧ p.timer = some s.fc) ∧ t.frames = s.frames ∧ SameMemory s t ∧ t.fc = s.fc) ∧
      ∀ p n x, q.parts = [p] → slots = [n] → (clu p).orElse (fun _ => die p) = some x →
        (permitted s q x.level x.leaf p.va = true → Completes (.transactionAcquire k) s fun t =>
          Claims.PartIs t k 0 (fun _ p' => p' = Claims.translatedPart s p x (if (clu p).isSome then 0 else 16) (some n)) ∧
          Claims.framesStay s p t ∧ SameMemory s t ∧ t.fc = s.fc) ∧
        (∀ r, permitted s q x.level x.leaf p.va = false → regionAt s q.r = some r → q.dead = false →
          Completes (.transactionAcquire k) s (Claims.Refused s q r codeEprot))

/-- R185, R197, R270, R273, R299, R307, R308: a request of on-chip memory is taken in where its data is, by that place's copy of the table, or ends with
EHANDLE; one of no lane is over there. A translated part passes its die's hub to its controller's queue or out through its window, after what passed before it to the
same home. A part's reply that is back at the port ends its timer and frees its slot, unless the request's slots wait for a message; the last
one sends the request's reply from the port. -/
def Sys2Proof.Claims.RequestsPass : Prop :=
  ∀ (k j : Nat) (s : State) (q : MemReq) (p : Part), performEnabled s k j = true → partAtReq s k j = some (q, p) →
    (∀ m r, p.st = .sent → requestMsg s k = some m → regionAt s q.r = some r →
      let e := Claims.entryThere s r q q.home
      let blocks := groupBlocks (· % e.ext) (q.parts.flatMap (·.lanes))
      (entryServes r q e = true → blocks = [] → q.client = .instr → q.silent = false → q.dead = false → q.acked = false →
        Completes (.memoryRequest k j) s (Claims.EmptyAnswered s q m q.home)) ∧
      (entryServes r q e = true → blocks ≠ [] → Completes (.memoryRequest k j) s fun t =>
        (∃ q', reqAt t k = some q' ∧ q'.ent = e ∧ q'.parts.map (·.lanes) = blocks ∧
          ∀ p' ∈ q'.parts, p'.st = .bank ∧ p'.due = s.fc + q.out') ∧
        t.chip.net = s.chip.net.filter (fun y => y.id ≠ m.id) ∧ SameMemory s t ∧ SameRest s t) ∧
      (entryServes r q e = false → q.dead = false → Completes (.memoryRequest k j) s (Claims.Refused s q r codeEhandle))) ∧
    (∀ a, p.st = .hub → p.pa = some a → Completes (.memoryRequest k j) s fun t =>
      Claims.PartIs t k j (fun _ p' => p'.st = (if localHbm a then .queued else .outside) ∧ p'.pa = some a ∧ p'.lanes = p.lanes ∧
        s.fc + q.out' ≤ p'.due ∧ lastDueTo s q.p.die (homeOf a) ≤ p'.due) ∧
      (∃ l, t.chip.net = s.chip.net ++ l ∧ (q.scope ≠ .die ∨ q.ack = false → l = [])) ∧ t.frames = s.frames ∧ SameMemory s t ∧ t.fc = s.fc) ∧
    (p.st = .returning → (q.parts.mapIdx fun i y => decide (i = j) || y.st == .performed).all id = false →
      Completes (.memoryRequest k j) s fun t =>
        Claims.PartIs t k j (fun _ p' => p' =
          { p with st := .performed, timer := none, slot := if keepsSlots q && !q.dead then p.slot else none }) ∧
        t.chip.net = s.chip.net ∧ SameMemory s t ∧ SameRest s t) ∧
    (p.st = .returning → (q.parts.mapIdx fun i y => decide (i = j) || y.st == .performed).all id = true → q.client = .instr →
      q.silent = false → q.dead = false → q.acked = false → Completes (.memoryRequest k j) s fun t =>
        (∃ l, t.chip.net = s.chip.net ++ l ∧ (l.filter fun m => m.body = .token).map (fun m => (m.src, m.dst)) =
          q.tokens.map fun w => (memoryPort q.p, routePos w)) ∧
        SameMemory s t ∧ SameRest s t)

/-- R270, R273, R287, R316, R383, R389: the last reply of a request that is back at its port ends it: a completion with no value, and what an instruction's own
unit or an engine awaits, leaves as a message of KIND 3 with as many flits as its bytes take; a walker reads its next level or has its entry;
a read of the graph engines has its bytes; a host's read has its bytes in `bar1`; a peer has its answer; and of a dead request nothing is left. -/
def Sys2Proof.Claims.RequestsReturn : Prop :=
  ∀ (k j : Nat) (s : State) (q : MemReq) (p : Part), performEnabled s k j = true → partAtReq s k j = some (q, p) → p.st = .returning →
    (q.parts.mapIdx fun i y => decide (i = j) || y.st == .performed).all id = true →
    let gone := fun (t : State) => ∀ y ∈ t.chip.reqs, y.id ≠ k
    let message := q.dead = false ∧ ((q.client = .instr ∧ q.silent = true) ∨ (∃ u o, q.client = .walk u o) ∨ (∃ u o, q.client = .condw u o) ∨
      (∃ u e n, q.client = .eng u e n) ∨ (∃ n o, q.client = .fill n o) ∨ ∃ u c, q.client = .mill u c)
    (q.dead = true → Completes (.memoryRequest k j) s fun t => gone t ∧ t.chip.net = s.chip.net ∧ SameMemory s t ∧ SameRest s t) ∧
    (message → Completes (.memoryRequest k j) s fun t =>
      (∃ m, t.chip.net = s.chip.net ++ [m] ∧ m.body = .done k ∧ m.src = memoryPort (clientPlace q.client q.p) ∧ m.dst = clientPlace q.client q.p ∧
        m.net = .reply ∧ kindOf m.hdr = 3 ∧ m.due = s.fc ∧ m.more.length = (q.replyBytes + 63) / 64 - 1 ∧ (q.replyBytes ≠ 0 → m.pay = q.val)) ∧
      SameMemory s t ∧ SameRest s t) ∧
    (q.client = .instr → q.silent = false → q.dead = false → q.acked = true → Completes (.memoryRequest k j) s fun t =>
      t.chip.net = s.chip.net ∧ SameMemory s t ∧ SameRest s t) ∧
    (∀ f i off x, q.client = .fetch f i off → q.dead = false → s.chip.fetches.find? (fun y => y.id = f) = some x →
      Completes (.memoryRequest k j) s fun t => gone t ∧
        (∃ x', t.chip.fetches.find? (fun y => y.id = f) = some x' ∧ x'.key = x.key ∧ x'.left = x.left - 1 ∧ x'.data = x.data.mapIdx fun n d =>
          if n = i then d.map fun v => v.take off ++ readBytes q ++ v.drop (off + (readBytes q).length) else d) ∧
        t.chip.net = s.chip.net ∧ SameMemory s t ∧ SameRest s t) ∧
    (∀ o, q.client = .record o → q.dead = false → Completes (.memoryRequest k j) s fun t => gone t ∧
      (∀ y ∈ t.chip.obs, some y.id = o → y.st = .written) ∧ (o = none → t.chip.obs = s.chip.obs) ∧
      t.chip.net = s.chip.net ∧ SameMemory s t ∧ SameRest s t) ∧
    (∀ m x, q.client = .walker m → q.dead = false → missAt s m = some x → Completes (.memoryRequest k j) s fun t =>
      (k < s.nextId → gone t) ∧
      (x.level = 0 ∨ entryEnd x.level (lowWord q.val) ≠ none → ∃ x', missAt t m = some x' ∧ x' = { x with got := some (lowWord q.val) }) ∧
      (∀ l, x.level = l + 1 → entryEnd x.level (lowWord q.val) = none →
        (∃ x', missAt t m = some x' ∧ x' = { x with level := l, table := entryAddr (lowWord q.val) }) ∧
        ∃ y ∈ t.chip.reqs, y.client = .walker m ∧ y.parts.map (·.pa) = [some (entryAddr (lowWord q.val) + 8 * tableIndex l x.va)]) ∧
      SameMemory s t ∧ SameRest s t) ∧
    (∀ fn off, q.client = .host fn off → q.dead = false → Completes (.memoryRequest k j) s fun t =>
      gone t ∧ (q.op.reads = true → (fnAt t fn).bar1 =
        (fnAt s fn).bar1.take off ++ readBytes q ++ (fnAt s fn).bar1.drop (off + (readBytes q).length)) ∧
      (q.op.reads = false → t.chip.fns = s.chip.fns) ∧ SameMemory s t ∧ SameRest s t) ∧
    ∀ n, q.client = .peer n → q.dead = false → Completes (.memoryRequest k j) s fun t =>
      gone t ∧ t.chip.peerIn = s.chip.peerIn.filter (fun x => x.1 ≠ n) ∧
      t.chip.peerOut = s.chip.peerOut ++ (s.chip.peerIn.filter fun x => x.1 = n).map (fun x => ⟨n, .answer, x.2, some (match q.op with
        | .engRead => readBytes q
        | .atomic _ => bytesOf q.val q.n
        | _ => [])⟩) ∧ SameMemory s t ∧ SameRest s t

/-- R275, R281, R293, R299, R300, R304: a part being served at its controller is performed there under its key, when its block holds no error: a read
takes the bytes of its lanes, and changes no byte of memory; a store's bytes are written at its lanes' addresses, those of a
later lane over an earlier one's, and an atomic's new value over the old; the other bytes of the block, and every other block, read as
before. Its reply is then on its way. -/
def Sys2Proof.Claims.ControllersPerform : Prop :=
  ∀ (k j : Nat) (s : State) (q : MemReq) (p : Part) (a : Nat), performEnabled s k j = true → partAtReq s k j = some (q, p) →
    p.st = .serving → p.pa = some a → partBad s q p = false → Claims.inBlock q p → MemoryOk s →
    let key := partKey s q p
    let at' := Claims.blockByte q a
    let old := fun l => hbmBytes s key (at' l) q.n
    Completes (.memoryRequest k j) s fun t =>
      (∀ x, t.spad.read x = s.spad.read x) ∧ (∀ x, t.sram.read x = s.sram.read x) ∧
      (q.op.writes = false → ∀ x, t.hbm.read x = s.hbm.read x) ∧ (∀ x, x / 64 ≠ a / 64 → t.hbm.read x = s.hbm.read x) ∧
      (∀ x, (∀ l ∈ p.lanes, x < at' l ∨ at' l + q.n ≤ x) → hbmByte t key x = hbmByte s key x) ∧
      (q.op.writes = true → q.op.reads = false → ∀ pre l post, p.lanes = pre ++ l :: post → ∀ i, i < q.n →
        (∀ m ∈ post, at' l + i < at' m ∨ at' m + q.n ≤ at' l + i) → hbmByte t key (at' l + i) = ((laneBytes q q.b l.1)[i]?).getD 0) ∧
      (∀ op l, q.op = .atomic op → p.lanes = [l] → ∀ i, i < q.n → hbmByte t key (at' l + i) =
        ((bytesOf (ofWord (atomicNew op q.n (lowWord (ofBytes (old l))) (lowWord q.b) (lowWord q.c)).1) q.n)[i]?).getD 0) ∧
      Claims.PartIs t k j (fun q' p' => p'.st = .returning ∧ p'.due = s.fc + 12 * diesCrossed q.p.die (ctrlDie (ctrlOf a)) + q.back ∧
        (q.op.reads = true → q.op.writes = false →
          q'.val = p.lanes.foldl (fun v l => v ||| (ofBytes (old l) <<< lanePos q.op l.1)) q.val) ∧
        (∀ op l, q.op = .atomic op → p.lanes = [l] → q'.val = q.val ||| (ofBytes (old l) <<< lanePos q.op l.1))) ∧
      t.fc = s.fc

/-- R191, R193, R195, R197, R300: a part is performed at its bank, in a scratchpad or a cluster SRAM, at its offset modulo the extent, when its lines hold
no error: a read changes no byte of memory, and takes zeros for a line of another partition, an engine's or a walk's throughout; a store's bytes are
written at its lanes' addresses and an atomic's new value over the old; the other bytes of the lines it writes read as before, or as zeros where the
line was another partition's, and every other line as before. -/
def Sys2Proof.Claims.ClustersPerform : Prop :=
  ∀ (k j : Nat) (s : State) (q : MemReq) (p : Part), performEnabled s k j = true → partAtReq s k j = some (q, p) →
    p.st = .bank → q.level < 2 → partBad s q p = false → MemoryOk s → (∀ l ∈ p.lanes, Claims.inLines q l) →
    let at' := Claims.chipByte q
    let mine := fun x => Claims.chipOwner s q.level x = q.part
    Completes (.memoryRequest k j) s fun t =>
      (∀ x, t.hbm.read x = s.hbm.read x) ∧ (∀ x, Claims.chipMem t (1 - q.level) x = Claims.chipMem s (1 - q.level) x) ∧
      (q.op.writes = false → ∀ x, Claims.chipMem t q.level x = Claims.chipMem s q.level x) ∧
      (∀ x, (∀ l ∈ p.lanes, ∀ i, i < q.n → at' l i / 32 ≠ x / 32) → Claims.chipMem t q.level x = Claims.chipMem s q.level x) ∧
      (∀ l, q.op.writes = true → p.lanes = [l] → ∀ x, (∀ i, i < q.n → at' l i ≠ x) → (∃ i, i < q.n ∧ at' l i / 32 = x / 32) →
        Claims.chipMem t q.level x = if mine x then Claims.chipMem s q.level x else 0) ∧
      (q.op.writes = true → q.op.reads = false → ∀ pre l post, p.lanes = pre ++ l :: post → (∀ m ∈ p.lanes, ∀ i, i < q.n → mine (at' m i)) ∨
          p.lanes = [l] → ∀ i, i < q.n → (∀ m ∈ post, ∀ n, n < q.n → at' m n ≠ at' l i) →
        Claims.chipMem t q.level (at' l i) = ((laneBytes q q.b l.1)[i]?).getD 0) ∧
      (∀ op l, q.op = .atomic op → p.lanes = [l] → ∀ i, i < q.n → Claims.chipMem t q.level (at' l i) =
        ((bytesOf (ofWord (atomicNew op q.n (lowWord (ofBytes (chipRead s q l.2))) (lowWord q.b) (lowWord q.c)).1) q.n)[i]?).getD 0) ∧
      (∀ l, q.op.reads = true → p.lanes = [l] → q.dead = false → q.acked = false → (hubDie q).isSome → ∃ q', reqAt t k = some q' ∧
        q'.val = q.val ||| (ofBytes (chipRead s q l.2) <<< lanePos q.op l.1)) ∧
      (∀ l, p.lanes = [l] → wholeRead q.client = false → chipRead s q l.2 =
        if ∀ i, i < q.n → mine (chipAddr q (l.2 + i)) then (List.range q.n).map fun i => Claims.chipMem s q.level (chipAddr q (l.2 + i))
        else List.replicate q.n 0) ∧
      t.fc = s.fc

/-- R282, R425: the bank serves a part in 24, 54 or 84 fc as its row is open, the bank closed or another row open, and 24 more for the write of an
atomic or a partial write, after the parts it is serving and those it must follow; the part's row is open from then on. That the times of "Where the
time goes" hold for every request, with no delay of the bank's own, is the model's choice (log entry 24). -/
def Sys2Proof.Claims.BanksServe : Prop :=
  ∀ (k j : Nat) (s : State) (q : MemReq) (p : Part) (a : Nat), serveEnabled s k j = true → partAtReq s k j = some (q, p) →
    p.pa = some a → Completes (.hbmServe k j) s fun t =>
      let row := (bankAt s (ctrlOf a) (bankNo a)).row
      Claims.PartIs t k j (fun _ p' => p'.st = .serving ∧ p'.lanes = p.lanes ∧ p'.pa = p.pa ∧
        p'.due = max (s.fc + (if row = some (rowNo a) then 24 else if row = none then 54 else 84) +
          if q.op.writes ∧ readsBlock q p then 24 else 0) (lastServed s (q, j, p) (ctrlOf a) (bankNo a))) ∧
      (bankAt t (ctrlOf a) (bankNo a)).row = some (rowNo a) ∧
      (∀ c, c ≠ ctrlOf a → ctrlAt t c = ctrlAt s c) ∧ SameMemory s t ∧ SameRest s t

/-- R283, R284: a refresh that comes due raises its bank's count and the next is due an interval later, half as long on a hot stack and shifted as its
stagger changes; a ninth starts a catch-up. A refresh lowers the count, closes the bank and holds it 160 ns; a catch-up closes every bank, takes
3,280 ns and leaves every count 0. A stack is hot above 85 °C until it is below 83 °C. -/
def Sys2Proof.Claims.Refreshes : Prop :=
  (∀ (c b : Nat) (s : State), refreshDueEnabled s c b = true → Completes (.refreshDue c b) s fun t =>
    let was := (bankAt s c b).hot
    let is := stackHot s c
    (bankAt t c b).owed = (bankAt s c b).owed + 1 ∧ (bankAt t c b).hot = is ∧
    refreshAt t c b = refreshAt s c b + 18 * (if is then 1950 else 3900) + (if was = true ∧ is = false then 18 * (122 * b) else 0) -
      (if was = false ∧ is = true then 18 * (122 * b) else 0) ∧
    ((ctrlAt t c).catchDue = ((ctrlAt s c).catchDue || decide (8 ≤ (bankAt s c b).owed))) ∧
    (∀ d, d ≠ c → ctrlAt t d = ctrlAt s d) ∧ (∀ d, d ≠ b → bankAt t c d = bankAt s c d) ∧ SameMemory s t ∧ SameRest s t) ∧
  (∀ (c b : Nat) (s : State), refreshIssueEnabled s c b = true → Completes (.refreshIssue c b) s fun t =>
    bankAt t c b = { bankAt s c b with owed := (bankAt s c b).owed - 1, row := none, refEnd := some (s.t18 + 160 * 18) } ∧
    (∀ d, d ≠ c → ctrlAt t d = ctrlAt s d) ∧ (∀ d, d ≠ b → bankAt t c d = bankAt s c d) ∧ SameMemory s t ∧ SameRest s t) ∧
  (∀ (c b : Nat) (s : State), refreshEndEnabled s c b = true → Completes (.refreshEnd c b) s fun t =>
    bankAt t c b = { bankAt s c b with refEnd := none } ∧ (∀ d, d ≠ c → ctrlAt t d = ctrlAt s d) ∧ SameMemory s t ∧ SameRest s t) ∧
  (∀ (c : Nat) (s : State), catchUpEnabled s c = true → Completes (.catchUp c) s fun t =>
    (ctrlAt t c).catchEnd = some (s.t18 + 3280 * 18) ∧ (∀ b, (bankAt t c b).row = none ∧ (bankAt t c b).owed = (bankAt s c b).owed) ∧
    (∀ d, d ≠ c → ctrlAt t d = ctrlAt s d) ∧ SameMemory s t ∧ SameRest s t) ∧
  (∀ (c : Nat) (s : State), catchUpEndEnabled s c = true → Completes (.catchUpEnd c) s fun t =>
    (ctrlAt t c).catchEnd = none ∧ (ctrlAt t c).catchDue = false ∧ (∀ b, (bankAt t c b).owed = 0) ∧
    (∀ d, d ≠ c → ctrlAt t d = ctrlAt s d) ∧ SameMemory s t ∧ SameRest s t) ∧
  ∀ (g : Nat) (x : Int) (s : State), g < 16 → Completes (.temperatureReading g x) s fun t =>
    (∀ c, stackHot t c = if c / 64 = g then decide (85 < x) || (stackHot s c && decide (83 ≤ x)) else stackHot s c) ∧
    SameMemory s t ∧ SameRest s t

/-- R286 to R288: a part with no translation waits at its page's miss; a new one is read for by one of its die's 64 walkers, from the root of its
partition's tables. That misses are merged by 16 KiB page before the leaf is known is the model's choice (log entry 104). -/
def Sys2Proof.Claims.MissesWalk : Prop :=
  ∀ (k j : Nat) (s : State) (q : MemReq) (p : Part), missEnabled s k j = true → partAtReq s k j = some (q, p) →
    Completes (.pendingMiss k j) s fun t =>
      Claims.PartIs t k j (fun _ p' => p'.st = .miss ∧ p'.va = p.va) ∧
      (∃ m ∈ t.chip.misses, m.die = q.p.die ∧ m.part = q.part ∧ m.va / 2 ^ 14 = p.va / 2 ^ 14 ∧ (k, j) ∈ m.waiters) ∧
      (missFor s q p = none → walksOn s q.p.die < 64 → missAt s s.nextId = none →
        (∃ m ∈ t.chip.misses, m.id = s.nextId ∧ m.walking = true ∧ m.level = 3 ∧ m.got = none) ∧
        ∃ y, t.chip.reqs.map (·.id) = s.chip.reqs.map (·.id) ++ [y.id] ∧ y ∈ t.chip.reqs ∧ y.client = .walker s.nextId ∧ y.op = .load false ∧
          y.n = 8 ∧ ∃ z, y.parts = [z] ∧ z.pa = some (rootOf s q.part + 8 * tableIndex 3 p.va)) ∧
      SameMemory s t ∧ t.frames = s.frames ∧ t.fc = s.fc

/-- R287 to R290: a walk that has read its last entry ends. At a leaf that permits the access, the leaf is in the die's TLB and the part that waited has its
address and its key; one that does not permit it, and a malformed entry, raise EPROT. At an absent entry the frame is parked, a fault record
written and the host interrupted; with a full queue the part is held with its frame parked, and at 63 faults of the frame it is held; the part
keeps the time of its fault. A replay that faults again keeps its frame as it is. A store whose pages were there when it left keeps to their
leaves (the model's choice: assumption 86), and an adjunct fill raises EADJ instead. -/
def Sys2Proof.Claims.WalksEnd : Prop :=
  ∀ (n k j : Nat) (s : State) (m : Miss) (e : Word) (q : MemReq) (p : Part), walkEnabled s n = true → missAt s n = some m →
    m.got = some e → m.again = false → m.waiters = [(k, j)] → partAtReq s k j = some (q, p) → p.st = .miss →
    let f := frameOf q.tag
    let held := fun (c : Option (Nat × Word)) (t : State) => Claims.PartIs t k j (fun _ p' => p'.st = .held c ∧ p'.timer = none ∧ p'.va = p.va) ∧
      t.chip.faults = s.chip.faults ∧ SameMemory s t ∧ t.fc = s.fc
    (∀ level w, entryEnd m.level e = some (.leaf level w) → permitted s q level w p.va = true → Completes (.walkComplete n) s fun t =>
      (∃ x ∈ dieTlbAt t m.die, x.part = m.part ∧ x.level = level ∧ x.page = m.va / 2 ^ pageBits level ∧ x.leaf = w) ∧
      Claims.PartIs t k j (fun _ p' => p' = { p with st := .hub, pa := some (leafAddr level w p.va), key := some (leafKey w), due := s.fc, owes := false }) ∧
      (∀ y ∈ t.chip.misses, y.id ≠ n) ∧ SameMemory s t ∧ Claims.framesStay s p t ∧ t.fc = s.fc) ∧
    (∀ r, (∃ level w, entryEnd m.level e = some (.leaf level w) ∧ permitted s q level w p.va = false) ∨
        (∃ level x, entryEnd m.level e = some (.absent level) ∧ pinnedLeaf s k j = some x ∧ permitted s q x.1 x.2 p.va = false) ∨
        entryEnd m.level e = some .malformed →
      regionAt s q.r = some r → q.dead = false → q.parts = [p] → Completes (.walkComplete n) s (Claims.Refused s q r codeEprot)) ∧
    (∀ level r a b, entryEnd m.level e = some (.absent level) → pinnedLeaf s k j = none → q.client = .fill a b → regionAt s q.r = some r →
      q.dead = false → q.parts = [p] → Completes (.walkComplete n) s (Claims.Refused s q r codeEadj)) ∧
    (∀ level x, entryEnd m.level e = some (.absent level) → pinnedLeaf s k j = some x → permitted s q x.1 x.2 p.va = true →
      Completes (.walkComplete n) s fun t => Claims.PartIs t k j (fun _ p' => p' =
          { p with st := .hub, pa := some (leafAddr x.1 x.2 p.va), key := some (leafKey x.2), due := s.fc, owes := false }) ∧
        SameMemory s t ∧ Claims.framesStay s p t ∧ t.fc = s.fc) ∧
    ∀ level, entryEnd m.level e = some (.absent level) → pinnedLeaf s k j = none → (∀ a b, q.client ≠ .fill a b) → q.dead = false →
      (p.owes = true → faultQueueFull s q.part = false → Completes (.walkComplete n) s fun t =>
        (∃ y, t.chip.faults = s.chip.faults ++ [y] ∧ y.fid = s.chip.nextFid.toNat ∧ y.part = q.part ∧ y.va = p.va ∧ y.level = level ∧
          y.answer = none) ∧
        Claims.PartIs t k j (fun _ p' => p'.st = .fault s.chip.nextFid.toNat ∧ p'.timer = none ∧ p'.owes = false) ∧ t.frames = s.frames ∧
        t.chip.irqs = s.chip.irqs ++ [.fault q.part] ∧ t.fc = s.fc) ∧
      (p.owes = true → faultQueueFull s q.part = true → Completes (.walkComplete n) s fun t =>
        held (some (level, nat64 (timeNs s))) t ∧ t.frames = s.frames) ∧
      (p.owes = false → (frameAt s f).pfc < 63 → faultQueueFull s q.part = false → Completes (.walkComplete n) s fun t =>
        (∃ y, t.chip.faults = s.chip.faults ++ [y] ∧ y.fid = s.chip.nextFid.toNat ∧ y.part = q.part ∧ y.va = p.va ∧ y.level = level ∧
          y.answer = none) ∧
        Claims.PartIs t k j (fun _ p' => p'.st = .fault s.chip.nextFid.toNat ∧ p'.timer = none) ∧
        frameAt t f = { frameAt s f with pfc := (frameAt s f).pfc + 1 } ∧ (∀ g, g ≠ f → frameAt t g = frameAt s g) ∧
        t.chip.irqs = s.chip.irqs ++ [.fault q.part] ∧ t.fc = s.fc) ∧
      (p.owes = false → (frameAt s f).pfc < 63 → faultQueueFull s q.part = true → Completes (.walkComplete n) s fun t =>
        held (some (level, nat64 (timeNs s))) t ∧
        frameAt t f = { frameAt s f with pfc := (frameAt s f).pfc + 1 } ∧ (∀ g, g ≠ f → frameAt t g = frameAt s g)) ∧
      (p.owes = false → 63 ≤ (frameAt s f).pfc → Completes (.walkComplete n) s fun t => held none t ∧ t.frames = s.frames)

/-- R290, R364: a part held at 63 faults is translated anew and its timer goes on; one held for the queue writes its record,
with the time at which its fault was met. A held request of a region that has stopped is among them, which is the model's reading (log entry 52). -/
def Sys2Proof.Claims.HeldFaultsRetry : Prop :=
  ∀ (k j : Nat) (s : State) (q : MemReq) (p : Part), retryEnabled s k j = true → partAtReq s k j = some (q, p) →
    let clu := tlbFind (cluTlbAt s q.p) q.part p.va
    let die := tlbFind (dieTlbAt s q.p.die) q.part p.va
    (∀ x, p.st = .held none → clu.orElse (fun _ => die) = some x → permitted s q x.level x.leaf p.va = true →
      Completes (.faultRetry k j) s fun t =>
        Claims.PartIs t k j (fun _ p' => p' = Claims.translatedPart s p x (if clu.isSome then 0 else 16) p.slot) ∧ Claims.framesStay s p t ∧ SameMemory s t ∧
          t.fc = s.fc) ∧
    (p.st = .held none → clu = none → die = none → Completes (.faultRetry k j) s fun t =>
      Claims.PartIs t k j (fun _ p' => p' = { p with st := .hub, pa := none, timer := some s.fc }) ∧ t.frames = s.frames ∧ SameMemory s t ∧
        t.fc = s.fc) ∧
    ∀ level w, p.st = .held (some (level, w)) → Completes (.faultRetry k j) s fun t =>
      (∃ y, t.chip.faults = s.chip.faults ++ [y] ∧ y.fid = s.chip.nextFid.toNat ∧ y.part = q.part ∧ y.va = p.va ∧ y.level = level ∧
        y.answer = none ∧ y.words[3]? = some w) ∧
      Claims.PartIs t k j (fun _ p' => p'.st = .fault s.chip.nextFid.toNat ∧ p'.timer = none) ∧
      t.chip.irqs = s.chip.irqs ++ [.fault q.part] ∧ t.frames = s.frames ∧ t.fc = s.fc

/-- R364, R370: a part whose timer reaches 2^26 fc raises ETIMEOUT with its transaction tag, and its slot is unavailable until the late reply, which is
discarded, frees it. An uncorrectable error that a request of a region meets withholds its data: it is not performed, the block or line is
known to hold the error, and an abort completion goes to the region's control point. The unit and entry of ETIMEOUT's record, and what an abort's report
names, are the model's (log entries 63, 89). -/
def Sys2Proof.Claims.LostTransactions : Prop :=
  ∀ (k j : Nat) (s : State) (q : MemReq) (p : Part), partAtReq s k j = some (q, p) →
    (timeoutEnabled s k j = true → Completes (.transactionTimeout k j) s fun t =>
      (∀ r, regionAt s q.r = some r → q.dead = false → ∃ m ∈ t.chip.net, m.dst = controlPoint r.homeClu ∧
        m.body = .error r.id ⟨reqCode q codeEtimeout, memoryPort q.p, reqEntryNo q, q.tag, nat64 (transTag q p)⟩) ∧
      t.chip.lostSlots = s.chip.lostSlots ++ [(cluOf q.p, p.slot.getD 0, k, j)] ∧
      Claims.PartIs t k j (fun q' p' => q'.dead = true ∧ p' = { p with timer := none, slot := none }) ∧
      (∀ g, g ≠ frameOf q.tag → frameAt t g = frameAt s g) ∧
      Claims.Logged s t ∧ t.fc = s.fc) ∧
    (lateEnabled s k j = true → Completes (.lateReply k j) s fun t =>
      t.chip.lostSlots = s.chip.lostSlots.filter (fun z => !(z.2.2.1 = k ∧ z.2.2.2 = j)) ∧
      (p.st = .returning → ∀ q' p', partAtReq t k j = some (q', p') → p'.st = .performed ∧ p'.slot = none) ∧ SameMemory s t ∧ SameRest s t) ∧
    ∀ r c, uncorrectableEnabled s (.access k j) = true → regionAt s q.r = some r → (hubDie q).isSome → foundCell s q p = some c →
      Completes (.uncorrectableData (.access k) j) s fun t =>
        Claims.PartIs t k j (fun q' p' => q'.dead = true ∧ p'.st = .aborted ∧ p'.timer = none) ∧ c ∈ t.chip.bad ∧
        (∃ m ∈ t.chip.net, m.dst = controlPoint r.homeClu ∧ m.body = .abort r.id ⟨true, some k, reqSource q, reqEntryNo q, q.tag, none⟩) ∧
        Claims.Logged s t ∧
        (∀ g, g ≠ frameOf q.tag → frameAt t g = frameAt s g) ∧ t.fc = s.fc

/-! ## The part's own moves: the mill and the matrix elements (spec/09, spec/10) -/

/-- R264 to R269: a free mill context takes the first request that waits for it. A walk or a count of a row or a column has its coordinates in order,
and begins after its program has been read; a request whose program is not to be had, is malformed or cannot be inverted stops its
region. A binding names the tile, ring and columns that an expansion fills, and lets its instruction go on; an expansion asks for the values
of its first slot. Each coordinate is sent and the next follows; after the last the context is free, and the instruction's count leaves. That an
expansion reads its values when it reaches a slot, and what a walk of a row that is not there sends, is the model's reading (log entry 71). -/
def Sys2Proof.Claims.MillContexts : Prop :=
  ∀ (u : Pos) (c : Nat) (s : State),
    (∀ (m : Msg) (q : MillReq) (r : Region), millReqEnabled s u c = true → nextMillReq s u c = some (m, q) → regionOf s q.p = some r →
      let begun := fun (t : State) => (millAt t u c).busy = true ∧ (millAt t u c).reqs = [q] ∧ (∀ d, d ≠ c → millAt t u d = millAt s u d) ∧
        SameMemory s t ∧ SameRest s t
      let net := s.chip.net.filter (fun y => y.id ≠ m.id)
      let fails := fun (code : Nat) (t : State) =>
        (∃ y, t.chip.net = net ++ [y] ∧ y.dst = controlPoint r.homeClu ∧ y.body = .error r.id ⟨code, millUnit q.p, 0, q.tag, 0⟩) ∧
        t.chip.mills = s.chip.mills ∧ SameMemory s t ∧ SameRest s t
      (∀ col plain, q.kind = .row plain ∧ col = false ∨ q.kind = .col plain ∧ col = true ∨ q.kind = .count col ∧ plain = true →
        (∀ x k len, findPattern s r u q.p q.h col = .pattern x k len → Completes (.millRequest u c) s fun t => begun t ∧
          t.chip.net = net ∧ (millAt t u c).done = 0 ∧ s.fc + len ≤ (millAt t u c).due ∧
          (millAt t u c).coords = if (if col then x.cols else x.rows) ≤ q.index then []
            else if plain then (if col then x.col q.index else x.row q.index).map fun j => (j, 0)
            else if col then x.colCoords q.index else x.rowCoords q.index) ∧
        ∀ code, findPattern s r u q.p q.h col = .error code → Completes (.millRequest u c) s (fails code)) ∧
      (∀ tile ring cb at', q.kind = .bind tile ring cb → walkTile s q.p tile = some at' → Completes (.millRequest u c) s fun t =>
        millAt t u c = { millAt s u c with bound := some (q.h, at', ring, cb) } ∧ t.chip.net = net ∧
        (∀ o, opAt s q.p q.op = some o → ∃ o', opAt t q.p q.op = some o' ∧ o'.wait = .none ∧ o'.due = some s.fc ∧
          o'.outs = outOf (reqDest s q false) 0 false false ++ outOf (reqDest s q true) 0 false false) ∧ SameMemory s t ∧ SameRest s t) ∧
      ∀ k0 kc tb bs, q.kind = .expand k0 kc tb bs →
        (∀ x, expansionOf s u c q = .ok x → (millAt s u c).failed = false → Completes (.millRequest u c) s fun t => begun t ∧
          (millAt t u c).chunk = 0 ∧ (millAt t u c).slot = 0 ∧ s.fc < (millAt t u c).due ∧
          ∀ half l, half = 0 ∨ half = 1 ∧ x.bits = 4 → l = slotCoords x.pat x.tb x.bits x.cb x.k0 0 half → l ≠ [] →
            ∃ y ∈ t.chip.reqs, y.client = .mill (cluOf u) (2 * c + half) ∧ y.h = x.vals ∧ y.op = .engRead ∧
              y.parts.flatMap (·.lanes) = slotLanes x.bits l) ∧
        ∀ code, expansionOf s u c q = .error code → Completes (.millRequest u c) s (fails code)) ∧
    ∀ (q : MillReq), coordEnabled s u c = true → walkingAt s u c = some q →
      let ended := fun (outs : List Out) (t : State) => (millAt t u c).busy = false ∧
        (∀ o, opAt s q.p q.op = some o → ∃ o', opAt t q.p q.op = some o' ∧ o'.wait = .none ∧ o'.due = some s.fc ∧ o'.outs = outs) ∧
        SameMemory s t ∧ SameRest s t
      let word := fun (n : Nat) (one : Bool) => outOf (reqDest s q one) (ofWord (nat64 (n % 2 ^ 32))) false false
      (isCount q = true → Completes (.millCoordinate u c) s
        (ended (word (millAt s u c).coords.length false ++ word (millAt s u c).coords.length true))) ∧
      (∀ y rest, isCount q = false → (millAt s u c).coords = y :: rest → Completes (.millCoordinate u c) s fun t =>
        (millAt t u c).coords = rest ∧ (millAt t u c).done = (millAt s u c).done + 1 ∧ (millAt t u c).busy = true ∧
        (∀ g, opTag s q.p q.op = some g → g ≠ noTag → (elemAt t q.p).out.length = (elemAt s q.p).out.length +
          tokenCount (tablesAt s q.p) (outOf (reqDest s q false) (coordToken y) false false)) ∧ SameMemory s t ∧ SameRest s t) ∧
      (isCount q = false → (millAt s u c).coords = [] → Completes (.millCoordinate u c) s (ended (word (millAt s u c).done true)))

/-- R236, R268: an expanded slot of a chunk goes to its ring with the values that were read for it, the first with the mask of empty granules; the
context goes on to the next slot and the next chunk, and is free after the last. -/
def Sys2Proof.Claims.MillSlots : Prop :=
  ∀ (u : Pos) (c : Nat) (s : State) (x : Expansion), slotReady s u c = true → expandingAt s u c = some x →
    let ctx := millAt s u c
    let val := fun half => (((millReads s u c).find? fun q => q.idx = nat64 half).map (·.val)).getD 0
    Completes (.millSlot u c) s fun t =>
      (∃ y, t.chip.pushes = s.chip.pushes ++ [y] ∧ y.tile = unitOf x.tile ∧ y.q = x.ring ∧ s.fc < y.due ∧
        y.data = [if 48 ≤ ctx.slot then ofBytes (List.replicate 64 127) else slotData x.bits (x.coords ctx) val] ∧
        y.side = plainSide ||| BitVec.ofNat 40 (if ctx.slot = 0 then emptyGranules x.pat x.tb x.bits x.cb (x.k0 + ctx.chunk) else 0)) ∧
      (ctx.slot + 1 ≠ x.slots → (millAt t u c).slot = ctx.slot + 1 ∧ (millAt t u c).chunk = ctx.chunk ∧ (millAt t u c).busy = true) ∧
      (ctx.slot + 1 = x.slots → ctx.chunk + 1 ≠ x.kc →
        (millAt t u c).slot = 0 ∧ (millAt t u c).chunk = ctx.chunk + 1 ∧ (millAt t u c).busy = true) ∧
      (ctx.slot + 1 = x.slots → ctx.chunk + 1 = x.kc → (millAt t u c).busy = false) ∧ SameMemory s t ∧ SameRest s t

/-- R221, R223, R234 to R239, R241: an instruction at the head of the queue begins: an MMA, MMAS or MMAP on a copy of the committed rows it names, an MMAP
with a request to its mill context, an MLDB with its load, a MOUT with its rows' tokens, an MZERO or MADJ with its time. A begin that its
rings, the resident half or the mill cannot serve raises EHANDLE, and waits to be abandoned. A load takes one slot at a time from the ring to
the stage, an empty granule's as zeros; one with N:M metadata takes the resident half's place. -/
def Sys2Proof.Claims.MatrixBegins : Prop :=
  ∀ (p : Pos) (s : State) (o : MatOp) (rest : List MatOp),
    (beginEnabled s p = true → (matAt s p).queue = o :: rest →
      let faulty := (o.abandons = true ∧ beginFault s p o = true) ∨ (o.op = opMmap ∧ mmapContext s p = none)
      (o.multiplies = true → ¬faulty → Completes (.sequencerBegin p) s fun t =>
        (∃ r, (matAt t p).run = some r ∧ r.phase = (if o.br then .rows else .load) ∧ r.chunk = 0 ∧ r.row = 0 ∧ r.loaded = 0 ∧
          r.flags = 0 ∧ r.deferred = [] ∧ r.adapters = [] ∧ r.due = s.fc ∧ r.fpctl = fpctlUsed s p) ∧
        (∀ i, i < o.m → fileRow (matAt t p).work (o.accRow i) = fileRow (matAt s p).acc (o.accRow i)) ∧
        (o.az = true → ∀ i, fileRow (matAt t p).adWork i = List.replicate 64 0) ∧
        (matAt t p).acc = (matAt s p).acc ∧ (matAt t p).queue = { o with asked := o.asked || decide (o.op = opMmap) } :: rest ∧
        (∀ c, o.op = opMmap → o.asked = false → mmapContext s p = some c → ∃ m ∈ t.chip.net, m.dst = millUnit p ∧
          m.body = .mill ⟨.expand o.k0 o.kc o.tb o.bs, c, 0, o.x.qb.toNat + 16 * (encodeFmt o.x.fb).toNat, p, o.entry, o.tag, o.tag, 0⟩) ∧
        SameMemory s t ∧ SameRest s t) ∧
      (o.op = opMldb → ¬faulty → Completes (.sequencerBegin p) s fun t =>
        matAt t p = { matAt s p with run := some (newRun .load s.fc 0) } ∧ SameMemory s t ∧ SameRest s t) ∧
      (o.op = opMout → Completes (.sequencerBegin p) s fun t =>
        (∃ r, (matAt t p).run = some r ∧ r.phase = .out ∧ r.due = s.fc + 4 * o.m) ∧ (matAt t p).acc = (matAt s p).acc ∧
        (∃ y, (elemAt t p).pipe = (elemAt s p).pipe ++ [y] ∧ y.tag = o.tag ∧ y.out = .known o.tag ∧
          y.outs = rowOuts o (matAt s p).acc ++ outOf o.d1 (ofWord (nat64 o.m)) false false) ∧ SameMemory s t ∧ SameRest s t) ∧
      (o.op = opMzero ∨ o.op = opMadj → Completes (.sequencerBegin p) s fun t =>
        matAt t p = { matAt s p with run := some (newRun .out (s.fc + (if o.op = opMadj ∧ o.inv = true then 5 else 1)) 0) } ∧
        SameMemory s t ∧ SameRest s t) ∧
      (faulty → ∀ r, regionOf s p = some r → Completes (.sequencerBegin p) s fun t =>
        (∃ m ∈ t.chip.net, m.dst = controlPoint r.homeClu ∧ m.body = .error r.id ⟨codeEhandle, p, o.entry, o.tag, 0⟩) ∧
        matAt t p = { matAt s p with abandon := true, run := some { newRun .load s.fc 0 with failed := true } } ∧ SameMemory s t ∧ SameRest s t)) ∧
    ∀ (r : MatRun) (g : Ring), loadEnabled s p = true → matRunning s p = some (o, r) → ringB s p o = some g → slotBad s g g.rpos = false →
      Completes (.chunkLoad p) s fun t =>
        (r.loaded < o.dataSlots → getKey 0 (if o.op = opMldb ∨ o.x.nm then r.loaded else 48 + r.loaded) (matAt t p).stage =
          if o.op = opMmap ∧ (chunkMask o r g).testBit (r.loaded / 16) then 0 else ofBytes (slotBytes s g g.rpos)) ∧
        (o.dataSlots ≤ r.loaded → getKey 0 (r.loaded - o.dataSlots) (if o.op = opMldb then (matAt t p).rscales else (matAt t p).scales) =
          ofBytes (slotBytes s g g.rpos)) ∧
        (∃ r', (matAt t p).run = some r' ∧ r'.loaded = (if r.loaded + 1 = o.slots then 0 else r.loaded + 1) ∧
          r'.phase = (if r.loaded + 1 = o.slots then (if o.op = opMldb then .out else .rows) else r.phase)) ∧
        (∃ g', ringAt t p o.x.qb.toNat = some g' ∧ g'.rdp = g.rdp + 1 ∧ g'.head = g.head ∧ g'.tail = g.tail) ∧
        (matAt t p).rv = ((matAt s p).rv && !(o.x.nm && o.op != opMldb && decide (r.loaded < o.dataSlots))) ∧
        (matAt t p).acc = (matAt s p).acc ∧ SameMemory s t ∧ SameRest s t

namespace Sys2Proof.Claims

open Sys2Proof Sys2Proof.Machine

/-- The bytes of a line of a cluster's cache that a row needs; those of no column are none (R228, R229). -/
def heldLine (s : State) (p : Pos) (part table : Nat) (n : Need') : Option (List Byte) :=
  match lineFor s p part table n with
  | some l => some l.bytes
  | none => if n.runs.isEmpty then some [] else none

/-- The lines of a row's adapter, when the cache holds all that it needs: its table entry, its A slice and, where the pass is to follow, its B
slice (R227, R228, R230). -/
def heldLines (s : State) (p : Pos) (o : MatOp) (r : MatRun) (a : Nat) : Option (List Byte × List Byte × List Byte) :=
  if r.failed then none
  else (regionOf s p).bind fun x => (tableAt s p).bind fun z => (rowNeeds s p o r.chunk a none).bind fun _ =>
    (heldLine s p x.part z.1.va (entryNeed z.2.1 a)).bind fun e => (rowNeeds s p o r.chunk a (some e)).bind fun ns =>
      (ns.mapM (heldLine s p x.part z.1.va)).map fun l => (e, l.headD [], (l.drop 1).headD [])

/-- A row's adapter is one that its table, its handles or the cache's size do not allow (R231). -/
def adapterBad (s : State) (p : Pos) (o : MatOp) (r : MatRun) (x : Region) (a : Nat) : Prop :=
  rowNeeds s p o r.chunk a none = none ∨ ∃ z e, tableAt s p = some z ∧ heldLine s p x.part z.1.va (entryNeed z.2.1 a) = some e ∧
    rowNeeds s p o r.chunk a (some e) = none

end Sys2Proof.Claims

/-- R226, R228, R230, R231, R236: a row is read from its ring and added, column by column, to its working row, and no other row changes. Where the
cache holds the lines of the row's adapter its product with the A slice is added to the row's adapter row, and the pass is to follow; where it
does not the row is deferred, its table entry being filled, and it is replayed when its lines are there; an adapter that is not allowed raises
EADJ. The rows of an empty chunk are passed over; broken N:M metadata raises EMETA. The adapter pass adds the adapter's product to one working
row. The committed file changes in none of them. The model's choices: which entry serves the pass where a row's slots name several adapters
(assumption 110), a line of another length is a miss (assumption 109), and an error's abandon comes at the next point (assumption 38). -/
def Sys2Proof.Claims.MatrixRows : Prop :=
  ∀ (p : Pos) (s : State) (o : MatOp) (r : MatRun), matRunning s p = some (o, r) →
    let m := matAt s p
    let c := fpCtl r.fpctl
    let added := fun (g : Ring) (j i : Nat) (t : State) =>
      fileRow (matAt t p).work (o.accRow i) =
        (addRow o m c (rowValues o c.daz (slotBytes s g j) (slotSide g j)) (fileRow m.work (o.accRow i))).map (·.1) ∧
      (∀ k, k ≠ o.accRow i → fileRow (matAt t p).work k = fileRow m.work k)
    let still := fun (t : State) => (matAt t p).acc = m.acc ∧ SameMemory s t ∧ SameRest s t
    let adapted := fun (g : Ring) (j i : Nat) (l : List Byte × List Byte × List Byte) (t : State) =>
      (∀ e, readAdapter l.1 = some e → fileRow (matAt t p).adWork (o.accRow i) =
        (addAdapter o c e l.2.1 (rowValues o c.daz (slotBytes s g j) (slotSide g j)) (fileRow m.adWork (o.accRow i))).map (·.1)) ∧
      (∀ k, k ≠ o.accRow i → fileRow (matAt t p).adWork k = fileRow m.adWork k) ∧
      ∃ r', (matAt t p).run = some r' ∧ ∃ y ∈ r'.adapters, y.index = i ∧ y.ent = l.1 ∧ (o.al = true → y.b = l.2.2)
    (∀ g, rowEnabled s p = true → r.phase = .rows → ringA s p o = some g → badSlot s p = false →
      let adapter := if o.x.ad then ((slotSide g g.rpos).extractLsb' 0 16).toNat else 0
      let empty := o.op = opMmap ∧ r.emptyMask = 7
      let broken := (o.x.nm && nmBroken (slotBytes s g g.rpos) o.values) = true
      let taken := fun (t : State) => still t ∧ ∃ g', ringAt t p o.x.qa.toNat = some g' ∧ g'.rdp = g.rdp + 1 ∧ g'.head = g.head
      (empty → Completes (.matrixRow p) s fun t => taken t ∧ (matAt t p).work = m.work) ∧
      (¬empty → broken → ∀ x, regionOf s p = some x → injects s p = true → Completes (.matrixRow p) s fun t =>
        taken t ∧ (matAt t p).work = m.work ∧ (matAt t p).abandon = true ∧
        ∃ y ∈ t.chip.net, y.dst = controlPoint x.homeClu ∧ y.body = .error x.id ⟨codeEmeta, p, o.entry, o.tag, 0⟩) ∧
      (¬empty → ¬broken → adapter = 0 → Completes (.matrixRow p) s fun t => taken t ∧ added g g.rpos r.row t ∧
        (matAt t p).adWork = m.adWork) ∧
      (∀ l, ¬empty → ¬broken → adapter ≠ 0 → Claims.heldLines s p o r adapter = some l → Completes (.matrixRow p) s fun t =>
        taken t ∧ added g g.rpos r.row t ∧ adapted g g.rpos r.row l t ∧ ∃ r', (matAt t p).run = some r' ∧ r'.deferred = r.deferred) ∧
      (¬empty → ¬broken → adapter ≠ 0 → Claims.heldLines s p o r adapter = none → Completes (.matrixRow p) s fun t =>
        taken t ∧ (matAt t p).work = m.work ∧ (matAt t p).adWork = m.adWork ∧
        ∃ r' d, (matAt t p).run = some r' ∧ r'.deferred = r.deferred ++ [d] ∧ d.index = r.row ∧ d.pos = g.rpos ∧
          (∀ x z, r.failed = false → regionOf s p = some x → tableAt s p = some z → (rowNeeds s p o r.chunk adapter none).isSome →
            Claims.heldLine s p x.part z.1.va (entryNeed z.2.1 adapter) = none → ∃ f ∈ t.chip.fills, (f.id, 0) ∈ d.asks ∧
              f.die = p.die ∧ f.clu = p.clu ∧ f.part = x.part ∧ f.table = z.1.va ∧ f.key = .entry adapter)) ∧
      (∀ x, ¬empty → ¬broken → adapter ≠ 0 → r.failed = false → regionOf s p = some x → injects s p = true →
        Claims.adapterBad s p o r x adapter → Completes (.matrixRow p) s fun t => taken t ∧ (matAt t p).abandon = true ∧
          ∃ y ∈ t.chip.net, y.dst = controlPoint x.homeClu ∧ y.body = .error x.id ⟨codeEadj, p, o.entry, o.tag, 0⟩)) ∧
    (∀ g d rest, rowEnabled s p = true → r.phase = .replay → r.deferred = d :: rest → ringA s p o = some g → badSlot s p = false →
      Completes (.matrixRow p) s fun t => still t ∧ added g d.pos d.index t ∧
        (∀ b sl, d.ent = some b → (readAdapter b).isSome → d.a = some sl → adapted g d.pos d.index (b, sl, d.b.getD []) t) ∧
        ∃ r', (matAt t p).run = some r' ∧ r'.deferred = rest ∧ r'.replays = r.replays + 1) ∧
    ∀ y e, passEnabled s p = true → r.adapters[r.row]? = some y → readAdapter y.ent = some e → Completes (.adapterPass p) s fun t =>
      let k := o.accRow y.index
      fileRow (matAt t p).work k = (passRow c o.x.sat ((m.ctx.map fun z => z.2.2).getD 0) e y.b (fileRow m.adWork k)
        (fileRow m.work k)).map (·.1) ∧
      (∀ i, i ≠ k → fileRow (matAt t p).work i = fileRow m.work i) ∧
      (∃ r', (matAt t p).run = some r' ∧ r'.row = r.row + 1 ∧ r'.phase = if r.row + 1 = r.adapters.length then .drain else .adapters) ∧
      still t

/-- R370: a slot of a ring that holds an error that is not corrected is not read: an abort completion goes to the region's control point, and the
instruction waits to be abandoned. The model's choices: the abandon at the next point (assumption 38), and what the report names
(assumption 89). -/
def Sys2Proof.Claims.BadSlotsAbort : Prop :=
  ∀ (p : Pos) (s : State) (o : MatOp) (r : MatRun) (g : Ring) (j : Nat) (x : Region), matRunning s p = some (o, r) →
    matrixSlot s p = some (g, j) → badSlot s p = true → injects s p = true → regionOf s g.tile = some x → (ringB s p o).isSome → (ringA s p o).isSome →
    ∀ i, (i = Instr.chunkLoad p ∧ loadEnabled s p = true) ∨ (i = Instr.matrixRow p ∧ rowEnabled s p = true) → Completes i s fun t =>
      matAt t p = { matAt s p with abandon := true, run := some { r with failed := true } } ∧ t.chip.rings = s.chip.rings ∧
      (∃ m ∈ t.chip.net, m.dst = controlPoint x.homeClu ∧
        m.body = .abort x.id ⟨true, none, p, o.entry, o.tag, if isWindow s g then some (g.tile, g.handle) else none⟩) ∧
      Claims.Logged s t ∧ SameRest s t

/-- R229, R230: a fill whose replies are all back is over; its line is in the cache unless an INV has met it or the cache is too small, and a deferred
row that waits for it has its bytes, to be replayed from the next fc on. A fill that has lost a request is over without a line. -/
def Sys2Proof.Claims.AdjunctFills : Prop :=
  ∀ (k : Nat) (s : State) (f : AdjFill), fillEnabled s k = true → fillAt s k = some f →
    let bytes := fillBytes s k f.left.length
    let kept := fun (t : State) => fillBroken s f = false → f.keep = true →
      blocksFor bytes.length ≤ adjunctBlocks s (cluster f.die f.clu) → ∃ l ∈ t.chip.adjunct,
        l.die = f.die ∧ l.clu = f.clu ∧ l.part = f.part ∧ l.table = f.table ∧ l.key = f.key ∧ l.bytes = bytes
    (Completes (.adjunctFill k) s fun t => kept t ∧ SameMemory s t ∧ SameRest s t) ∧
    (waitingRows s k = [] → Completes (.adjunctFill k) s fun t => kept t ∧ (∀ y ∈ t.chip.fills, y.id ≠ k) ∧
      (f.keep = false ∨ fillBroken s f = true → t.chip.adjunct = s.chip.adjunct) ∧ t.chip.mats = s.chip.mats ∧ SameMemory s t ∧ SameRest s t) ∧
    ∀ p o chunk a d, waitingRows s k = [(p, o, chunk, a, d)] → fillBroken s f = false → (k, 0) ∈ d.asks → Completes (.adjunctFill k) s fun t =>
      kept t ∧ ∃ r' d', (matAt t p).run = some r' ∧ d' ∈ r'.deferred ∧ d'.index = d.index ∧ d'.pos = d.pos ∧ d'.ent = some bytes ∧
        s.fc < d'.seen

/-- R224, R234, R237 to R239, R241: at a commit an MMA's working rows become the accumulator rows, its rings are retired, its flags are set in FPFLAGS,
and its result leaves on D1, with EM after its rows on D0; MLDB makes the resident half valid, MZERO clears rows, with AD in the adapter file too, MADJ sets the context and
with INV takes the lines of its table from the cache, MOUT has sent its rows and clears them where it says so. The instruction leaves the
queue; of a stopped region it sends nothing. -/
def Sys2Proof.Claims.MatrixCommits : Prop :=
  ∀ (p : Pos) (s : State) (o : MatOp) (r : MatRun), commitEnabled s p = true → matRunning s p = some (o, r) →
    let m := matAt s p
    Completes (.commit p) s fun t =>
      let n := matAt t p
      let sends := fun (outs : List Out) => injects s p = true → ∃ y, (elemAt t p).pipe = (elemAt s p).pipe ++ [y] ∧ y.tag = o.tag ∧
        y.out = .known o.tag ∧ y.due = some s.fc ∧ y.outs = outs
      let both := fun (v : Nat) => outOf o.d0 (ofWord (nat64 v)) false false ++ outOf o.d1 (ofWord (nat64 v)) false false
      let clears := fun (on : Bool) => ∀ i, fileRow n.acc i = if i ∈ o.rows ∧ on then List.replicate 64 0 else fileRow m.acc i
      n.queue = m.queue.drop 1 ∧ n.run = none ∧
      (o.multiplies = true →
        (∀ i v, (i, v) ∈ m.work → (∀ w, (i, w) ∈ m.work → w = v) → fileRow n.acc i = v) ∧
        (∀ i, (∀ v, (i, v) ∉ m.work) → fileRow n.acc i = fileRow m.acc i) ∧
        (∀ i v, (i, v) ∈ m.adWork → (∀ w, (i, w) ∈ m.adWork → w = v) → fileRow n.ad i = v) ∧
        (∀ i, (∀ v, (i, v) ∉ m.adWork) → fileRow n.ad i = fileRow m.ad i) ∧ n.commits = m.commits + 1 ∧
        (∀ q ∈ o.rings, ∀ g, ringAt s p q = some g → ∃ g', ringAt t p q = some g' ∧ g'.head = g.rdp ∧ g'.rdp = g.rdp ∧ g'.tail = g.tail) ∧
        (∀ x, regionOf s p = some x → ∃ x', regionAt t x.id = some x' ∧ x'.fpflags = x.fpflags ||| r.flags.zeroExtend 64) ∧
        sends ((if o.x.em then rowOuts o n.acc else []) ++ outOf o.d1 (ofWord (nat64 (o.m + 65536 * min r.replays 65535))) false false)) ∧
      (o.op = opMldb → n.rv = true ∧ n.rnm = o.x.nm ∧ n.acc = m.acc ∧ sends (both o.slots) ∧
        ∀ g, ringB s p o = some g → ∃ g', ringB t p o = some g' ∧ g'.head = g.rdp ∧ g'.rdp = g.rdp ∧ g'.tail = g.tail) ∧
      (o.op = opMzero → clears true ∧ sends (both o.m) ∧
        ∀ i, fileRow n.ad i = if i ∈ o.rows ∧ o.x.ad = true then List.replicate 64 0 else fileRow m.ad i) ∧
      (o.op = opMout → clears (o.a.getLsbD 8) ∧ elemAt t p = elemAt s p) ∧
      (o.op = opMadj → n.ctx = some (o.h1, field o.a 15 0, field o.b 15 0) ∧ n.acc = m.acc ∧ sends (both 0) ∧
        ∀ x, regionOf s p = some x → t.chip.adjunct = s.chip.adjunct.filter fun l =>
          !(o.inv && l.die == p.die && l.clu == p.clu && l.part == x.part && l.table == (handleAt x p o.h1).va)) ∧
      SameMemory s t ∧ SameRest s t

/-- R225: an abandon discards the working rows, rewinds the rings to what has been retired, and leaves the instruction at the head of the queue
and the accumulator file as they were; an MLDB's leaves the resident half invalid. The model's choice: the events of an abandoned MLDB and of its re-execution
(assumption 41). -/
def Sys2Proof.Claims.MatrixAbandons : Prop :=
  ∀ (p : Pos) (s : State) (o : MatOp) (r : MatRun), abandonEnabled s p = true → matRunning s p = some (o, r) →
    Completes (.abandon p) s fun t =>
      (matAt t p).run = none ∧ (matAt t p).work = [] ∧ (matAt t p).adWork = [] ∧ (matAt t p).ad = (matAt s p).ad ∧
      (matAt t p).rv = ((matAt s p).rv && o.op != opMldb) ∧ (matAt t p).acc = (matAt s p).acc ∧
      (matAt t p).queue = { o with redo := o.redo || decide (o.op = opMldb) } :: (matAt s p).queue.drop 1 ∧
      (matAt t p).abandons = (matAt s p).abandons + 1 ∧ (matAt t p).commits = (matAt s p).commits ∧
      (∀ q ∈ o.rings, ∀ g, ringAt s p q = some g → ∃ g', ringAt t p q = some g' ∧ g'.rdp = g.head ∧ g'.head = g.head ∧ g'.tail = g.tail) ∧
      SameMemory s t ∧ SameRest s t

/-! ## The graph engine (spec/01, spec/13) -/

namespace Sys2Proof.Claims

open Sys2Proof Sys2Proof.Machine

/-- The acceptance word of a launch stands where its issuer reads it (R324, R338, R384): in PLSTAT, or as the value of the LAUNCH that
waits for it. -/
def Answered (s t : State) (l : LaunchEntry) (w : Word) : Prop :=
  match l.origin with
  | .host fn => (fnAt t fn).plstat = w
  | .elem p r _ _ _ _ => ∀ q y, l.req = some q → inImage s r = false → opAt s p q.op = some y →
      ∃ y', opAt t p q.op = some y' ∧ y'.wait = .none ∧ y'.outs = y.outs.map fun o => { o with val := ofWord w }
  | .kiln _ => True

/-- A read of some ranges (address and length) of a partition's memory has begun for a graph engine (R319, R324): it stands among the fetches, and
where HBM serves it and translation and windows let a range be reached, a request for each of its 64-byte blocks is on its way. -/
def ReadBegins (s t : State) (key : FetchKey) (part : Nat) (ranges : List (Nat × Nat)) : Prop :=
  (∃ f, t.chip.fetches = s.chip.fetches ++ [f] ∧ f.key = key ∧ f.data.length = ranges.length ∧
    ∀ i r, ranges[i]? = some r → hbmActive s = true → s.chip.power.full = true → rangeGood s part r.1 r.2 false = true →
      ∀ b ∈ blocksAt r.1 r.2, ∃ q ∈ t.chip.reqs, q.client = .fetch f.id i b.1 ∧ q.op = .engRead ∧
        ∃ y, vaPlace s part (r.1 + b.1) false = some y ∧ q.parts.map (·.lanes.length) = (bytesParts y.1 b.2 y.2).map (·.1.length)) ∧
  t.chip.runs = s.chip.runs ∧ t.chip.shares = s.chip.shares ∧ t.chip.regions = s.chip.regions ∧ t.chip.launchQ = s.chip.launchQ ∧
  SameRest s t

/-- The shares of a kernel node are entered in the pools of the dies its vector names, each with its first and last index (R326). -/
def SharesEntered (s t : State) (run n level : Nat) (vec : List Nat) : Prop :=
  (∃ z, nodeRun t run n = some z ∧ z.st = .running ∧ ∀ d, d ∈ z.left ↔ d < 4 ∧ vec.getD d 0 ≠ 0) ∧
  ∀ d, d < 4 → vec.getD d 0 ≠ 0 → ∃ h ∈ t.chip.shares, h.die = d ∧ h.run = run ∧ h.node = n ∧ h.next = (vec.take d).sum ∧
    h.stop = (vec.take d).sum + vec.getD d 0 ∧ h.level = level ∧ h.entered = s.t18

/-- A node is over, and each of its dependence successors is sent a decrement (R327). -/
def NodeOver (s t : State) (run n : Nat) (st : NodeState) : Prop :=
  (∃ z, nodeRun t run n = some z ∧ z.st = st) ∧ ∀ k ∈ succsOf s run n, ∃ m ∈ t.chip.net, m.body = .decrement run k

/-- A node fails (R328): every waiting node that is reached from it is abandoned, its error target, when that is a kernel node, enters
its shares, and the first failure of the run is noted. -/
def NodeFails (s t : State) (run n who code : Nat) (w : Word) : Prop :=
  let errn := (nodeRec s run n).bind (·.errn)
  (∃ z, nodeRun t run n = some z ∧ z.st = .failed ∧ z.code = code ∧ z.errWord = w) ∧
  (∀ k ∈ reachable s run 4096 (succsOf s run n), ∀ z, nodeRun s run k = some z → z.st = .waiting → errn ≠ some k →
    ∃ z', nodeRun t run k = some z' ∧ z'.st = .abandoned) ∧
  (∀ k rec i z, errn = some k → nodeRec s run k = some rec → rec.kind = .kernel i → nodeRun s run k = some z → z.skip = false →
    (∃ d, d < 4 ∧ z.vec.getD d 0 ≠ 0) → ∃ h ∈ t.chip.shares, h.run = run ∧ h.node = k) ∧
  ∀ r, runAt s run = some r → r.fnode = none →
    ∃ r', runAt t run = some r' ∧ r'.fnode = some who ∧ r'.code = code ∧ r'.errWord = w

/-- An instance refused at install fails its node with the install word: no share of the node gives out another instance (R52, R328). -/
def InstanceRefused (s t : State) (x : Share) (e : InstallError) : Prop :=
  (∀ y, nodeRun s x.run x.node = some y → ∃ z, nodeRun t x.run x.node = some z ∧ z.failed = true ∧
    (y.failed = false → z.code = installNum e.code ∧ z.errWord = installWord e)) ∧
  (∀ h ∈ t.chip.shares, h.run = x.run → h.node = x.node → h.failed = true) ∧ (∀ z ∈ t.chip.reserves, z.share ≠ x.id) ∧
  t.chip.regions = s.chip.regions ∧
  SameMemory s t ∧ SameRest s t

/-- The run completion word is on its way to a target of D1 (R325, R338). -/
def WordSent (r : Run) (w route : Word) (out : Tag) (m : Msg) : Prop :=
  m.src = dieUnit r.die ∧ m.dst = routePos route ∧ m.body = .token ∧ m.hdr = withRid (headerOf route 4 0 out) ∧ m.pay = ofWord w

end Sys2Proof.Claims

/-- R324, R384: a write of PLAUNCH with a full FIFO or a bad address or die field is dropped and counted; any other launch waits in its
function's FIFO or its die's queue. The packet at the head of a die's queue is read and checked, whoever launched it: refused, its status is the
acceptance word and no run begins; else the words that map its graph handles are read, and a run of its graph begins with the next run number;
a LAUNCH that binds a slot has one, and one that its region issued since its replay point sets NR. -/
def Sys2Proof.Claims.LaunchesAreTaken : Prop :=
  (∀ (fn : Nat) (w : Word) (s : State), fn ≤ 8 → s.chip.power.booted = true → s.chip.power.halted = false →
    let bad := 64 ≤ (fnAt s fn).fifo.length ∨ field w 61 57 ≠ 0 ∨ field w 5 0 ≠ 0
    (bad → Completes (.plaunch fn w) s fun t => fnAt t fn = { fnAt s fn with plDrop := min 255 ((fnAt s fn).plDrop + 1) } ∧
      (∀ g, g ≠ fn → fnAt t g = fnAt s g) ∧ t.chip.launchQ = s.chip.launchQ ∧ SameMemory s t ∧ SameRest s t) ∧
    (¬bad → Completes (.plaunch fn w) s fun t =>
      ((field w 63 62, field w 56 0) ∈ (fnAt t fn).fifo ∨
        ∃ l ∈ t.chip.launchQ, l.die = field w 63 62 ∧ l.va = field w 56 0 ∧ l.part = partOfFn fn ∧ l.origin = .host fn) ∧
      t.chip.runs = s.chip.runs ∧ SameMemory s t ∧ SameRest s t)) ∧
  ∀ (d : Nat) (s : State) (l : LaunchEntry) (rest : List LaunchEntry), takeAct s d ≠ .none → launchesOf s d = l :: rest →
    let status := packetStatus s l (packetWords s d)
    let isRead := (fetchFor s (.packet d)).isSome = true
    (fetchFor s (.packet d) = none → Completes (.launchQueueTake d) s fun t =>
      Claims.ReadBegins s t (.packet d) l.part [(l.va, 64)]) ∧
    (∀ ws g, isRead → status = 0 → packetWords s d = some ws → packetGraph s l ws = some g → g.handles ≠ [] →
      fetchFor s (.handles d) = none → Completes (.launchQueueTake d) s fun t =>
        Claims.ReadBegins s t (.handles d) l.part (g.handles.map fun h => (field (ws.getD 3 0) 56 0 + 8 * h.2.1, 8))) ∧
    (isRead → status ≠ 0 → Completes (.launchQueueTake d) s fun t =>
      Claims.Answered s t l (nat64 status) ∧ (∃ more, t.chip.launchQ = dropHead d s.chip.launchQ ++ more) ∧
      t.chip.runs = s.chip.runs ∧ t.chip.nextRun = s.chip.nextRun ∧ SameMemory s t ∧ SameRest s t) ∧
    ∀ ws g, isRead → status = 0 → packetWords s d = some ws → packetGraph s l ws = some g →
      g.handles = [] ∨ (fetchFor s (.handles d)).isSome = true → Completes (.launchQueueTake d) s fun t =>
      Claims.Answered s t l (place s.chip.nextRun.toNat 32) ∧ (∃ more, t.chip.launchQ = dropHead d s.chip.launchQ ++ more) ∧
      t.chip.nextRun = s.chip.nextRun + 1 ∧ t.chip.runs.length = s.chip.runs.length + 1 ∧
      (∃ r ∈ t.chip.runs, r.run = s.chip.nextRun.toNat ∧ r.part = l.part ∧ r.graph = g.id ∧ r.entry = field (ws.getD 0 0) 47 32 ∧
        r.param = field (ws.getD 3 0) 56 0 ∧ r.user = ws.getD 4 0 ∧ r.nodes.map (·.n) = packetNodes g ws ∧
        ∀ i h f w, g.handles[i]? = some h → fetchFor s (.handles d) = some f → f.word i 0 = some w →
          r.handles[i]? = some (h.1, field w 56 0, h.2.2)) ∧
      (∀ p k tag out t1 rel x, l.origin = .elem p k tag out t1 rel → (∀ q, l.req = some q → q.past = false) → regionAt s k = some x →
        ∃ x', regionAt t k = some x' ∧ x'.nr = true) ∧
      (∀ p k tag out t1 rel, l.origin = .elem p k tag out t1 rel → t1 ≠ [] → inImage s k = false →
        (qAt t p).bound = (qAt s p).bound ++ [s.chip.nextRun.toNat]) ∧ SameMemory s t ∧ SameRest s t

/-- R326, R329: a decrement that reaches a waiting node lowers its counter; the one that brings it to 0 makes the node ready. A kernel's shares
enter the pools of the dies that its vector names, each with its first and last index, and one with no instance is complete; a condition or
while node waits for its engine; a node marked to be skipped is over with no instance, and its successors are sent their decrements. A
decrement to a node that does not wait is spent. -/
def Sys2Proof.Claims.CountersFall : Prop :=
  ∀ (m : Nat) (s : State) (x : Msg) (run n : Nat) (r : Run) (y : NodeRun) (rec : NodeRec), decrementEnabled s m = true → msgAt s m = some x →
    x.body = .decrement run n → runAt s run = some r → nodeRun s run n = some y → nodeRec s run n = some rec →
    (y.st ≠ .waiting ∨ y.counter = 0 → Completes (.counterDecrement m) s fun t =>
      t = { s with chip := { s.chip with net := s.chip.net.filter fun z => z.id ≠ m } }) ∧
    (y.st = .waiting → 1 < y.counter → Completes (.counterDecrement m) s fun t =>
      nodeRun t run n = some { y with counter := y.counter - 1 } ∧ t.chip.shares = s.chip.shares ∧
      t.chip.net = s.chip.net.filter (fun z => z.id ≠ m) ∧ SameMemory s t ∧ SameRest s t) ∧
    (y.st = .waiting → y.counter = 1 →
      (y.skip = true → Completes (.counterDecrement m) s fun t =>
        Claims.NodeOver s t run n .skipped ∧ t.chip.shares = s.chip.shares ∧ SameMemory s t ∧ SameRest s t) ∧
      (∀ i, y.skip = false → rec.kind = .kernel i → Completes (.counterDecrement m) s fun t =>
        ((∃ d, d < 4 ∧ y.vec.getD d 0 ≠ 0) → Claims.SharesEntered s t run n (r.prio.getD rec.prio) y.vec) ∧
        ((∀ d, d < 4 → y.vec.getD d 0 = 0) → Claims.NodeOver s t run n .complete ∧ t.chip.shares = s.chip.shares) ∧
        SameMemory s t ∧ SameRest s t) ∧
      (y.skip = false → (∀ i, rec.kind ≠ .kernel i) → Completes (.counterDecrement m) s fun t =>
        nodeRun t run n = some { y with counter := 0, st := .ready } ∧ t.chip.shares = s.chip.shares ∧ SameMemory s t ∧ SameRest s t))

/-- R327 to R330: the last report of a running node with no failure completes it and sends a decrement to each successor; a node with a failed
instance fails when every share has reported, what waits on it is abandoned and its error target is started. A condition of 0 marks every
successor to be skipped; a while node starts its body while the condition is not 0 and the bound is not reached, completes otherwise, and
fails as its body does. Each reads its condition word first; one that cannot be read fails its node with EPROT. -/
def Sys2Proof.Claims.NodesEnd : Prop :=
  (∀ (m : Nat) (s : State) (x : Msg) (run n die : Nat) (failed : Bool) (y : NodeRun), reportReached s m = true → msgAt s m = some x →
    x.body = .shareEnd run n die failed → nodeRun s run n = some y →
    let last := (∀ d ∈ y.left, d = die) ∧ y.failed = false ∧ failed = false ∧ y.st = .running
    (¬last → Completes (.shareReport m) s fun t =>
      nodeRun t run n = some { y with left := y.left.filter (fun d => d ≠ die), failed := y.failed || failed } ∧
      t.chip.net = s.chip.net.filter (fun z => z.id ≠ m) ∧ SameMemory s t ∧ SameRest s t) ∧
    (last → Completes (.shareReport m) s fun t => Claims.NodeOver s t run n .complete ∧ SameMemory s t ∧ SameRest s t)) ∧
  (∀ (run n : Nat) (s : State) (y : NodeRun), nodeFailEnabled s run n = true → nodeRun s run n = some y →
    (nodeRec s run n).bind (·.errn) ≠ some n → Completes (.nodeFail run n) s fun t =>
      Claims.NodeFails s t run n n y.code y.errWord ∧ SameMemory s t ∧ SameRest s t) ∧
  (∀ (run n h off : Nat) (s : State) (rec : NodeRec), condEnabled s run n = true → nodeRec s run n = some rec → rec.kind = .cond h off →
    let word := (fetchFor s (.cond run n)).bind fun f => f.word 0 0
    let isRead := (conditionPlace s run h off).isSome = true ∧ (fetchFor s (.cond run n)).isSome = true
    (∀ y, conditionPlace s run h off = some y → fetchFor s (.cond run n) = none → Completes (.conditionNode run n) s fun t =>
      Claims.ReadBegins s t (.cond run n) y.1 [(y.2, 8)]) ∧
    (∀ w, isRead → word = some w → Completes (.conditionNode run n) s fun t =>
      Claims.NodeOver s t run n .complete ∧ (w = 0 → ∀ k ∈ succsOf s run n, ∀ z, nodeRun t run k = some z → z.skip = true) ∧
      (w ≠ 0 → ∀ k z, nodeRun t run k = some z → ∃ z', nodeRun s run k = some z' ∧ z.skip = z'.skip) ∧ SameMemory s t ∧ SameRest s t) ∧
    (conditionPlace s run h off = none ∨ (isRead ∧ word = none) → rec.errn ≠ some n → n ∉ reachable s run 4096 (succsOf s run n) →
      Completes (.conditionNode run n) s fun t => Claims.NodeFails s t run n n codeEprot 0 ∧ SameMemory s t ∧ SameRest s t)) ∧
  ∀ (run n b h off bound : Nat) (s : State) (rec : NodeRec) (y z : NodeRun), whileEnabled s run n = true →
    nodeRec s run n = some rec → rec.kind = .loop b h off bound → nodeRun s run n = some y → nodeRun s run b = some z →
    (y.st = .running → z.failed = true → b ≠ n → rec.errn ≠ some n → rec.errn ≠ some b → Completes (.whileNode run n) s fun t =>
      Claims.NodeFails s t run n b z.code z.errWord ∧ (∃ z', nodeRun t run b = some z' ∧ z'.st = .failed) ∧ SameMemory s t ∧ SameRest s t) ∧
    let word := (fetchFor s (.cond run n)).bind fun f => f.word 0 0
    let isRead := (conditionPlace s run h off).isSome = true ∧ (fetchFor s (.cond run n)).isSome = true
    (y.st ≠ .running ∨ z.failed = false →
      (∀ x, conditionPlace s run h off = some x → fetchFor s (.cond run n) = none → Completes (.whileNode run n) s fun t =>
        Claims.ReadBegins s t (.cond run n) x.1 [(x.2, 8)]) ∧
      (conditionPlace s run h off = none ∨ (isRead ∧ word = none) → rec.errn ≠ some n → y.st = .running ∨ n ∉ reachable s run 4096 (succsOf s run n) →
        Completes (.whileNode run n) s fun t => Claims.NodeFails s t run n n codeEprot 0 ∧ SameMemory s t ∧ SameRest s t) ∧
      ∀ w, isRead → word = some w →
        (w = 0 ∨ y.iter = bound → Completes (.whileNode run n) s fun t =>
          Claims.NodeOver s t run n .complete ∧ SameMemory s t ∧ SameRest s t) ∧
        (∀ rb, w ≠ 0 → y.iter ≠ bound → b ≠ n → nodeRec s run b = some rb → Completes (.whileNode run n) s fun t =>
          ((∃ d, d < 4 ∧ z.vec.getD d 0 ≠ 0) → Claims.SharesEntered s t run b rb.prio z.vec ∧
            nodeRun t run n = some { y with st := .running, iter := y.iter + 1 }) ∧
          ((∀ d, d < 4 → z.vec.getD d 0 = 0) → ∃ z', nodeRun t run b = some z' ∧ z'.st = .complete) ∧ SameMemory s t ∧ SameRest s t))

/-- R325, R338: a run whose nodes have all ended is over: with CQ its completion record is written and the host interrupted; one that failed
interrupts the host too. Of a run that an element launched the completion word goes to D1 of its LAUNCH, into the image when its region is
saved, and the bound slot is free. -/
def Sys2Proof.Claims.RunsEnd : Prop :=
  ∀ (k : Nat) (s : State) (r : Run), runEndEnabled s k = true → runAt s k = some r → Completes (.runEnd k) s fun t =>
    (∀ x ∈ t.chip.runs, x.run ≠ k) ∧
    t.chip.records = s.chip.records ++ (if r.cq then
      [.completion r.part (completionWord s r) r.user (nat64 (timeNs s)) r.errWord] else []) ∧
    t.chip.irqs = s.chip.irqs ++ (if r.cq then [.completion r.part] else []) ++ (if runStatus s r = 2 then [.failure r.part] else []) ∧
    (∀ p j tag out t1 rel, r.origin = .elem p j tag out t1 rel → out ≠ noTag →
      (∀ x, inImage s j = false → regionAt s j = some x → x.phase ≠ .stopping → x.phase ≠ .ended →
        ∀ route ∈ t1, ∃ m ∈ t.chip.net, Claims.WordSent r (completionWord s r) route out m) ∧
      (inImage s j = true →
        ∀ route ∈ t1, ∃ v ∈ t.chip.saved, v.region.id = j ∧ ∃ m ∈ v.net, Claims.WordSent r (completionWord s r) route out m) ∧
      (∀ q ∈ t.chip.qs, q.1 = p → r.run ∉ q.2.bound)) ∧
    t.chip.shares = s.chip.shares ∧ (∀ a, t.spad.read a = s.spad.read a) ∧ t.frames = s.frames ∧ t.fc = s.fc

/-- R32, R51, R69, R98, R110, R328, R332, R333, R374: an instance that fits gets its region when its parameter words have been read and it passes the
install checks: its tiles and access processors are held, and it wakes or its root frame follows in the next fc; one that is refused fails its
node, and nothing is reserved for it any longer; a head share that does not fit asks the regions below it to yield. A configuration that is loaded is PINNED; after the last the root frame is allocated and the region runs. The end of a rollback gives the region its
state at dispatch: its frames but the root free, handles as they were declared, rings outside replay windows empty, tables as installed, matrix
elements at reset. An install that is pre-empted gives everything back and its index to the share. The model's choices: what an
instance needs to be placed (assumption 47), when a configuration counts as resident (assumption 48), that a failure closes the node's shares
(assumption 45), which resident slot is least recently used (assumption 98), and a region's numbers in its clusters (assumption 84). -/
def Sys2Proof.Claims.InstancesAreInstalled : Prop :=
  (∀ (d k : Nat) (s : State) (x : Share) (r0 : Region), dispatchAct s d k ≠ .none → (pool s d)[k]? = some x →
    dispatchAct { s with nextId := s.nextId + 1 } d k = .place r0 → installFault { s with nextId := s.nextId + 1 } r0.image r0.rects = none →
    Completes (.dispatch d k) s fun t =>
      (∃ r ∈ t.chip.regions, r.id = s.nextId ∧ r.rects = r0.rects ∧ r.units = r0.units ∧ r.index = r0.index ∧
        ((∃ e, r.phase = .waking e ∧ s.t18 ≤ e) ∨ r.phase = .rooting (s.fc + 1))) ∧
      (∀ u ∈ r0.units, (unitAt t u).region = some s.nextId) ∧ (∀ z ∈ t.chip.reserves, z.share ≠ x.id) ∧ SameRest s t) ∧
  (∀ (d k : Nat) (s : State) (x : Share) (r0 : Region), dispatchAct s d k ≠ .none → (pool s d)[k]? = some x →
    dispatchAct { s with nextId := s.nextId + 1 } d k = .fetch r0 → Completes (.dispatch d k) s fun t =>
      Claims.ReadBegins { s with nextId := s.nextId + 1 } t (.params x.id) r0.part ((paramWords r0.image).map fun w => (r0.param + 8 * w, 8))) ∧
  (∀ (d k : Nat) (s : State) (x : Share), dispatchAct s d k ≠ .none → (pool s d)[k]? = some x →
    let s' : State := { s with nextId := s.nextId + 1 }
    (∀ e, (dispatchAct s' d k = .refuse e ∨ ∃ r0, dispatchAct s' d k = .place r0 ∧ installFault s' r0.image r0.rects = some e) →
      Completes (.dispatch d k) s fun t => Claims.InstanceRefused s t x e) ∧
    (dispatchAct s' d k = .block → Completes (.dispatch d k) s fun t =>
      (∀ r ∈ yieldsFor s' x, ∃ r', regionAt t r.id = some r' ∧ r'.yr = true) ∧ (∃ x', shareAt t x.id = some x' ∧ x'.noFit.isSome) ∧
      SameMemory s t ∧ SameRest s t)) ∧
  (∀ (k : Nat) (s : State) (r : Region), wakeDone s k = true → regionAt s k = some r → Completes (.wakeComplete k) s fun t =>
    (∃ r', regionAt t k = some r' ∧ { r' with phase := r.phase } = r ∧
      (∀ c, nextLoad s r = some c → r'.phase = .loading c (s.t18 + 36000)) ∧
      (nextLoad s r = none → r'.phase = .rooting (s.fc + 1))) ∧ SameMemory s t ∧ SameRest s t) ∧
  (∀ (k c e : Nat) (s : State) (r : Region), loadDone s k = true → regionAt s k = some r → r.phase = .loading c e →
    (∀ cf, r.rootFrame = none → c < r.image.configs.length → configOf r.image c = some cf → Completes (.installComplete k) s fun t =>
      (∀ x ∈ r.slotMap, x.2.1 = c → x.2.2 < 4 → ((unitAt s x.1).slot x.2.2).st = .loading → ((unitAt t x.1).slot x.2.2).st = .pinned) ∧
      (∃ r', regionAt t k = some r' ∧ ((∃ c' e', r'.phase = .loading c' e' ∧ s.t18 < e') ∨ r'.phase = .rooting (s.fc + 1))) ∧
      SameMemory s t ∧ SameRest s t) ∧
    (∀ g v, r.rootFrame = some g → c ≠ 0 → s.chip.saved.find? (fun v => v.region.id = k) = some v → Completes (.installComplete k) s fun t =>
      (∃ r' n, regionAt t k = some r' ∧ r' = { r with phase := .restoring n } ∧ s.fc ≤ n) ∧ t.chip.saved = s.chip.saved ∧
      SameMemory s t ∧ SameRest s t) ∧
    ∀ g, r.rootFrame = some g → c = 0 → Completes (.installComplete k) s fun t =>
      (∃ r', regionAt t k = some r' ∧ r'.phase = .running ∧ r'.acfg = 0 ∧ r'.rbk = (if r.rbk = 255 then 255 else r.rbk + 1) ∧
        r'.fpctl = 0 ∧ r'.ssn = 0 ∧ (∀ q ∈ r'.quotas, q.used = 0) ∧
        r'.handles = (r.handles.filter fun h => ((declOf r h.1).map (·.dyn)) == some false).map fun h => (h.1, match declOf r h.1 with
          | some d => { h.2 with w0 := putField h.2.w0 57 54 (encodeFmt d.fmt).toNat, w3 := declW3 d }
          | none => h.2)) ∧
      (∀ f ∈ r.reserved, f ≠ g → frameAt t f = FrameRec.reset) ∧ (frameAt t g).val = true ∧ (frameAt t g).decl = 63 ∧
      (frameAt t g).live = 0 ∧ (frameAt t g).parent = noTag ∧ (∀ f, f ∉ r.reserved → f ≠ g → frameAt t f = frameAt s f) ∧
      (∀ p q y, ringAt s p q = some y → r.holds y.tile = true →
        (∀ z ∈ s.chip.qs, r.holds z.1 = true → ∀ e ∈ z.2.streams, e.input = true → e.h2 ≠ 0 → unitOf z.1 = y.tile → e.h2 ≠ y.handle) →
        ∃ y', ringAt t p q = some y' ∧ y'.head = 0 ∧ y'.rdp = 0 ∧ y'.tail = 0 ∧ y'.handle = y.handle ∧ y'.count = y.count) ∧
      (∀ x cf, (∀ z ∈ r.image.configs, ∀ e ∈ z.elems, e.params = []) → x ∈ r.slotMap →
        (∀ z ∈ r.slotMap, unitOf z.1 = unitOf x.1 → z.2.2 = x.2.2 → z = x) → configOf r.image x.2.1 = some cf → x.2.1 < r.image.configs.length → x.2.2 < 4 →
        ((unitAt t x.1).slot x.2.2).tables = unitTables r.image r.rects cf x.1) ∧
      (∀ p, r.holds p = true → matAt t p = MatState.reset) ∧ t.fc = s.fc) ∧
  (∀ (k e g : Nat) (s : State) (r : Region), loadDone s k = true → regionAt s k = some r → r.phase = .rooting e → rootOf' s r = some g →
    Completes (.installComplete k) s fun t =>
      (∃ r', regionAt t k = some r' ∧ r'.phase = .running ∧ r'.acfg = 0 ∧ r'.rootFrame = some g) ∧
      (frameAt t g).val = true ∧ (frameAt t g).decl = 63 ∧ (frameAt t g).live = 0 ∧ (frameAt t g).parent = noTag ∧
      (∀ h, h ≠ g → frameAt t h = frameAt s h) ∧ SameMemory s t ∧ t.fc = s.fc) ∧
  ∀ (k : Nat) (s : State) (r : Region), preemptEnabled s k = true → regionAt s k = some r → Completes (.installPreempt k) s fun t =>
    (∀ y ∈ t.chip.regions, y.id ≠ k) ∧ (∀ u ∈ r.units, (unitAt t u).region = none ∧ ∀ j, ((unitAt t u).slot j).st ≠ .loading) ∧
    (∀ x, shareOfRegion s r = some x → shareAt s x.id = some x →
      ∃ x', shareAt t x.id = some x' ∧ x'.live = x.live - 1 ∧ r.index ∈ x'.again) ∧ SameMemory s t ∧ t.fc = s.fc

/-- R34, R347, R361, R362: an instance that is over gives back its units and frames and is gone, and its flags stay as its final state, with FLEAK
when a frame was still allocated; one that was stopped by an error leaves its error record, and interrupts the host when its node has no error
edge. When nothing of an instance is left is the model's reading (assumption 51). -/
def Sys2Proof.Claims.InstancesEnd : Prop :=
  ∀ (k : Nat) (s : State) (r : Region), instanceEnabled s k = true → regionAt s k = some r → Completes (.instanceComplete k) s fun t =>
    (∀ y ∈ t.chip.regions, y.id ≠ k) ∧ (∀ u ∈ r.units, (unitAt t u).region = none) ∧ (∀ f ∈ r.reserved, frameAt t f = FrameRec.reset) ∧
    (∀ f, f ∉ r.reserved → frameAt t f = frameAt s f) ∧ (∀ p, r.holds p → elemAt t p = Elem.reset) ∧ t.fc = s.fc ∧
    (r.phase = .running → SameMemory s t ∧ t.chip.records = s.chip.records ∧ ∃ w : Word,
      t.chip.ended = s.chip.ended ++ [⟨r.run, r.node, r.index, w⟩] ∧
      ∀ j, j < 64 → w.getLsbD j = (r.rflags.getLsbD j || (decide (j = 2) && r.reserved.any fun f => (frameAt s f).val))) ∧
    ∀ e, r.phase = .stopping → r.error = some e →
      t.chip.records = s.chip.records ++ [.error r.part (errorW0 e r.more) (errorW1 e r.run) e.value (nat64 r.errTime)] ∧
      t.chip.irqs = s.chip.irqs ++ (if (nodeRec s r.run r.node).bind (·.errn) = none ∨ r.kiln = true then [.failure r.part] else [])

/-- R331, R333: an aging period raises the waiting of the share whose period is over, and of no other; a reservation takes the first position that
would fit, and asks the lower regions there to yield. Which position that is, is the model's reading (assumption 55). -/
def Sys2Proof.Claims.PoolsGoOn : Prop :=
  (∀ (s : State) (k : Nat) (x : Share), agingDue s = some k → shareAt s k = some x → Completes .agingPeriod s fun t =>
    shareAt t k = some { x with aged := x.aged + 1 } ∧ (∀ j, j ≠ k → shareAt t j = shareAt s j) ∧ SameMemory s t ∧ SameRest s t) ∧
  ∀ (d : Nat) (s : State) (x : Share) (rest : List Share) (p : List (Nat × Rect) × List Pos × List (Pos × Nat)), reserveEnabled s d = true →
    pool s d = x :: rest → positionWithout s x (fun _ => true) = some p → Completes (.reservation d) s fun t =>
      t.chip.reserves = s.chip.reserves ++ [⟨d, x.id, p.1, p.2.1, p.2.2⟩] ∧
      (∀ r ∈ holdersOf s x.effective p, ∃ r', regionAt t r.id = some r' ∧ r'.yr = true) ∧ t.chip.shares = s.chip.shares ∧ SameMemory s t ∧
      SameRest s t

/-! ## Pre-emption, errors, the kiln (spec/14, spec/15) -/

/-- R94, R351 to R354: a region whose deadline is over, or that is quiet while a yield is asked, halts; its state is lifted into a context image
with its frames and the replies that no element has taken, a line that cannot be corrected being reported; when the image is complete the region gives back its units and its share
has the instance to place again. A request that is withdrawn clears YR and the frames parked by YIELD go on. The model's choices: what stands in
an image, and where in the save area (assumption 54); the time of a capture (assumption 24). -/
def Sys2Proof.Claims.RegionsAreSaved : Prop :=
  ∀ (k : Nat) (s : State) (r : Region), regionAt s k = some r →
    (∀ i kind, (i = Instr.deadlineExpiry k ∧ kind = 0x23 ∧ deadlineEnabled s k = true) ∨
        (i = Instr.cooperativeSave k ∧ kind = 0x22 ∧ cooperativeEnabled s k = true) → Completes i s fun t =>
      (∃ r', regionAt t k = some r' ∧ r' = { r with phase := .halting, reason := some kind }) ∧
      (∀ p, elemAt t p = elemAt s p) ∧ SameMemory s t ∧ SameRest s t) ∧
    (captureEnabled s k = true → Completes (.captureBegin k) s fun t =>
      (∃ v, t.chip.saved = s.chip.saved ++ [v] ∧ v.region = r ∧ v.frames = r.reserved ∧ v.rings = s.chip.rings.filter (fun g => r.holds g.tile) ∧
        v.elems = s.chip.elems.filter (fun x => r.holds x.1) ∧ v.reqs = s.chip.reqs.filter (fun q => q.r = r.id) ∧
        (∀ m ∈ s.chip.net, ∀ q ∈ s.chip.reqs, m.body = .done q.id → q.r = r.id → m ∈ v.net) ∧
        v.spad = imageLines s r ∧ t.savedFrames = s.savedFrames ++ r.reserved.map fun f => (v.id, f, frameAt s f)) ∧
      (∃ r' n, regionAt t k = some r' ∧ r' = { r with phase := .capturing n } ∧ s.fc ≤ n) ∧
      (∀ p, elemAt t p = if r.holds p then Elem.reset else elemAt s p) ∧ t.frames = s.frames ∧ Claims.Logged s t ∧ t.fc = s.fc ∧
      ((saveCells s r).find? s.chip.bad.contains = none → SameMemory s t) ∧
      ((saveCells s r).find? s.chip.bad.contains ≠ none → ∃ m ∈ t.chip.net, ∃ e, m.body = .abort k e ∧ e.abort = true)) ∧
    (∀ v, saveDone s k = true → s.chip.saved.find? (fun v => v.region.id = k) = some v → Completes (.saveComplete k) s fun t =>
      (∀ y ∈ t.chip.regions, y.id ≠ k) ∧ (∀ u ∈ r.units, (unitAt t u).region = none) ∧
      (∃ v' ∈ t.chip.saved, v'.id = v.id ∧ v'.region = { r with phase := .halting }) ∧ t.savedFrames = s.savedFrames ∧
      (∀ x, shareOfRegion s r = some x → shareAt s x.id = some x → ∃ x', shareAt t x.id = some x' ∧ x'.saved = x.saved ++ [v.id]) ∧
      (∀ a, (∀ y, partAt s v.region.part = some y → a < y.setup.saveBase ∨ y.setup.saveBase + y.setup.saveLen ≤ a) →
        t.hbm.read a = s.hbm.read a) ∧
      (∀ a, t.spad.read a = s.spad.read a) ∧ (∀ a, t.sram.read a = s.sram.read a) ∧ t.fc = s.fc) ∧
    (withdrawEnabled s k = true → Completes (.yrWithdraw k) s fun t =>
      (∃ r', regionAt t k = some r' ∧ r' = { r with yr := false, rem := 0, yrFor := none }) ∧
      (∀ f ∈ r.reserved, frameAt t f = { frameAt s f with yld := false }) ∧ (∀ f, f ∉ r.reserved → frameAt t f = frameAt s f) ∧
      SameMemory s t ∧ t.fc = s.fc)

/-- R356, R357: a saved instance whose place is free again is put back there: its units are its own and its configurations are installed again, its
image staying where it is; when the image has been written back RES rises, YR is clear, its frames come back unparked by YIELD and it runs. One
that held a tile which has left the tile map ends with EKILL. -/
def Sys2Proof.Claims.InstancesResume : Prop :=
  ∀ (k : Nat) (s : State) (v : Saved), resumeEnabled s k = true → savedAt s k = some v →
    (tileLost s v = false → Completes (.resume k) s fun t =>
      (∃ r ∈ t.chip.regions, r.id = v.region.id ∧ r.rects = v.region.rects ∧ r.units = v.region.units ∧
        ∃ n, r.phase = .loading r.image.configs.length n ∧ s.t18 ≤ n) ∧
      (∀ u ∈ v.region.units, (unitAt t u).region = some v.region.id) ∧ t.chip.saved = s.chip.saved ∧ SameMemory s t ∧ SameRest s t) ∧
    (tileLost s v = true → Completes (.resume k) s fun t =>
      (∀ y ∈ t.chip.saved, y.id ≠ v.id) ∧ t.chip.regions = s.chip.regions ∧
      t.chip.records = s.chip.records ++ [.error v.region.part (errorW0 (killReport v.region) v.region.more)
        (errorW1 (killReport v.region) v.region.run) 0 (nat64 (timeNs s))] ∧ t.frames = s.frames ∧ t.fc = s.fc)

/-- R357: when an image has been written back, the elements and rings of the region are what was saved, clean, and no frame is parked by YIELD. What
stands in an image is the model's choice (assumption 54). -/
def Sys2Proof.Claims.InstancesRestored : Prop :=
  ∀ (k e : Nat) (s : State) (r : Region) (v : Saved), loadDone s k = true → regionAt s k = some r → r.phase = .restoring e →
    s.chip.saved.find? (fun v => v.region.id = k) = some v → Completes (.installComplete k) s fun t =>
      (∃ r', regionAt t k = some r' ∧ r'.phase = .running ∧ r'.yr = false ∧ r'.units = r.units ∧
        r'.res = (if r.res = 255 then 255 else r.res + 1)) ∧
      (∀ f ∈ v.region.reserved, (frameAt t f).yld = false) ∧ (∀ y ∈ t.chip.saved, y.id ≠ v.id) ∧ (∀ y ∈ t.savedFrames, y.1 ≠ v.id) ∧
      (∀ g ∈ v.rings, g ∈ t.chip.rings) ∧
      ((∀ f ∈ s.chip.faults, f.answer = none) → ∀ p, v.region.holds p → elemAt t p = restoreElem (getKey Elem.reset p v.elems)) ∧
      t.fc = s.fc

/-- R361, R363: the first region error to be taken stops its region: no element of it holds anything, its requests are dead and YR is clear; a
later one is counted. A region in which nothing has moved for 2^20 fc takes EDEADLOCK from its control point; what the watchdog counts is the
model's reading (assumption 62). -/
def Sys2Proof.Claims.ErrorsStopRegions : Prop :=
  ∀ (s : State) (k : Nat) (r : Region), regionAt s k = some r →
    let stopped := fun (e : ErrorReport) (t : State) =>
      (∃ r', regionAt t k = some r' ∧ r'.error = some e ∧ r'.errTime = timeNs s ∧ r'.phase = .stopping ∧ r'.yr = false ∧ r'.units = r.units) ∧
      (∀ p, r.holds p → elemAt t p = Elem.reset) ∧ (∀ p, ¬ r.holds p → elemAt t p = elemAt s p) ∧ (∀ q ∈ t.chip.reqs, q.r = k → q.dead = true) ∧
      (∀ p, r.holds p → apAt t p = ApState.reset) ∧ t.frames = s.frames ∧ SameMemory s t ∧ t.fc = s.fc
    (∀ m x e, errorEnabled s m = true → msgAt s m = some x → x.body = .error k e →
      (r.error = none → Completes (.regionError m) s (stopped e)) ∧
      (r.error ≠ none → Completes (.regionError m) s fun t =>
        (∃ r', regionAt t k = some r' ∧ r' = { r with more := min 255 (r.more + 1) }) ∧ (∀ p, elemAt t p = elemAt s p) ∧ SameMemory s t ∧
        SameRest s t)) ∧
    (watchdogEnabled s k = true → Completes (.watchdog k) s (stopped ⟨codeEdeadlock, controlPoint r.homeClu, 0, 0, 0⟩))

/-- R361, R372 to R374: an abort completion, or the report of a mismatch, rolls back its region when NR is clear, no LAUNCH it has issued since its
replay point waits to be taken, fewer than three rollbacks have been made, and every input stream that has sent a block since its mark has a
replay window that no abort has met: its elements and CAMs hold nothing, its streams are to be replayed, its rollbacks are counted and it
reinstalls. One that may not be rolled back stops with EUE, or with ESDC for a mismatch. A report that comes in the step of another's rollback
changes nothing, and one of a stopped region is counted. The model's choices: what a report of an entry or a record names (assumption 89), which
error a damaged token shows (assumption 65), that a LAUNCH counts at issue (assumption 117). -/
def Sys2Proof.Claims.AbortsRollBack : Prop :=
  ∀ (m : Nat) (s : State) (x : Msg) (k : Nat) (e : AbortReport) (r : Region), abortEnabled s m = true → msgAt s m = some x → x.body = .abort k e →
    regionAt s k = some r → Completes (.abortCompletion m) s fun t =>
      t.frames = s.frames ∧ SameMemory s t ∧ t.fc = s.fc ∧
      let stays := r.error = none ∧ r.phase = .loading 0 (reinstallEnd s r) ∧ rollingBack r = true
      let met := fun (w : Pos × Nat) => w ∈ r.windowHits ∨ e.window = some w ∨
        (e.abort = true ∧ ∃ q, e.req.bind (reqAt s) = some q ∧ q.level = 0 ∧ (∃ p ∈ q.parts, p.st = .aborted) ∧ w = (unitOf q.home, q.h))
      let safe := fun (p : Pos) (y : Stream) =>
        y.input = true → y.mark < y.cursor → y.h2 ≠ 0 ∧ ¬met (unitOf p, y.h2)
      let back := r.nr = false ∧ launchPending s r = false ∧ r.rollbacks < 3 ∧
        (∀ q ∈ s.chip.qs, r.holds q.1 = true → ∀ y ∈ q.2.streams, safe q.1 y) ∧
        ∀ v ∈ s.chip.saved, v.region.id = r.id → ∀ q ∈ v.qs, ∀ y ∈ q.2.streams, safe q.1 y
      (r.error ≠ none → (∃ r', regionAt t k = some r' ∧ r'.error = r.error ∧ r'.phase = r.phase ∧ r'.more = min 255 (r.more + 1)) ∧
        ∀ p, elemAt t p = elemAt s p) ∧
      (stays → (∃ r', regionAt t k = some r' ∧ r'.error = none ∧ r'.phase = r.phase ∧ r'.rollbacks = r.rollbacks) ∧
        ∀ p, elemAt t p = elemAt s p) ∧
      (r.error = none → ¬stays →
        (∀ p, r.holds p → elemAt t p = Elem.reset) ∧ (∀ p, ¬ r.holds p → elemAt t p = elemAt s p) ∧
        (∀ p, r.holds p → apAt t p = ApState.reset) ∧
        (∀ q ∈ s.chip.qs, r.holds q.1 = true → ∃ q' ∈ t.chip.qs, q'.1 = q.1 ∧ q'.2.launches = q.2.launches ∧ q'.2.bound = q.2.bound ∧
          q'.2.engs = [] ∧ q'.2.streams = q.2.streams.map fun y => { y with open' := false, replay := true }) ∧
        (back → ∃ r', regionAt t k = some r' ∧ r'.phase = .loading 0 (reinstallEnd s r) ∧ r'.rollbacks = r.rollbacks + 1 ∧ r'.error = none) ∧
        (¬back → ∃ r', regionAt t k = some r' ∧ r'.error = some ⟨if e.abort then codeEue else codeEsdc, e.src, e.entry, e.tag, 0⟩ ∧
          r'.phase = .stopping))

/-- R369, R370: data that cannot be corrected, where it is stored: a block or line keeps its error for whoever reads it; a result whose residue does
not match is marked; what an element's stores, a buffer or an adjunct cache held is discarded, and an abort completion charged to the
element's entry and tag goes to the control point of its region; a token that is on its way has its residues or its RID changed, to be found
where they are checked. The model's choices: which of the two (assumption 65), and what the report of an entry names (assumption 89). -/
def Sys2Proof.Claims.ErrorsInStorage : Prop :=
  (∀ (q : BadHolder) (j : Nat) (s : State), (q = .block ∧ j < 2 ^ 34) ∨ (q = .spadLine ∧ j < 2560 * (spadBytes / 32)) ∨
      (q = .sramLine ∧ j < 80 * (sramBytes / 32)) → Completes (.uncorrectableData q j) s fun t =>
    t = { s with chip := { s.chip with bad := insertNew (badDatum q j) s.chip.bad } }) ∧
  (∀ (p : Pos) (k : Nat) (x : PipeOp) (s : State), opAt s p k = some x → Completes (.uncorrectableData (.result p) k) s fun t =>
    opAt t p k = some { x with bad := true } ∧ (∀ q, q ≠ p → elemAt t q = elemAt s q) ∧ SameMemory s t ∧ SameRest s t) ∧
  (∀ (j : Nat) (s : State) (x : Msg), onTheWay s j = true → msgAt s j = some x → (badHolder s (.token j)).isSome = true →
    Completes (.uncorrectableData .token j) s fun t =>
      (∃ x', msgAt t j = some x' ∧ (x' = { x with res := ~~~x.res } ∨ x' = { x with hdr := x.hdr ^^^ (1#72 <<< 64) })) ∧
      (∀ p, elemAt t p = elemAt s p) ∧ SameMemory s t ∧ SameRest s t) ∧
  ∀ (h : BadHolder) (j : Nat) (s : State) (p : Pos) (entry : Nat) (tag : Tag), badHolder s (badDatum h j) = some (p, entry, tag) →
    (h = .token → onTheWay s j = false) →
    Completes (.uncorrectableData h j) s fun t =>
    (∀ r, regionOf s p = some r → ∃ m ∈ t.chip.net, m.src = p ∧ m.dst = controlPoint r.homeClu ∧
      m.body = .abort r.id ⟨true, none, p, entry, tag, none⟩) ∧
    (∀ q, h = .entry q → (∀ y ∈ (elemAt t q).entries, y.id ≠ j)) ∧
    ((∀ q, h ≠ .entry q) → t.frames = s.frames) ∧
    (h = .token → j < s.nextId → msgAt t j = none ∧ (msgAt s j = none → ∀ y ∈ (elemAt t p).out, y.id ≠ j)) ∧
    (∀ q, h = .adjunct q → t.chip.adjunct = s.chip.adjunct.eraseIdx j) ∧
    t.chip.regions = s.chip.regions ∧ Claims.Logged s t ∧ t.fc = s.fc

/-- R369, R375: a corrected error delays the access that met it by 4 fc and raises its unit's current bucket and no other's; CECFG as it was last
written takes effect; a tile that crosses the threshold is queued for the kiln. When a die's bucket is over, every unit of the die begins a new
one and the oldest of 24 goes. Which access met the error is the model's choice (assumption 64), and so is what a changed CECFG leaves of a
count (assumption 118). -/
def Sys2Proof.Claims.CorrectedErrors : Prop :=
  (∀ (u : UnitName) (s : State), namedExists u = true → Completes (.correctedError u) s fun t =>
    (∀ k q, correctedAt s u = some (.req k) → reqAt s k = some q → reqAt t k = some { q with back := q.back + 4 }) ∧
    (∀ m x, correctedAt s u = some (.token m) → msgAt s m = some x → msgAt t m = some { x with due := s.fc + 4 }) ∧
    (∀ p k x, correctedAt s u = some (.op p k) → opAt s p k = some x → opAt t p k = some { x with due := x.due.map (· + 4) }) ∧
    (∀ p k, correctedAt s u = some (.entry p k) → ∀ x ∈ (elemAt s p).entries, x.id = k →
      (∀ d w, x.st = .spilling d w → { x with st := .spilling (d + 4) w } ∈ (elemAt t p).entries) ∧
      ∀ d, x.st = .filling d → { x with st := .filling (d + 4) } ∈ (elemAt t p).entries) ∧
    cecfgNow t (namedPlace u).die = cecfgAt s (namedPlace u).die ∧
    getKey [] u t.chip.buckets = bump (getKey [] u s.chip.buckets) ∧ (∀ w, w ≠ u → getKey [] w t.chip.buckets = getKey [] w s.chip.buckets) ∧
    (∀ p, u = .tile p → p ∉ s.gone → field (cecfgAt s (unitOf p).die) 31 16 < windowed (bump (getKey [] u s.chip.buckets)) →
      windowed (getKey [] u s.chip.buckets) ≤ field (cecfgAt s (unitOf p).die) 31 16 ∨
        windowed (getKey [] u s.chip.buckets) ≤ field (cecfgNow s (unitOf p).die) 31 16 → unitOf p ∈ t.chip.faulty) ∧
    Claims.Logged s t ∧ SameRest s t) ∧
  ∀ (s : State) (d : Nat), bucketDue s = some d → Completes .bucketRotate s fun t =>
    (∀ x ∈ s.chip.buckets, (namedPlace x.1).die = d → (x.1, 0 :: x.2.take 23) ∈ t.chip.buckets) ∧
    (∀ u, (namedPlace u).die ≠ d → getKey [] u t.chip.buckets = getKey [] u s.chip.buckets) ∧
    getKey 0 d t.chip.bucketNext = getKey 0 d s.chip.bucketNext + bucketTime s d ∧ SameMemory s t ∧ SameRest s t

/-- R376 to R379: the first queued tile, when it is free and of no use to a share, is given to the kiln's region. A scan that is over judges its tile: it
goes from the queue, and one that fails leaves the logical tile map; the tile's scratchpad is zero. An aborted test frees the tile and leaves
it queued. The kiln's image, and the signature that a scan captures, are the model's choices (assumption 16). -/
def Sys2Proof.Claims.KilnTests : Prop :=
  (∀ (s : State) (p : Pos) (r : Region), kilnTile s = some (p, r) → (kilnClaim { s with nextId := s.nextId + 1 } p s.nextId).isSome →
    Completes .kilnSubmit s fun t =>
      t.chip.kiln.tile = some p ∧ (∃ z ∈ t.chip.regions, z.kiln = true ∧ z.priv = true ∧ z.id = s.nextId ∧ z.rects = [(p.die, tileRect p)]) ∧
      t.chip.faulty = s.chip.faulty ∧ SameRest s t) ∧
  (∀ (s : State) (p : Pos) (x : Scan) (r : Region), scanDue s = some p → (qAt s p).scan = some x → regionOf s p = some r →
    let u := unitOf p
    (x.scanned = false → MemoryOk s → Completes .kilnScanEnd s fun t =>
      u ∉ t.chip.faulty ∧ (qAt t p).scan = some { x with scanned := true, ends := s.t18 + 36000 } ∧ t.chip.kiln.busy = false ∧
      (∀ a, t.spad.read a = if tileNo u * spadBytes ≤ a ∧ a < (tileNo u + 1) * spadBytes then 0 else s.spad.read a) ∧
      ((t.gone = s.gone ∧ t.chip.kiln.pass = s.chip.kiln.pass + 1) ∨ (u ∈ t.gone ∧ t.chip.kiln.fail = s.chip.kiln.fail + 1)) ∧
      t.frames = s.frames ∧ t.fc = s.fc) ∧
    (x.scanned = true → Completes .kilnScanEnd s fun t =>
      (qAt t p).scan = none ∧ (∀ o, opAt s p x.op = some o → opAt t p x.op = some { o with wait := .none, due := some s.fc }) ∧
      t.chip.faulty = s.chip.faulty ∧ SameMemory s t ∧ SameRest s t)) ∧
  ∀ (s : State) (r : Region), kilnAbortEnabled s = true → kilnRegion s = some r → regionAt s r.id = some r →
    Completes .kilnAbort s fun t =>
    (∀ y ∈ t.chip.regions, y.id ≠ r.id) ∧ (∀ u ∈ r.units, (unitAt t u).region = none) ∧ t.chip.faulty = s.chip.faulty ∧
    t.chip.kiln.abort = s.chip.kiln.abort + 1 ∧ t.chip.kiln.busy = false ∧ t.gone = s.gone ∧ t.fc = s.fc

/-! ## The host, power and boot (spec/16) -/

namespace Sys2Proof.Claims

open Sys2Proof Sys2Proof.Machine

/-- A request for physical memory stands at its home controllers with these parts (R282, R316, R383, R389). -/
def AtHome (t : State) (client : Client) (op : ROp) (n : Nat) (b c : Wide) (parts : List (List (Nat × Nat) × Nat × Option Nat)) : Prop :=
  ∃ q ∈ t.chip.reqs, q.client = client ∧ q.op = op ∧ q.n = n ∧ q.b = b ∧ q.c = c ∧
    q.parts.map (fun p => (p.lanes, p.pa, p.key)) = parts.map fun x => (x.1, some x.2.1, x.2.2)

/-- The 64-byte blocks of a BAR1 access: the offset of each one's first byte, and how many there are. -/
def hostBlocks (va n : Nat) : List (Nat × Nat) :=
  (groupBlocks (va + ·) ((List.range n).map fun i => (i, i))).map fun l => ((l.headD (0, 0)).2, l.length)

/-- A byte of a BAR1 access under reduced service lies at this byte of cluster SRAM, and no later byte does. -/
def lastAt (s : State) (va n i x : Nat) : Prop :=
  (∃ u, reducedAddr s (va + i) = some (x, u)) ∧ ∀ j z, i < j → j < n → reducedAddr s (va + j) = some z → z.1 ≠ x

end Sys2Proof.Claims

/-- R381, R382, R389: PSETUP, in range and with its groups free, begins a setup of at most 100 µs, in which nothing is placed in the partition; a bad
one has status 3, one with a group in use status 2. WINSET and EXPSET write one entry; requests issued before a WINSET keep the entry it replaces.
Status 3, PCSTAT during a setup and the empty groups are the model's choice (log entries 57, 106). -/
def Sys2Proof.Claims.PartitionCommands : Prop :=
  ∀ (fn : Nat) (s : State), commandEnabled s fn = true →
    (∀ a, fn = 0 → setupStatus a s = 0 → Completes (.psetup fn a) s fun t =>
      (∃ till, till ≤ s.t18 + 18 * 100000 ∧ fnAt t fn = { fnAt s fn with pcwork := some (.setup a till) }) ∧
      partAt t a.part = (partAt s a.part).map (fun p => { p with setup := { p.setup with groups := [] } }) ∧
      (∀ k, k ≠ a.part → partAt t k = partAt s k) ∧ SameMemory s t ∧ SameRest s t) ∧
    (∀ a, fn = 0 → setupStatus a s ≠ 0 → Completes (.psetup fn a) s fun t =>
      (fnAt t fn).pcstat = nat64 (setupStatus a s) ∧ t.chip.partitions = s.chip.partitions ∧ SameMemory s t ∧ SameRest s t) ∧
    (∀ pt w e p, fn = 0 → winStatus pt w e s = 0 → partAt s pt = some p → Completes (.winset fn pt w e) s fun t =>
      (∃ p', partAt t pt = some p' ∧ getKey 0 w p'.windows = e ∧ (∀ v, v ≠ w → getKey 0 v p'.windows = getKey 0 v p.windows) ∧
        p'.setup = p.setup) ∧ (∀ i, s.nextId ≤ i → (∀ x ∈ p.past, x.1 ≤ s.nextId) → windowEntry t pt w i = e) ∧
      (∀ i v, i < s.nextId → windowEntry t pt v i = windowEntry s pt v i) ∧ (fnAt t fn).pcstat = 0 ∧ SameMemory s t ∧ SameRest s t) ∧
    (∀ i e, fn = 0 → expStatus i e s = 0 → Completes (.expset fn i e) s fun t =>
      getKey 0 i t.chip.exports = e ∧ (∀ j, j ≠ i → getKey 0 j t.chip.exports = getKey 0 j s.chip.exports) ∧ (fnAt t fn).pcstat = 0 ∧
      SameMemory s t ∧ SameRest s t)

/-- R195, R292, R318 to R321, R382, R385: a command that has begun goes on when what it waits for has happened. A setup ends: the partition has its
setup and no window; its clusters' memory is zero under its owner tag; TLB entries of the clusters and, on a die, of the partition are gone. A GINSTALL
that has read its image puts the graph into the lowest free entry and its records into HBM, or has its code. A TLBINV is over when what was translated
before it has been performed. A descriptor performs the command of its code. The order of codes and the records' place are the model's (log entries 26,
80). -/
def Sys2Proof.Claims.CommandsEnd : Prop :=
  ∀ (fn : Nat) (s : State), fn ≤ 8 →
    let t := applyAll (endCommand fn s) s
    (∀ a till, (fnAt s fn).pcwork = some (.setup a till) → s.t18 < till → t = s) ∧
    (∀ a till, (fnAt s fn).pcwork = some (.setup a till) → till ≤ s.t18 → (∀ g ∈ a.groups, g < 8) → MemoryOk s →
      partAt t a.part = some ⟨a, [], [], !s.chip.power.full⟩ ∧ (∀ k, k ≠ a.part → partAt t k = partAt s k) ∧
      (fnAt t fn).pcstat = 0 ∧ (fnAt t fn).pcwork = none ∧
      (∀ g ∈ a.groups, ∀ c ∈ groupClusters g, cluTlbAt t c = [] ∧
        (∀ x, cluNo c * 32 * spadBytes ≤ x → x < (cluNo c + 1) * 32 * spadBytes →
          t.spad.read x = 0 ∧ ownerOf t.chip.spadOwner (x / 32) = a.part) ∧
        ∀ x, cluNo c * sramBytes ≤ x → x < (cluNo c + 1) * sramBytes → t.sram.read x = 0 ∧ ownerOf t.chip.sramOwner (x / 32) = a.part) ∧
      (∀ d e, e ∈ dieTlbAt t d ↔ e ∈ dieTlbAt s d ∧ e.part ≠ a.part) ∧ (∀ x, t.hbm.read x = s.hbm.read x) ∧ SameRest s t) ∧
    (∀ im tab n f, (fnAt s fn).pcwork = some (.graph im tab n) → fetchFor s (.graph fn) = some f → f.left = 0 →
      let refused := fun (st : Nat) => (fnAt t fn).pcstat = nat64 st ∧ (fnAt t fn).pcwork = none ∧ t.chip.graphs = s.chip.graphs ∧
        t.chip.reqs = s.chip.reqs ∧ SameMemory s t ∧ SameRest s t
      (graphOperands s (partOfFn fn) im tab = none ∨ f.range 0 = none → refused 0x42) ∧
      ∀ g, graphOperands s (partOfFn fn) im tab = some g → f.range 0 ≠ none →
        (graphStatus (f.word 1) n g s ≠ 0 → refused (graphStatus (f.word 1) n g s)) ∧
        ∀ k, graphStatus (f.word 1) n g s = 0 → freeGraph s = some k →
          (∃ y, t.chip.graphs = s.chip.graphs ++ [y] ∧ y.id = k ∧ y.part = partOfFn fn ∧ y.handles = g.handles ∧
            y.nodes = recordsOf (f.word 1) g ∧ y.records.length = y.nodes.length ∧
            (s.chip.power.full = true → ∀ i ws, y.records[i]? = some ws →
              ∃ q ∈ t.chip.reqs, q.client = .record none ∧ q.op = .engWrite ∧ q.p = dieUnit (homeDie i) ∧ q.b = ofBytes (wordBytes ws) ∧
                q.parts.map (·.pa) = [some (recordPlace k i)])) ∧
          (∀ j, j < k → (graphAt s j).isSome) ∧ graphAt s k = none ∧ (fnAt t fn).pcstat = place k 8 ∧ (fnAt t fn).pcwork = none ∧
          SameMemory s t ∧ SameRest s t) ∧
    (∀ bound part, (fnAt s fn).pcwork = some (.inv bound part) →
      (translatedDone s bound part = true → fnAt t fn = { fnAt s fn with pcwork := none, pcstat := 0 } ∧ SameMemory s t ∧ SameRest s t) ∧
      (translatedDone s bound part = false → t = s)) ∧
    ((fnAt s fn).pcwork = some .descriptor → ∀ f, fetchFor s (.command fn) = some f → f.left = 0 → hostServed s = true →
      let u := applyAll (andThen (updFn fn fun y => { y with pcwork := none }) (dropFetch (.command fn)) s) s
      (f.word 0 0 = none → fnAt t fn = { fnAt s fn with pcwork := none, pcstat := 3 } ∧ SameMemory s t ∧ SameRest s t) ∧
      ∀ ws : List Word, ws.length = 8 → (∀ i, i < 8 → f.word 0 i = ws[i]?) → ∀ i : Instr,
        (field (ws.getD 0 0) 7 0 = 0x02 ∧ i = .ginstall fn (ws.getD 1 0) (ws.getD 2 0) (ws.getD 3 0).toNat) ∨
        (field (ws.getD 0 0) 7 0 = 0x03 ∧ i = .gremove fn (ws.getD 1 0).toNat) ∨
        (field (ws.getD 0 0) 7 0 = 0x0B ∧ i = .winset fn (field (ws.getD 1 0) 2 0) (field (ws.getD 2 0) 11 0) (ws.getD 3 0)) ∨
        (field (ws.getD 0 0) 7 0 = 0x0C ∧ i = .expset fn (ws.getD 1 0).toNat (ws.getD 2 0)) → exec i u = .next t)

/-- R292, R319, R385, R386, R389, R393, R394: a command of the physical function that a virtual one gives, or the other way round, has status 1; one
whose operands are bad, or that cannot be served now, has the status that says so; neither does anything else. -/
def Sys2Proof.Claims.CommandRefusals : Prop :=
  ∀ (fn : Nat) (s : State), commandEnabled s fn = true →
    let only := fun (st : Nat) (t : State) => (fnAt t fn).pcstat = nat64 st ∧ (∀ g, g ≠ fn → fnAt t g = fnAt s g) ∧
      { t.chip with fns := s.chip.fns } = s.chip ∧ SameMemory s t ∧ SameRest s t
    (∀ i, (∃ a, i = Instr.psetup fn a) ∨ (∃ pt w e, i = .winset fn pt w e) ∨ (∃ k e, i = .expset fn k e) ∨ (∃ d b l, i = .elog fn d b l) ∨
      (∃ d, i = .pwr fn d) ∨ (∃ m, i = .cgate fn m) → fn ≠ 0 → Completes i s (only 1)) ∧
    (∀ i, (∃ im tab n, i = Instr.ginstall fn im tab n) ∨ (∃ g, i = .gremove fn g) ∨ (∃ a, i = .tlbinv fn a) ∨ (∃ f r, i = .fanswer fn f r) ∨
      (∃ r, i = .kill fn r) → fn = 0 → Completes i s (only 1)) ∧
    (∀ pt w e, fn = 0 → winStatus pt w e s ≠ 0 → Completes (.winset fn pt w e) s (only (winStatus pt w e s))) ∧
    (∀ i e, fn = 0 → expStatus i e s ≠ 0 → Completes (.expset fn i e) s (only (expStatus i e s))) ∧
    (∀ d b l, fn = 0 → elogStatus d b l s ≠ 0 → Completes (.elog fn d b l) s (only (elogStatus d b l s))) ∧
    (∀ d, fn = 0 → pwrStatus d s ≠ 0 → Completes (.pwr fn d) s (only (pwrStatus d s))) ∧
    (∀ m, fn = 0 → gateStatus m s ≠ 0 → Completes (.cgate fn m) s (only (gateStatus m s))) ∧
    (∀ i, (∃ im tab n, i = Instr.ginstall fn im tab n) ∨ (∃ a, i = .tlbinv fn a) → fn ≠ 0 → partSet s fn = false → Completes i s (only 3))

/-- R318, R319, R361, R385: GINSTALL begins to read its image and table, or has status 0x42 where it names none; GREMOVE takes
a graph with no run away; KILL ends every region of the run that has no error yet, and every saved instance, with EKILL, and no share of the run
gives out another. A command whose operands name nothing has status 3. -/
def Sys2Proof.Claims.GraphCommands : Prop :=
  ∀ (fn : Nat) (s : State), commandEnabled s fn = true → fn ≠ 0 →
    (∀ im tab n g, partSet s fn = true → graphOperands s (partOfFn fn) im tab = some g → Completes (.ginstall fn im tab n) s fun t =>
      Claims.ReadBegins s t (.graph fn) (partOfFn fn) [(im.toNat, g.size), (tab.toNat, 8 * min n g.names)] ∧
      fnAt t fn = { fnAt s fn with pcwork := some (.graph im tab n) } ∧ t.chip.graphs = s.chip.graphs) ∧
    (∀ im tab n, partSet s fn = true → graphOperands s (partOfFn fn) im tab = none → Completes (.ginstall fn im tab n) s fun t =>
      (fnAt t fn).pcstat = 0x42 ∧ t.chip.graphs = s.chip.graphs ∧ SameMemory s t ∧ SameRest s t) ∧
    (∀ g, Completes (.gremove fn g) s fun t =>
      (fnAt t fn).pcstat = nat64 (removeStatus (partOfFn fn) g s) ∧
      t.chip.graphs = (if removeStatus (partOfFn fn) g s = 0 then s.chip.graphs.filter (fun x => x.id ≠ g) else s.chip.graphs) ∧
      SameMemory s t ∧ SameRest s t) ∧
    (∀ run r, runAt s run = some r → r.part = partOfFn fn → Completes (.kill fn run) s fun t =>
      (fnAt t fn).pcstat = 0 ∧ (∀ k x, regionAt t k = some x → x.run = run → x.kiln = false → x.error.isSome) ∧
      (∀ k x, regionAt s k = some x → x.run = run → x.kiln = false → x.error = none →
        ∃ x', regionAt t k = some x' ∧ x'.error = some (killReport x) ∧ x'.phase = .stopping) ∧
      (∀ v ∈ s.chip.saved, v.region.run = run → regionAt s v.region.id = none → ∀ y ∈ t.chip.saved, y.id ≠ v.id) ∧
      (∀ x ∈ t.chip.shares, x.run = run → x.failed = true) ∧ t.fc = s.fc) ∧
    ∀ run, ((runAt s run).any fun r => r.part == partOfFn fn) = false → Completes (.kill fn run) s fun t =>
      (fnAt t fn).pcstat = 3 ∧ t.chip.regions = s.chip.regions ∧ t.chip.shares = s.chip.shares ∧ SameMemory s t ∧ SameRest s t

/-- R290, R292, R359, R371: TLBINV drops the translations of its scope, keeps the others and makes the walks it meets begin anew; FANSWER answers an
open fault of its partition once: resumed, the part seeks its translation again, and its frame is unparked when it has one; rejected, the request is
dead and its region has the error; the answer of a request in a context image waits there. ELOG gives a die an empty log ring. When the frame is
unparked, and the empty ring, are the model's reading (log entries 119, 57). -/
def Sys2Proof.Claims.TranslationCommands : Prop :=
  ∀ (fn : Nat) (s : State), commandEnabled s fn = true →
    (∀ a, fn ≠ 0 → partSet s fn = true → Completes (.tlbinv fn a) s fun t =>
      (∀ d e, e ∈ dieTlbAt t d ↔ e ∈ dieTlbAt s d ∧ scopeHits a (partOfFn fn) e = false) ∧
      (∀ c e, e ∈ cluTlbAt t c ↔ e ∈ cluTlbAt s c ∧ scopeHits a (partOfFn fn) e = false) ∧
      (∀ m ∈ s.chip.misses, m.walking = true → missHits a (partOfFn fn) m = true → { m with again := true } ∈ t.chip.misses) ∧
      fnAt t fn = (if translatedDone s s.nextId (partOfFn fn) then { fnAt s fn with pcwork := none, pcstat := 0 }
        else { fnAt s fn with pcwork := some (.inv s.nextId (partOfFn fn)) }) ∧ SameMemory s t ∧ SameRest s t) ∧
    (∀ fid (resume : Bool) f q p, fn ≠ 0 → openFault s fn fid = some f → (∀ v ∈ s.chip.saved, ∀ y ∈ v.reqs, y.id ≠ f.req) →
      reqAt s f.req = some q → q.dead = false → q.parts[f.j]? = some p → Completes (.fanswer fn fid resume) s fun t =>
        (fnAt t fn).pcstat = 0 ∧ (∀ y ∈ t.chip.faults, y.fid ≠ fid) ∧
        (resume = true → tlbFind (cluTlbAt s q.p) q.part p.va = none → tlbFind (dieTlbAt s q.p.die) q.part p.va = none →
          t.frames = s.frames ∧
            ∃ q' p', partAtReq t f.req f.j = some (q', p') ∧ p'.st = .hub ∧ p'.pa = none ∧ p'.owes = true ∧ p'.lanes = p.lanes) ∧
        (∀ x, resume = true → tlbFind (cluTlbAt s q.p) q.part p.va = some x →
          (frameAt t (frameOf q.tag)).pfc = (frameAt s (frameOf q.tag)).pfc - 1) ∧
        (resume = false → (∀ y ∈ t.chip.reqs, y.id = q.id → y.dead = true) ∧ ∀ r, regionAt s q.r = some r → ∃ m ∈ t.chip.net, m.dst = controlPoint r.homeClu ∧
          m.body = .error r.id ⟨reqCode q codeEprot, reqSource q, reqEntryNo q, q.tag, nat64 fid⟩) ∧ SameMemory s t ∧ t.fc = s.fc) ∧
    (∀ fid (resume : Bool) f, fn ≠ 0 → openFault s fn fid = some f → (∃ v ∈ s.chip.saved, ∃ y ∈ v.reqs, y.id = f.req) →
      Completes (.fanswer fn fid resume) s fun t =>
        (fnAt t fn).pcstat = 0 ∧ (∀ y ∈ t.chip.faults, y.fid = fid → y.answer = some resume) ∧ t.chip.saved = s.chip.saved ∧
        t.chip.reqs = s.chip.reqs ∧ SameMemory s t ∧ SameRest s t) ∧
    (∀ fid resume, fn ≠ 0 → openFault s fn fid = none → Completes (.fanswer fn fid resume) s fun t =>
      (fnAt t fn).pcstat = 3 ∧ t.chip.faults = s.chip.faults ∧ t.chip.reqs = s.chip.reqs ∧ SameMemory s t ∧ SameRest s t) ∧
    ∀ d base len, fn = 0 → elogStatus d base len s = 0 → Completes (.elog fn d base len) s fun t =>
      (∃ l, t.chip.logs.find? (fun l => l.die = d) = some l ∧ l.base = base ∧ l.len = len ∧ l.written = 0 ∧ l.drops = 0) ∧
      (∀ e, e ≠ d → t.chip.logs.find? (fun l => l.die = e) = s.chip.logs.find? fun l => l.die = e) ∧ (fnAt t fn).pcstat = 0 ∧ SameMemory s t ∧
      SameRest s t

/-- R392 to R395: PWR to DPS0 to DPS2 stops the fabric for 5 µs, or 20 µs out of DPS3, and the state follows at the end of the stop; to DPS4 it takes
everything away but the tile map, the kiln's queue, the dies' temperatures and a clamp that stays, as a failed retrain does; from there any lower state lets the module boot. A clamp stays while a
junction is at 100 °C or more. CGATE switches the clusters of its mask off and the others
on. A junction at 110 °C clamps the clock to DPS2, sets THC and interrupts the host. That a change to DPS3 needs no stop, that CGATE switches on what its
mask does not name and that the refresh begins from an unknown phase when DPS3 is left are the model's choices (log entries 60, 57, 61). -/
def Sys2Proof.Claims.PowerStates : Prop :=
  (∀ (fn dps : Nat) (s : State), commandEnabled s fn = true → fn = 0 → pwrStatus dps s = 0 →
    let stays := s.chip.power.thc = true ∧ ∃ x ∈ s.chip.power.junction, (100 : Int) ≤ x.2
    (dps ≤ 2 → Completes (.pwr fn dps) s fun t =>
      (stays → t.chip.power.stopEnds = some (s.t18 + 18 * (if s.chip.power.dps = 3 then 20000 else 5000), max 2 dps) ∧ t.chip.power.thc = true) ∧
      (¬stays → t.chip.power.stopEnds = some (s.t18 + 18 * (if s.chip.power.dps = 3 then 20000 else 5000), dps) ∧ t.chip.power.thc = false) ∧
      t.chip.power.dps = s.chip.power.dps ∧ (fnAt t fn).pcstat = 0 ∧ SameMemory s t ∧ SameRest s t) ∧
    (dps = 3 → Completes (.pwr fn dps) s fun t => t.chip.power.dps = 3 ∧ t.chip.power.stopEnds = none ∧ (t.chip.power.thc = true ↔ stays) ∧
      (fnAt t fn).pcstat = 0 ∧ SameMemory s t ∧ SameRest s t)) ∧
  (∀ (fn dps : Nat) (s : State), fn ≤ 8 → s.chip.power.halted = true → Completes (.pwr fn dps) s fun t =>
    t = if fn = 0 ∧ dps < 4 then { s with chip := { s.chip with power := { s.chip.power with halted := false } } } else s) ∧
  (∀ (s : State) (e d : Nat), stopOver s = true → s.chip.power.stopEnds = some (e, d) → Completes .fabricStopEnd s fun t =>
    t.chip.power.dps = (if s.chip.power.thc ∧ d < 2 then 2 else d) ∧ t.chip.power.stopEnds = none ∧
    (s.chip.power.dps = 3 → t.chip.ctrls = [] ∧ t.chip.power.refFrom = s.t18) ∧ SameMemory s t ∧ SameRest s t) ∧
  (∀ (i : Instr) (s : State), (∃ l, i = .linkRetrainFail l ∧ l < 4 ∧ hostServed s = true) ∨
      (i = .pwr 0 4 ∧ commandEnabled s 0 = true ∧ pwrStatus 4 s = 0) → MemoryOk s → Completes i s fun t =>
    t.chip.power.dps = 4 ∧ t.chip.power.halted = true ∧ t.chip.power.booted = false ∧ t.chip.regions = [] ∧ t.chip.runs = [] ∧ t.chip.net = [] ∧
    t.chip.partitions = [] ∧ t.chip.graphs = [] ∧ t.chip.faulty = s.chip.faulty ∧ t.gone = s.gone ∧ (∀ a, t.hbm.read a = 0) ∧
    (∀ a, a < 80 * 32 * spadBytes → t.spad.read a = 0) ∧ (∀ a, a < 80 * sramBytes → t.sram.read a = 0) ∧ (∀ f, frameAt t f = FrameRec.reset) ∧
    t.chip.power.junction = s.chip.power.junction ∧ (t.chip.power.thc = true → s.chip.power.thc = true) ∧
    ((∃ x ∈ s.chip.power.junction, (100 : Int) ≤ x.2) → t.chip.power.thc = s.chip.power.thc)) ∧
  (∀ (s : State) (mask : List Pos), commandEnabled s 0 = true → gateStatus mask s = 0 → Completes (.cgate 0 mask) s fun t =>
    (∀ c, c ∈ t.chip.power.gated ↔ ∃ m ∈ mask, c = cluOf m) ∧ (fnAt t 0).pcstat = 0 ∧ (∀ a, t.hbm.read a = s.hbm.read a) ∧ SameRest s t) ∧
  ∀ (d : Nat) (x : Int) (s : State), d < 4 → Completes (.thermalClamp d x) s fun t =>
    getKey 0 d t.chip.power.junction = x ∧
    (110 ≤ x → s.chip.power.thc = false → t.chip.power.thc = true ∧ t.chip.power.dps = max 2 s.chip.power.dps ∧ t.chip.irqs = s.chip.irqs ++ [.clamp]) ∧
    (x < 110 ∨ s.chip.power.thc = true → t.chip.power.thc = s.chip.power.thc ∧ t.chip.power.dps = s.chip.power.dps ∧ t.chip.irqs = s.chip.irqs) ∧ SameMemory s t ∧ SameRest s t

/-- R397 to R400: a boot whose checks pass begins reduced service, one that fails halts in DPS4 at the stage that fails; each stage that has been
verified extends its register. When training has ended new launches wait; when no run is left full service begins in DPS0, or in DPS2 while clamped.
ATTEST signs the eight registers with the nonce. The registers' zeros, the checks' outcome, the digests and the signature, and the phase of the refresh
are the model's (log entries 13, 17, 61). -/
def Sys2Proof.Claims.BootAndService : Prop :=
  (∀ s, bootEnabled s = true → Completes .boot s fun t =>
    ((∀ i, i < 4 → Config.stageOk i = true) → t.chip.power = { s.chip.power with booted := true, dps := 5 }) ∧
    ((∃ i, i < 4 ∧ Config.stageOk i = false) → t.chip.power = { s.chip.power with halted := true }) ∧ t.measure.length = 8 ∧
    (∀ i, i < 4 → (∀ j, j ≤ i → Config.stageOk j = true) → t.measure[i]? = some (Config.sm3 0 (Config.stageDigest i))) ∧
    (∀ i, i < 8 → (4 ≤ i ∨ ∃ j, j ≤ i ∧ Config.stageOk j = false) → t.measure[i]? = some 0) ∧
    SameMemory s t ∧ t.frames = s.frames ∧ t.gone = s.gone) ∧
  (∀ s, trainingEnabled s = true → Completes .trainingEnd s fun t =>
    t = { s with chip := { s.chip with power := { s.chip.power with training := true } } } ∧ ∀ d, takeAct t d = .none) ∧
  (∀ s, fullEnabled s = true → Completes .fullService s fun t =>
    t.chip.power.full = true ∧ t.chip.power.training = false ∧ t.chip.power.dps = (if s.chip.power.thc then 2 else 0) ∧
    t.chip.power.refFrom = s.t18 ∧ t.chip.ctrls = [] ∧ t.chip.regions = s.chip.regions ∧ SameMemory s t ∧ SameRest s t) ∧
  ∀ (fn : Nat) (nonce : BitVec 256) (s : State), commandEnabled s fn = true → Completes (.attest fn nonce) s fun t =>
    (fnAt t fn).attest = some (s.measure, nonce, Config.attestSig s.measure nonce) ∧ (fnAt t fn).pcstat = 0 ∧ (∀ g, g ≠ fn → fnAt t g = fnAt s g) ∧
    SameMemory s t ∧ SameRest s t

/-- R282, R316, R383, R389, R390, R397: a BAR1 access under full service goes to the home controllers, a request for each 64-byte block of the window's 64
GiB, a virtual function's translated and under its key; they perform it. Under reduced service it reads and writes the mapped cluster SRAM. A peer's
request goes to the home controllers when an export lets it in, and is refused when none does or there is no HBM. That images are objects, who finds
them, and that a read shows zeros until its bytes come is the model's choice (log entries 1, 59, 88). -/
def Sys2Proof.Claims.OutsideAccesses : Prop :=
  (∀ (fn : Nat) (s : State), fn ≤ 8 → hostServed s = true →
    (∀ va n, s.chip.power.full = true → Completes (.hostBar1Access fn (.read va n)) s fun t =>
      (fnAt t fn).bar1 = List.replicate n 0 ∧ (∀ g, g ≠ fn → fnAt t g = fnAt s g) ∧
      (∀ x ∈ Claims.hostBlocks va n, ∀ pa key, barAddr s fn (va + x.1) false = some (pa, key) →
        Claims.AtHome t (.host fn x.1) .engRead 1 0 0 (bytesParts pa x.2 key)) ∧
      (2 ^ 36 ≤ va ∨ (∀ x ∈ Claims.hostBlocks va n, barAddr s fn (va + x.1) false = none) → t.chip.reqs = s.chip.reqs) ∧
      SameMemory s t ∧ SameRest s t) ∧
    (∀ va v, s.chip.power.full = true → Completes (.hostBar1Access fn (.write va v)) s fun t =>
      t.chip.fns = s.chip.fns ∧
      (∀ x ∈ Claims.hostBlocks va v.length, ∀ pa key, barAddr s fn (va + x.1) true = some (pa, key) →
        Claims.AtHome t (.host fn x.1) .engWrite 1 (ofBytes ((v.drop x.1).take x.2)) 0 (bytesParts pa x.2 key)) ∧
      (2 ^ 36 ≤ va ∨ (∀ x ∈ Claims.hostBlocks va v.length, barAddr s fn (va + x.1) true = none) → t.chip.reqs = s.chip.reqs) ∧
      SameMemory s t ∧ SameRest s t) ∧
    (∀ va n, s.chip.power.full = false → Completes (.hostBar1Access fn (.read va n)) s fun t =>
      ((∀ j, j < n → ∃ y, reducedAddr s (va + j) = some y ∧ s.chip.bad.contains (.sramLine (y.1 / 32)) = false) →
        ∀ i x, i < n → reducedAddr s (va + i) = some x →
          (fnAt t fn).bar1[i]? = some (if fn = 0 ∨ ownerOf s.chip.sramOwner (x.1 / 32) = partOfFn fn then s.sram.read x.1 else 0)) ∧
      (∀ g, g ≠ fn → fnAt t g = fnAt s g) ∧ t.chip.reqs = s.chip.reqs ∧ SameMemory s t ∧ SameRest s t) ∧
    (∀ va v, s.chip.power.full = false → MemoryOk s → Completes (.hostBar1Access fn (.write va v)) s fun t =>
      (∀ i x, i < v.length → Claims.lastAt s va v.length i x → t.sram.read x = (v[i]?).getD 0) ∧
      (∀ x, (∀ i y, i < v.length → reducedAddr s (va + i) = some y → y.1 / 32 ≠ x / 32) → t.sram.read x = s.sram.read x) ∧
      (∀ x, t.hbm.read x = s.hbm.read x) ∧ (∀ x, t.spad.read x = s.spad.read x) ∧ SameRest s t) ∧
    (∀ va im, Completes (.hostBar1Access fn (.putImage va im)) s fun t =>
      (∀ p ∈ objectParts s fn, t.chip.images.find? (fun x => x.1 = p ∧ x.2.1 = va) = some (p, va, im)) ∧
      (∀ y ∈ s.chip.images, y.2.1 ≠ va → y ∈ t.chip.images) ∧ SameMemory s t ∧ SameRest s t) ∧
    ∀ va g, Completes (.hostBar1Access fn (.putGraph va g)) s fun t =>
      (∀ p ∈ objectParts s fn, graphImageAt t p va = some g) ∧
      (∀ y ∈ s.chip.graphImages, y.2.1 ≠ va → y ∈ t.chip.graphImages) ∧ SameMemory s t ∧ SameRest s t) ∧
  ∀ (a : PeerAccess) (s : State), hostServed s = true →
    let lets := s.chip.power.full && (s.chip.exports.any fun x => exportLets a x.2) && peerSize a
    let taken := fun (t : State) => t.chip.peerIn = s.chip.peerIn ++ [(s.nextId, a)] ∧ t.chip.peerOut = s.chip.peerOut ∧
      SameMemory s t ∧ SameRest s t
    (lets = false → Completes (.peerRequest a) s fun t => t.chip.peerOut = s.chip.peerOut ++ [⟨s.nextId, .answer, a, none⟩] ∧
      t.chip.reqs = s.chip.reqs ∧ SameMemory s t ∧ SameRest s t) ∧
    (∀ n, lets = true → a.op = .read n → Completes (.peerRequest a) s fun t =>
      Claims.AtHome t (.peer s.nextId) .engRead 1 0 0 (bytesParts a.pa n none) ∧ taken t) ∧
    (∀ v, lets = true → a.op = .write v → Completes (.peerRequest a) s fun t =>
      Claims.AtHome t (.peer s.nextId) .engWrite 1 (ofBytes v) 0 (bytesParts a.pa v.length none) ∧ taken t) ∧
    ∀ op n b c, lets = true → a.op = .atomic op n b c → Completes (.peerRequest a) s fun t =>
      Claims.AtHome t (.peer s.nextId) (.atomic op) n (ofWord b) (ofWord c) [([(0, 0)], a.pa, none)] ∧ taken t

/-! ## Host registers and observation (spec/04, spec/16, spec/17) -/

/-- R108, R386, R401, R403, R406, R408: writes of the host's registers. A good CSRAMCFG is taken; a bad one, or one of a cluster in use, sets ERR and
keeps the fields; a ring's BASE and LEN clear WP and RP; DROPS becomes 0; a selector's counters become 0; GECFG, CECFG, the deadlines, RP and
EVMASK hold what is written; SMPCFG begins the round of samples anew; PCMD begins to read the descriptor at its address; a virtual function's write at
the physical function's registers, or one at an offset that is no register's, is ignored. The length that a bad LEN gives, and where a round begins,
are the model's choices (log entries 27, 62). -/
def Sys2Proof.Claims.HostRegisters : Prop :=
  ∀ (fn : Nat) (v : Word) (s : State), fn ≤ 8 → hostServed s = true →
    let same := fun (t : State) => SameMemory s t ∧ SameRest s t
    (∀ u : Pos, u.die < 4 → u.clu < 20 → Completes (.csramcfgWrite fn u v) s fun t =>
      let held := clusterHeld s u || s.chip.regions.any fun r => r.mills.any fun m => cluOf m.1 == cluOf u
      let good := field v 20 16 + field v 12 8 + field v 4 0 = 16 ∧ held = false
      (fn = 0 → good → field (csramAt t u) 20 16 = field v 20 16 ∧ field (csramAt t u) 12 8 = field v 12 8 ∧ field (csramAt t u) 4 0 = field v 4 0 ∧
        (csramAt t u).getLsbD 31 = ((csramAt s u).getLsbD 31 && !v.getLsbD 31)) ∧
      (fn = 0 → ¬good → field (csramAt t u) 20 16 = field (csramAt s u) 20 16 ∧ field (csramAt t u) 12 8 = field (csramAt s u) 12 8 ∧
        field (csramAt t u) 4 0 = field (csramAt s u) 4 0 ∧ (csramAt t u).getLsbD 31 = true) ∧
      (fn ≠ 0 → csramAt t u = csramAt s u) ∧ (∀ w : Pos, cluOf w ≠ cluOf u → csramAt t w = csramAt s w) ∧ same t) ∧
    (∀ ring (len : Bool), Completes (.obsRingConfig fn ring len v) s fun t =>
      let o := ringOf (fnAt s fn) ring
      ringOf (fnAt t fn) ring = (if len then { o with len := ringLen v, wp := 0, rp := 0 } else { o with base := field v 56 6 * 64, wp := 0, rp := 0 }) ∧
      (∀ x, x ≠ ring → ringOf (fnAt t fn) x = ringOf (fnAt s fn) x) ∧ (∀ g, g ≠ fn → fnAt t g = fnAt s g) ∧ same t) ∧
    (∀ ring, Completes (.dropsWrite fn ring v) s fun t =>
      ringOf (fnAt t fn) ring = { ringOf (fnAt s fn) ring with drops := 0 } ∧ (∀ g, g ≠ fn → fnAt t g = fnAt s g) ∧ same t) ∧
    Completes (.smpcfgWrite fn v) s (fun t =>
      (fnAt t fn).smpcfg = v &&& 0x800000000000003F ∧ (fnAt t fn).smpStart = s.fc ∧ (∀ g, g ≠ fn → fnAt t g = fnAt s g) ∧
      (∀ u : Pos, ((partOfCluster s (cluOf u)).map fun p => p.setup.part) = some (partOfFn fn) →
        sampleNext t fn u = (s.fc + samplePeriod (fnAt t fn), 0)) ∧ same t) ∧
    (∀ (die : Bool) k, selectorGood die k = true → Completes (.selectorWrite fn die k v) s fun t =>
      selectorOf (fnAt t fn) die k = v.extractLsb' 0 8 ∧ (∀ j, j ≠ k → selectorOf (fnAt t fn) die j = selectorOf (fnAt s fn) die j) ∧
      (∀ x : CounterKey, x.part = partOfFn fn → x.n = k → x.clu.isNone = die → getKey 0 x t.chip.counters = 0) ∧
      (∀ x : CounterKey, x.part ≠ partOfFn fn ∨ x.n ≠ k ∨ x.clu.isNone ≠ die → getKey 0 x t.chip.counters = getKey 0 x s.chip.counters) ∧ same t) ∧
    (∀ d, Completes (.registerWrite fn (.gecfg d) v) s fun t =>
      (fn = 0 → d < 4 → gecfgAt t d = v) ∧ (∀ e, e ≠ d → gecfgAt t e = gecfgAt s e) ∧ (fn ≠ 0 ∨ 4 ≤ d → t = s) ∧ same t) ∧
    (∀ d, Completes (.registerWrite fn (.cecfg d) v) s fun t =>
      (fn = 0 → d < 4 → cecfgAt t d = nat64 (field v 47 0)) ∧ (∀ e, e ≠ d → cecfgAt t e = cecfgAt s e) ∧ (fn ≠ 0 ∨ 4 ≤ d → t = s) ∧ same t) ∧
    (∀ d l, Completes (.registerWrite fn (.ydl d l) v) s fun t =>
      (fn = 0 → d < 4 → l < 12 → deadline t d l = field v 31 0) ∧ (∀ e m, e ≠ d ∨ m ≠ l → deadline t e m = deadline s e m) ∧
      (fn ≠ 0 ∨ 4 ≤ d ∨ 12 ≤ l → t = s) ∧ same t) ∧
    (∀ ring, Completes (.registerWrite fn (.rp ring) v) s fun t =>
      ringOf (fnAt t fn) ring = { ringOf (fnAt s fn) ring with rp := v.extractLsb' 0 32 } ∧ (∀ g, g ≠ fn → fnAt t g = fnAt s g) ∧ same t) ∧
    Completes (.registerWrite fn .evmask v) s (fun t =>
      fnAt t fn = { fnAt s fn with evmask := v &&& 0x1F } ∧ (∀ g, g ≠ fn → fnAt t g = fnAt s g) ∧ same t) ∧
    Completes (.registerWrite fn .pcmd v) s (fun t => Claims.ReadBegins s t (.command fn) (partOfFn fn) [(v.toNat, 64)] ∧
      fnAt t fn = { fnAt s fn with pcwork := some .descriptor } ∧ ∀ g, g ≠ fn → fnAt t g = fnAt s g) ∧
    ∀ off, Completes (.registerWrite fn (.unnamed off) v) s fun t => t = s

/-- R386, R396: PSTAT shows the clamp, and to the physical function FULL and the power state; the registers of the dies and clusters read 0 to a virtual
function and at offsets that name none, deadline entries and CSRAMCFG above bit 31. -/
def Sys2Proof.Claims.RegistersRead : Prop :=
  ∀ (fn : Nat) (s : State), fn ≤ 8 →
    (s.chip.power.dps < 8 → ∃ w, readRegister s fn 0x020 = some w ∧ w.getLsbD 7 = s.chip.power.thc ∧ field w 63 8 = 0 ∧
      (fn ≠ 0 → field w 6 0 = 0) ∧ (fn = 0 → w.getLsbD 6 = s.chip.power.full ∧ field w 5 3 = 0 ∧ field w 2 0 = s.chip.power.dps)) ∧
    (∀ off, 0x1000 ≤ off → off < 0x2000 → fn ≠ 0 → readRegister s fn off = some 0) ∧
    (fn = 0 → ∀ d, d < 4 → readRegister s 0 (0x1000 + 0x200 * d) = some (gecfgAt s d) ∧
      readRegister s 0 (0x1008 + 0x200 * d) = some (cecfgAt s d) ∧
      (∀ l, l < 12 → deadline s d l < 2 ^ 32 → readRegister s 0 (0x1040 + 0x200 * d + 8 * l) = some (nat64 (deadline s d l))) ∧
      (∀ c, c < 20 → readRegister s 0 (0x1800 + 8 * (20 * d + c)) = some (csramAt s (cluster d c))) ∧
      ∀ off, 0xA0 ≤ off → off < 0x200 → readRegister s 0 (0x1000 + 0x200 * d + off) = some 0)

/-- R401 to R405, R408, R410: a sample's record leaves for its ring and the round goes on. A record at its ring is written to memory, and WP passes it when
its write has been performed; one that meets a full ring, a fault or a protection violation is dropped and counted, one for a ring of no length
discarded. An event of an enabled class is queued for its partition's ring, and its EVT goes on. A sample without a reason of R404 and the order of a
ring's records are the model's choices (log entries 29, 101). -/
def Sys2Proof.Claims.ObservationRecords : Prop :=
  (∀ (fn : Nat) (u : Pos) (s : State), sampleEnabled s fn u = true → Completes (.sampleTick fn u) s fun t =>
    let n := sampleNext s fn u
    let p := sampledElem u n.2
    getKey (0, 0) (cluOf u) t.chip.smpNext = (n.1 + samplePeriod (fnAt s fn), (n.2 + 1) % 612) ∧
    ((regionOf s p).isSome ∨ (fnAt s fn).smpcfg.getLsbD 5 = false → ∃ r, t.chip.obs = s.chip.obs ++ [r] ∧ r.fn = fn ∧ r.ring = .sample ∧
      r.st = .waiting ∧ r.words = sampleWords s (partOfFn fn) p) ∧
    (regionOf s p = none → (fnAt s fn).smpcfg.getLsbD 5 = true → t.chip.obs = s.chip.obs) ∧ SameMemory s t ∧ SameRest s t) ∧
  (∀ (k : Nat) (s : State) (x : ObsRec), recordEnabled s k = true → s.chip.obs.find? (fun x => x.id = k) = some x →
    let o := ringOf (fnAt s x.fn) x.ring
    let va := o.base + 32 * (o.wp.toNat % o.len)
    let full := (o.wp - o.rp).toNat = o.len ∨ rangeGood s (partOfFn x.fn) va 32 true = false
    let gone := fun (t : State) => t.chip.obs = s.chip.obs.filter (fun y => y.id ≠ k) ∧ SameMemory s t ∧ SameRest s t
    (x.st = .waiting → o.len = 0 → Completes (.recordPerformed k) s fun t =>
      t = { s with chip := { s.chip with obs := s.chip.obs.filter fun y => y.id ≠ k } }) ∧
    ((x.st = .waiting ∧ o.len ≠ 0 ∧ full) ∨ x.st = .lost → Completes (.recordPerformed k) s fun t =>
      ringOf (fnAt t x.fn) x.ring = { o with drops := min (2 ^ 32 - 1) (o.drops + 1) } ∧ t.chip.records = s.chip.records ∧ gone t) ∧
    (x.st = .waiting → o.len ≠ 0 → ¬full → x.words.length = 4 → Completes (.recordPerformed k) s fun t =>
      t.chip.records = s.chip.records ∧ t.chip.fns = s.chip.fns ∧ SameRest s t ∧
      (s.chip.power.full = true → (∀ y ∈ t.chip.obs, y.id = k → y.st = .writing) ∧ SameMemory s t ∧
        ∀ b ∈ blocksAt va 32, ∃ y, vaPlace s (partOfFn x.fn) (va + b.1) true = some y ∧ ∀ w ∈ bytesParts y.1 b.2 y.2,
          ∃ q ∈ t.chip.reqs, q.client = .record (some k) ∧ q.op = .engWrite ∧
            q.b = ofBytes (((((wordBytes x.words).drop b.1).take b.2).drop (w.2.1 - y.1)).take w.1.length)) ∧
      (s.chip.power.full = false → (∀ y ∈ t.chip.obs, y.id = k → y.st = .written) ∧ (∀ a, t.hbm.read a = s.hbm.read a) ∧
        (∀ a, t.spad.read a = s.spad.read a) ∧
        (MemoryOk s → ∀ i z, i < 32 → Claims.lastAt s va 32 i z → t.sram.read z = ((wordBytes x.words)[i]?).getD 0))) ∧
    (x.st = .written → Completes (.recordPerformed k) s fun t =>
      ringOf (fnAt t x.fn) x.ring = { o with wp := o.wp + 1 } ∧ gone t ∧
      t.chip.records = s.chip.records ++ [.observed x.fn x.ring (x.words.getD 0 0) (x.words.getD 1 0) (x.words.getD 2 0) (x.words.getD 3 0)])) ∧
  ∀ (m : Nat) (s : State) (x : Msg) (e : EventRec), collectEnabled s m = true → msgAt s m = some x → x.body = .event e →
    let on := (fnAt s (e.part + 1)).evmask.getLsbD (eventClass e.kind)
    Completes (.eventCollect m) s fun t =>
      (on = true → ∃ r, t.chip.obs = s.chip.obs ++ [r] ∧ r.fn = e.part + 1 ∧ r.ring = .event ∧ r.st = .waiting ∧ r.words = eventWords e) ∧
      (on = false → t.chip.obs = s.chip.obs) ∧ t.chip.net = s.chip.net.filter (fun y => y.id ≠ m) ∧
      (∀ q y, e.op = some q → opAt s e.src q = some y → ∃ y', opAt t e.src q = some y' ∧
        y' = { y with wait := .none, due := some (max (y.due.getD 0) (s.fc + latency packageUnit e.src)) }) ∧
      (e.op = none → t.chip.elems = s.chip.elems) ∧ SameMemory s t ∧ SameRest s t

/-! ## Encodings, the step, invariants -/

/-- R35, R37 to R40, R43, R44, R46, R48: words written from the spec's encodings decode to their instructions, and a reserved opcode, source,
or tag action is refused by its code. -/
def Obligations.WordsDecode : Prop :=
  decodeWords 0x20004C9F 0 = .ok (.add ⟨.keep, .t, .c 3, some 4, none⟩) ∧
  decodeWords 0x43100055 0 = .ok (.ffma ⟨.next, .t, .t, .c 5, some 2⟩) ∧
  decodeWords 0x6300041F 0x88000000 = .ok (.vfma ⟨.keep, .t, .n, some 0, none⟩ (.c 1)) ∧
  decodeWords 0x9000083F 0x074EFFF8 = .ok (.ld ⟨.keep, .t, .g, some 1, none⟩ ⟨7, .cluster, .b8, true, false, 0xFFF8⟩) ∧
  decodeWords 0xB1000402 0x22800000 = .ok (.bar ⟨.keep, .t, .n, some 0, some 2⟩ ⟨.die, 5⟩) ∧
  decodeWords 0xE000041F 0x12000000 = .ok (.sysrd ⟨.keep, .t, .n, some 0, none⟩ ⟨0x120⟩) ∧
  decodeWords 0x00000000 0 = .error .eopc ∧ decodeWords 0x20018000 0 = .error .esel ∧ decodeWords 0x20700000 0 = .error .eta

/-- R35 to R50: every well-formed instruction has words, one in a short form and two in a long one, that decode to it, as words and as bytes
whatever follows them; words that decode, decode to a well-formed instruction whose words they are; and a word with a reserved opcode is
refused with EOPC. -/
def Obligations.WordsAndInstructions : Prop :=
  (∀ i : Instr, i.wellFormed = true → ∃ ws, encode i = some ws ∧
    (∀ w x, ws = [w] ∨ ws = [w, x] → decodeWords w x = .ok i) ∧ (ws.length = 1 ∨ ws.length = 2) ∧
    ∀ rest, decodeBytes (ws.flatMap bytesOfWord ++ rest) = .ok (i, rest)) ∧
  (∀ w x i, decodeWords w x = .ok i → i.wellFormed = true ∧ (encode i = some [w] ∨ encode i = some [w, x])) ∧
  ∀ (w x : Word32), (let op := (w.extractLsb' 24 8).toNat
      op = 0 ∨ (0x10 ≤ op ∧ op ≤ 0x1F) ∨ (0x58 ≤ op ∧ op ≤ 0x5F) ∨ (0x88 ≤ op ∧ op ≤ 0x8F) ∨ op = 0x9F ∨ (0xAD ≤ op ∧ op ≤ 0xAF) ∨
        (0xB4 ≤ op ∧ op ≤ 0xB7) ∨ (0xCA ≤ op ∧ op ≤ 0xDF) ∨ 0xE7 ≤ op) → decodeWords w x = .error .eopc

/-- R30, R55: a step of a state that has taken up a firing performs the instruction that the words at its entry decode to, and stops where
they are none. A step of any other state lets an input that is due act, else makes the one step of the part or the one firing that may
be made, and lets time pass when there is none. That the order is this one is the model's choice (log entries 2, 3, 5). -/
def Obligations.StepRuns : Prop :=
  (∀ (s : State) (f : Firing), s.cur = some f →
    (∀ i, decodeWords (fetchWords s f).1 (fetchWords s f).2 = .ok i → step s = exec i s) ∧
    ∀ e, decodeWords (fetchWords s f).1 (fetchWords s f).2 = .error e → step s = .fault .undecodable) ∧
  (∀ (s : State) (i : Instr) (rest : List (Nat × Instr)), s.cur = none → dueInput s s.inputs = some (i, rest) →
    (∀ u, exec i { s with inputs := rest } = .next u → step s = .next u) ∧
    (answers (exec i { s with inputs := rest }) = false → step s = .next { s with inputs := rest })) ∧
  (∀ (s : State), s.cur = none → dueInput s s.inputs = none →
    (∀ i, partMoves s = [i] → firings s = [] → step s = exec i s) ∧
    (∀ f i, partMoves s = [] → firings s = [f] → fetched s f = some i → step s = exec i (takeUp f s)) ∧
    (partMoves s = [] → firings s = [] → ∃ t, step s = .next t ∧ s.t18 < t.t18))

/-- Whatever a step does: time does not go back, the counters of names and of free values do not fall, and no tile comes back into the logical
tile map (R8, R376). -/
def Obligations.NothingComesBack : Prop :=
  ∀ s t : State, step s = .next t → s.fc ≤ t.fc ∧ s.t18 ≤ t.t18 ∧ s.nextId ≤ t.nextId ∧ s.free ≤ t.free ∧ ∀ p ∈ s.gone, p ∈ t.gone

/-- The invariant of every step (R65, R69, R399, and the canonical form of the memories, log entry 20): whatever the state, reached or not. -/
def Obligations.InvariantKept : Prop := ∀ s t : State, Inv s → step s = .next t → Inv t

/-- The invariant holds after reset. -/
def Obligations.InvariantAtReset : Prop := Inv State.reset

/-! ## The statements that take in several -/

/-- DIVS, DIVU, REMS and REMU: result, time, frame, and the busy divider. -/
def Obligations.Division : Prop :=
  Claims.Quotients ∧ Claims.DividerBusy

/-- Bitwise operations, shifts, counts of bits, bit fields and extensions. -/
def Obligations.BitsAndFields : Prop :=
  Claims.BitwiseAndShifts ∧ Claims.CountsAndFields

/-- FABS, FNEG, FCLASS, FPACK and FHI. -/
def Obligations.FloatBits : Prop :=
  Claims.SignOperations ∧ Claims.Classify ∧ Claims.PackedPairs

/-- The other FP32 instructions complete with their result, flags and frame; the special operands of the seeds. -/
def Obligations.FloatInstructions : Prop :=
  Claims.FloatInstructionsComplete ∧ Claims.FloatsRound ∧ Claims.SeedSpecials

/-- VSEL, the integer lanes and the lane movements of V. -/
def Obligations.IntegerLanesAndMoves : Prop :=
  Claims.VectorIntegerLanes ∧ Claims.VectorMoves

/-- The FP32 lanes of V. -/
def Obligations.FloatLanes : Prop :=
  Claims.VectorFloatLanes

/-- VRSUM, VRMAX, VDOT and VSCAN, and the fixed tree. -/
def Obligations.Reductions : Prop :=
  Claims.ReductionTree ∧ Claims.VectorReductions

/-- FALLOC, FFREE, CALL and RET ask the frame table; continuations. -/
def Obligations.FrameRequests : Prop :=
  Claims.FrameInstructions ∧ Claims.Continuations

/-- LOOPN begins a loop; what waits for a place in the store. -/
def Obligations.LoopsAndHeldResults : Prop :=
  Claims.LoopBegins ∧ Claims.HeldResultWaits

/-- YIELD, TRAP and ASSERT. -/
def Obligations.YieldAndTraps : Prop :=
  Claims.YieldParks ∧ Claims.Traps

/-- SYSRD, SYSWR, RDTIME, RDCOORD, PERFRD and EVT. -/
def Obligations.SystemInstructions : Prop :=
  Claims.SystemRegisterAccess ∧ Claims.TimePlaceCounters ∧ Claims.DieTimes ∧ Claims.UserEvent

/-- BARI, BARA, BARD, BAR and SSTEP. -/
def Obligations.BarrierInstructions : Prop :=
  Claims.BarrierRequests ∧ Claims.BarrierWaits

/-- Loads, stores, gathers, scatters and atomics leave as requests. -/
def Obligations.MemoryRequests : Prop :=
  Claims.LaneAddresses ∧ Claims.MemoryRequestLeaves ∧ Claims.LoadServedInBuffer ∧ Claims.MemoryRequestWaitsForTag ∧ Claims.MemoryPoolFull

/-- Lanes in error, empty gathers and FENCE. -/
def Obligations.MemoryStopsAndFences : Prop :=
  Claims.MemoryLaneErrors ∧ Claims.EmptyGathers ∧ Claims.Fences

/-- WSET and SWITCH. -/
def Obligations.LiveWritesAndSwitches : Prop :=
  Claims.TableWrites ∧ Claims.ActiveTableRefused ∧ Claims.SwitchDecides

/-- The statuses of handle instructions, and HDESC. -/
def Obligations.HandleRefusalsAndWords : Prop :=
  Claims.HandleRefusals ∧ Claims.HandleWords

/-- RPUSH, COPY, STRMI, STRMO, RELM and MRG. -/
def Obligations.EngineInstructions : Prop :=
  Claims.EnginesBegin ∧ Claims.OutputStreams ∧ Claims.ReleaseMarks ∧ Claims.MergeRecords

/-- CLOAD, CPROBE, CFLUSH and CCLR. -/
def Obligations.CamInstructions : Prop :=
  Claims.CamChanges ∧ Claims.CamReads

/-- CSRW, GATHB and NMX begin their walks; PRUN, PRUNT and PCNT ask the mill. -/
def Obligations.WalkAndMillInstructions : Prop :=
  Claims.RowWalks ∧ Claims.ChunkWalks ∧ Claims.GatherWalks ∧ Claims.MillRequests

/-- LAUNCH and CONDW. -/
def Obligations.LaunchesAndConditions : Prop :=
  Claims.Launches ∧ Claims.ConditionWrites

/-- A token arrives at an element. -/
def Obligations.TokensArrive : Prop :=
  Claims.TokensTaken ∧ Claims.TransfersBegin ∧ Claims.SetTokensAndMismatches

/-- Tokens leave an element, move between switches, and are spilled and filled. -/
def Obligations.TokensMove : Prop :=
  Claims.MessagesMove ∧ Claims.ResultsLeave ∧ Claims.CellarMoves

/-- NEXT sends, and requests that end. -/
def Obligations.HeldResultsAndReplies : Prop :=
  Claims.HeldResultsLeave ∧ Claims.RequestsEnd

/-- Iteration tags are released, and taken by a loop. -/
def Obligations.IterationTags : Prop :=
  Claims.FrameOperations ∧ Claims.FrameAnswers ∧ Claims.TagsAsked ∧ Claims.LoopEmissions

/-- Frames are granted, released and purged. -/
def Obligations.FrameLife : Prop :=
  Claims.FramesGrantedAndReleased ∧ Claims.FramesPurged

/-- A change of parking, of FPCTL or of a handle reaches a place. -/
def Obligations.CopiesAreUpdated : Prop :=
  Claims.ParkingReaches ∧ Claims.FpctlReaches ∧ Claims.HandleCopies

/-- What a barrier unit does with a request, and a wake. -/
def Obligations.BarrierUnits : Prop :=
  Claims.BarrierOperations ∧ Claims.BarrierWakes

/-- Pushes, copies and input streams go on and complete. -/
def Obligations.EngineWork : Prop :=
  Claims.RingsTakePushes ∧ Claims.CopyGoesOn ∧ Claims.StreamsSendBlocks ∧ Claims.EnginesComplete

/-- The merge unit takes its next record. -/
def Obligations.Merging : Prop :=
  Claims.MergeGoesOn ∧ Claims.MergeOrder ∧ Claims.MergeEnds

/-- Requests reach their port or node, pass their hub and return, or end with an error. -/
def Obligations.TransactionsBegin : Prop :=
  Claims.TransactionsTaken ∧ Claims.RequestsPass ∧ Claims.RequestsReturn

/-- What an access does to memory where it is performed. -/
def Obligations.AccessesPerformed : Prop :=
  Claims.ControllersPerform ∧ Claims.ClustersPerform

/-- Bank timing, refresh, catch-up and hot stacks. -/
def Obligations.BanksAndRefresh : Prop :=
  Claims.BanksServe ∧ Claims.Refreshes

/-- Walks, page faults, timeouts and uncorrectable data. -/
def Obligations.TranslationAndLoss : Prop :=
  Claims.MissesWalk ∧ Claims.WalksEnd ∧ Claims.HeldFaultsRetry ∧ Claims.LostTransactions

/-- A mill context begins, expands and ends. -/
def Obligations.MillWork : Prop :=
  Claims.MillContexts ∧ Claims.MillSlots

/-- The sequencer begins, loads and sums; adjunct lines. -/
def Obligations.MatrixWork : Prop :=
  Claims.MatrixBegins ∧ Claims.MatrixRows ∧ Claims.BadSlotsAbort ∧ Claims.AdjunctFills

/-- Commit and abandon. -/
def Obligations.MatrixEnds : Prop :=
  Claims.MatrixCommits ∧ Claims.MatrixAbandons

/-- Launches are taken and counters fall. -/
def Obligations.LaunchesTaken : Prop :=
  Claims.LaunchesAreTaken ∧ Claims.CountersFall

/-- Nodes complete, fail, are skipped or repeat; runs end. -/
def Obligations.NodesAndRunsEnd : Prop :=
  Claims.NodesEnd ∧ Claims.RunsEnd

/-- Instances are placed, installed and end; the ready pool. -/
def Obligations.InstanceLife : Prop :=
  Claims.InstancesAreInstalled ∧ Claims.InstancesEnd ∧ Claims.PoolsGoOn

/-- Regions are saved and instances resume. -/
def Obligations.Preemption : Prop :=
  Claims.RegionsAreSaved ∧ Claims.InstancesResume ∧ Claims.InstancesRestored

/-- Region errors, the watchdog and rollback. -/
def Obligations.ErrorsAndRollback : Prop :=
  Claims.ErrorsStopRegions ∧ Claims.AbortsRollBack ∧ Claims.ErrorsInStorage

/-- Corrected errors, the kiln queue and the tile map. -/
def Obligations.FieldTest : Prop :=
  Claims.CorrectedErrors ∧ Claims.KilnTests

/-- PSETUP, WINSET, EXPSET, GINSTALL, GREMOVE, KILL, TLBINV, FANSWER and ELOG. -/
def Obligations.HostCommands : Prop :=
  Claims.PartitionCommands ∧ Claims.GraphCommands ∧ Claims.TranslationCommands ∧ Claims.CommandsEnd ∧ Claims.CommandRefusals

/-- PWR, CGATE, the thermal clamp, boot, training and ATTEST. -/
def Obligations.PowerAndBoot : Prop :=
  Claims.PowerStates ∧ Claims.BootAndService

/-- BAR1, peers, the host's registers, and observation records. -/
def Obligations.OutsideAndObservation : Prop :=
  Claims.OutsideAccesses ∧ Claims.HostRegisters ∧ Claims.RegistersRead ∧ Claims.ObservationRecords
end

