-- ==== Sys2Proof/Laws/State.lean ====
section
/-! SUPPORT. One lemma for each field of State and each update of the closed list Eff: what the update leaves there. -/

namespace Sys2Proof.Laws.State

open Sys2Proof Sys2Proof.Machine

@[simp] theorem chip_chip (c : Chip) (s : State) : ((Eff.chip c).apply s).chip = c := rfl
@[simp] theorem chip_hbm (c : Chip) (s : State) : ((Eff.chip c).apply s).hbm = s.hbm := rfl
@[simp] theorem chip_spad (c : Chip) (s : State) : ((Eff.chip c).apply s).spad = s.spad := rfl
@[simp] theorem chip_sram (c : Chip) (s : State) : ((Eff.chip c).apply s).sram = s.sram := rfl
@[simp] theorem chip_frames (c : Chip) (s : State) : ((Eff.chip c).apply s).frames = s.frames := rfl
@[simp] theorem chip_savedFrames (c : Chip) (s : State) : ((Eff.chip c).apply s).savedFrames = s.savedFrames := rfl
@[simp] theorem chip_gone (c : Chip) (s : State) : ((Eff.chip c).apply s).gone = s.gone := rfl
@[simp] theorem chip_measure (c : Chip) (s : State) : ((Eff.chip c).apply s).measure = s.measure := rfl
@[simp] theorem chip_fc (c : Chip) (s : State) : ((Eff.chip c).apply s).fc = s.fc := rfl
@[simp] theorem chip_t18 (c : Chip) (s : State) : ((Eff.chip c).apply s).t18 = s.t18 := rfl
@[simp] theorem chip_cur (c : Chip) (s : State) : ((Eff.chip c).apply s).cur = s.cur := rfl
@[simp] theorem chip_inputs (c : Chip) (s : State) : ((Eff.chip c).apply s).inputs = s.inputs := rfl
@[simp] theorem chip_free (c : Chip) (s : State) : ((Eff.chip c).apply s).free = s.free := rfl
@[simp] theorem chip_nextId (c : Chip) (s : State) : ((Eff.chip c).apply s).nextId = s.nextId := rfl

@[simp] theorem hbm_chip (a : Nat) (v : List Byte) (s : State) : ((Eff.hbm a v).apply s).chip = s.chip := rfl
@[simp] theorem hbm_hbm (a : Nat) (v : List Byte) (s : State) : ((Eff.hbm a v).apply s).hbm = s.hbm.writeAll a v := rfl
@[simp] theorem hbm_spad (a : Nat) (v : List Byte) (s : State) : ((Eff.hbm a v).apply s).spad = s.spad := rfl
@[simp] theorem hbm_sram (a : Nat) (v : List Byte) (s : State) : ((Eff.hbm a v).apply s).sram = s.sram := rfl
@[simp] theorem hbm_frames (a : Nat) (v : List Byte) (s : State) : ((Eff.hbm a v).apply s).frames = s.frames := rfl
@[simp] theorem hbm_savedFrames (a : Nat) (v : List Byte) (s : State) : ((Eff.hbm a v).apply s).savedFrames = s.savedFrames := rfl
@[simp] theorem hbm_gone (a : Nat) (v : List Byte) (s : State) : ((Eff.hbm a v).apply s).gone = s.gone := rfl
@[simp] theorem hbm_measure (a : Nat) (v : List Byte) (s : State) : ((Eff.hbm a v).apply s).measure = s.measure := rfl
@[simp] theorem hbm_fc (a : Nat) (v : List Byte) (s : State) : ((Eff.hbm a v).apply s).fc = s.fc := rfl
@[simp] theorem hbm_t18 (a : Nat) (v : List Byte) (s : State) : ((Eff.hbm a v).apply s).t18 = s.t18 := rfl
@[simp] theorem hbm_cur (a : Nat) (v : List Byte) (s : State) : ((Eff.hbm a v).apply s).cur = s.cur := rfl
@[simp] theorem hbm_inputs (a : Nat) (v : List Byte) (s : State) : ((Eff.hbm a v).apply s).inputs = s.inputs := rfl
@[simp] theorem hbm_free (a : Nat) (v : List Byte) (s : State) : ((Eff.hbm a v).apply s).free = s.free := rfl
@[simp] theorem hbm_nextId (a : Nat) (v : List Byte) (s : State) : ((Eff.hbm a v).apply s).nextId = s.nextId := rfl

@[simp] theorem spad_chip (a : Nat) (v : List Byte) (s : State) : ((Eff.spad a v).apply s).chip = s.chip := rfl
@[simp] theorem spad_hbm (a : Nat) (v : List Byte) (s : State) : ((Eff.spad a v).apply s).hbm = s.hbm := rfl
@[simp] theorem spad_spad (a : Nat) (v : List Byte) (s : State) : ((Eff.spad a v).apply s).spad = s.spad.writeAll a v := rfl
@[simp] theorem spad_sram (a : Nat) (v : List Byte) (s : State) : ((Eff.spad a v).apply s).sram = s.sram := rfl
@[simp] theorem spad_frames (a : Nat) (v : List Byte) (s : State) : ((Eff.spad a v).apply s).frames = s.frames := rfl
@[simp] theorem spad_savedFrames (a : Nat) (v : List Byte) (s : State) : ((Eff.spad a v).apply s).savedFrames = s.savedFrames := rfl
@[simp] theorem spad_gone (a : Nat) (v : List Byte) (s : State) : ((Eff.spad a v).apply s).gone = s.gone := rfl
@[simp] theorem spad_measure (a : Nat) (v : List Byte) (s : State) : ((Eff.spad a v).apply s).measure = s.measure := rfl
@[simp] theorem spad_fc (a : Nat) (v : List Byte) (s : State) : ((Eff.spad a v).apply s).fc = s.fc := rfl
@[simp] theorem spad_t18 (a : Nat) (v : List Byte) (s : State) : ((Eff.spad a v).apply s).t18 = s.t18 := rfl
@[simp] theorem spad_cur (a : Nat) (v : List Byte) (s : State) : ((Eff.spad a v).apply s).cur = s.cur := rfl
@[simp] theorem spad_inputs (a : Nat) (v : List Byte) (s : State) : ((Eff.spad a v).apply s).inputs = s.inputs := rfl
@[simp] theorem spad_free (a : Nat) (v : List Byte) (s : State) : ((Eff.spad a v).apply s).free = s.free := rfl
@[simp] theorem spad_nextId (a : Nat) (v : List Byte) (s : State) : ((Eff.spad a v).apply s).nextId = s.nextId := rfl

@[simp] theorem sram_chip (a : Nat) (v : List Byte) (s : State) : ((Eff.sram a v).apply s).chip = s.chip := rfl
@[simp] theorem sram_hbm (a : Nat) (v : List Byte) (s : State) : ((Eff.sram a v).apply s).hbm = s.hbm := rfl
@[simp] theorem sram_spad (a : Nat) (v : List Byte) (s : State) : ((Eff.sram a v).apply s).spad = s.spad := rfl
@[simp] theorem sram_sram (a : Nat) (v : List Byte) (s : State) : ((Eff.sram a v).apply s).sram = s.sram.writeAll a v := rfl
@[simp] theorem sram_frames (a : Nat) (v : List Byte) (s : State) : ((Eff.sram a v).apply s).frames = s.frames := rfl
@[simp] theorem sram_savedFrames (a : Nat) (v : List Byte) (s : State) : ((Eff.sram a v).apply s).savedFrames = s.savedFrames := rfl
@[simp] theorem sram_gone (a : Nat) (v : List Byte) (s : State) : ((Eff.sram a v).apply s).gone = s.gone := rfl
@[simp] theorem sram_measure (a : Nat) (v : List Byte) (s : State) : ((Eff.sram a v).apply s).measure = s.measure := rfl
@[simp] theorem sram_fc (a : Nat) (v : List Byte) (s : State) : ((Eff.sram a v).apply s).fc = s.fc := rfl
@[simp] theorem sram_t18 (a : Nat) (v : List Byte) (s : State) : ((Eff.sram a v).apply s).t18 = s.t18 := rfl
@[simp] theorem sram_cur (a : Nat) (v : List Byte) (s : State) : ((Eff.sram a v).apply s).cur = s.cur := rfl
@[simp] theorem sram_inputs (a : Nat) (v : List Byte) (s : State) : ((Eff.sram a v).apply s).inputs = s.inputs := rfl
@[simp] theorem sram_free (a : Nat) (v : List Byte) (s : State) : ((Eff.sram a v).apply s).free = s.free := rfl
@[simp] theorem sram_nextId (a : Nat) (v : List Byte) (s : State) : ((Eff.sram a v).apply s).nextId = s.nextId := rfl

@[simp] theorem clearHbm_chip (s : State) : (Eff.clearHbm.apply s).chip = s.chip := rfl
@[simp] theorem clearHbm_hbm (s : State) : (Eff.clearHbm.apply s).hbm = [] := rfl
@[simp] theorem clearHbm_spad (s : State) : (Eff.clearHbm.apply s).spad = s.spad := rfl
@[simp] theorem clearHbm_sram (s : State) : (Eff.clearHbm.apply s).sram = s.sram := rfl
@[simp] theorem clearHbm_frames (s : State) : (Eff.clearHbm.apply s).frames = s.frames := rfl
@[simp] theorem clearHbm_savedFrames (s : State) : (Eff.clearHbm.apply s).savedFrames = s.savedFrames := rfl
@[simp] theorem clearHbm_gone (s : State) : (Eff.clearHbm.apply s).gone = s.gone := rfl
@[simp] theorem clearHbm_measure (s : State) : (Eff.clearHbm.apply s).measure = s.measure := rfl
@[simp] theorem clearHbm_fc (s : State) : (Eff.clearHbm.apply s).fc = s.fc := rfl
@[simp] theorem clearHbm_t18 (s : State) : (Eff.clearHbm.apply s).t18 = s.t18 := rfl
@[simp] theorem clearHbm_cur (s : State) : (Eff.clearHbm.apply s).cur = s.cur := rfl
@[simp] theorem clearHbm_inputs (s : State) : (Eff.clearHbm.apply s).inputs = s.inputs := rfl
@[simp] theorem clearHbm_free (s : State) : (Eff.clearHbm.apply s).free = s.free := rfl
@[simp] theorem clearHbm_nextId (s : State) : (Eff.clearHbm.apply s).nextId = s.nextId := rfl

@[simp] theorem clearSpad_chip (a n : Nat) (s : State) : ((Eff.clearSpad a n).apply s).chip = s.chip := rfl
@[simp] theorem clearSpad_hbm (a n : Nat) (s : State) : ((Eff.clearSpad a n).apply s).hbm = s.hbm := rfl
@[simp] theorem clearSpad_spad (a n : Nat) (s : State) : ((Eff.clearSpad a n).apply s).spad = s.spad.clear a n := rfl
@[simp] theorem clearSpad_sram (a n : Nat) (s : State) : ((Eff.clearSpad a n).apply s).sram = s.sram := rfl
@[simp] theorem clearSpad_frames (a n : Nat) (s : State) : ((Eff.clearSpad a n).apply s).frames = s.frames := rfl
@[simp] theorem clearSpad_savedFrames (a n : Nat) (s : State) : ((Eff.clearSpad a n).apply s).savedFrames = s.savedFrames := rfl
@[simp] theorem clearSpad_gone (a n : Nat) (s : State) : ((Eff.clearSpad a n).apply s).gone = s.gone := rfl
@[simp] theorem clearSpad_measure (a n : Nat) (s : State) : ((Eff.clearSpad a n).apply s).measure = s.measure := rfl
@[simp] theorem clearSpad_fc (a n : Nat) (s : State) : ((Eff.clearSpad a n).apply s).fc = s.fc := rfl
@[simp] theorem clearSpad_t18 (a n : Nat) (s : State) : ((Eff.clearSpad a n).apply s).t18 = s.t18 := rfl
@[simp] theorem clearSpad_cur (a n : Nat) (s : State) : ((Eff.clearSpad a n).apply s).cur = s.cur := rfl
@[simp] theorem clearSpad_inputs (a n : Nat) (s : State) : ((Eff.clearSpad a n).apply s).inputs = s.inputs := rfl
@[simp] theorem clearSpad_free (a n : Nat) (s : State) : ((Eff.clearSpad a n).apply s).free = s.free := rfl
@[simp] theorem clearSpad_nextId (a n : Nat) (s : State) : ((Eff.clearSpad a n).apply s).nextId = s.nextId := rfl

@[simp] theorem clearSram_chip (a n : Nat) (s : State) : ((Eff.clearSram a n).apply s).chip = s.chip := rfl
@[simp] theorem clearSram_hbm (a n : Nat) (s : State) : ((Eff.clearSram a n).apply s).hbm = s.hbm := rfl
@[simp] theorem clearSram_spad (a n : Nat) (s : State) : ((Eff.clearSram a n).apply s).spad = s.spad := rfl
@[simp] theorem clearSram_sram (a n : Nat) (s : State) : ((Eff.clearSram a n).apply s).sram = s.sram.clear a n := rfl
@[simp] theorem clearSram_frames (a n : Nat) (s : State) : ((Eff.clearSram a n).apply s).frames = s.frames := rfl
@[simp] theorem clearSram_savedFrames (a n : Nat) (s : State) : ((Eff.clearSram a n).apply s).savedFrames = s.savedFrames := rfl
@[simp] theorem clearSram_gone (a n : Nat) (s : State) : ((Eff.clearSram a n).apply s).gone = s.gone := rfl
@[simp] theorem clearSram_measure (a n : Nat) (s : State) : ((Eff.clearSram a n).apply s).measure = s.measure := rfl
@[simp] theorem clearSram_fc (a n : Nat) (s : State) : ((Eff.clearSram a n).apply s).fc = s.fc := rfl
@[simp] theorem clearSram_t18 (a n : Nat) (s : State) : ((Eff.clearSram a n).apply s).t18 = s.t18 := rfl
@[simp] theorem clearSram_cur (a n : Nat) (s : State) : ((Eff.clearSram a n).apply s).cur = s.cur := rfl
@[simp] theorem clearSram_inputs (a n : Nat) (s : State) : ((Eff.clearSram a n).apply s).inputs = s.inputs := rfl
@[simp] theorem clearSram_free (a n : Nat) (s : State) : ((Eff.clearSram a n).apply s).free = s.free := rfl
@[simp] theorem clearSram_nextId (a n : Nat) (s : State) : ((Eff.clearSram a n).apply s).nextId = s.nextId := rfl

@[simp] theorem frame_chip (f : Nat) (u : FrameUpd) (s : State) : ((Eff.frame f u).apply s).chip = s.chip := rfl
@[simp] theorem frame_hbm (f : Nat) (u : FrameUpd) (s : State) : ((Eff.frame f u).apply s).hbm = s.hbm := rfl
@[simp] theorem frame_spad (f : Nat) (u : FrameUpd) (s : State) : ((Eff.frame f u).apply s).spad = s.spad := rfl
@[simp] theorem frame_sram (f : Nat) (u : FrameUpd) (s : State) : ((Eff.frame f u).apply s).sram = s.sram := rfl
@[simp] theorem frame_frames (f : Nat) (u : FrameUpd) (s : State) : ((Eff.frame f u).apply s).frames = setKey f (u.apply (getKey FrameRec.reset f s.frames)) s.frames := rfl
@[simp] theorem frame_savedFrames (f : Nat) (u : FrameUpd) (s : State) : ((Eff.frame f u).apply s).savedFrames = s.savedFrames := rfl
@[simp] theorem frame_gone (f : Nat) (u : FrameUpd) (s : State) : ((Eff.frame f u).apply s).gone = s.gone := rfl
@[simp] theorem frame_measure (f : Nat) (u : FrameUpd) (s : State) : ((Eff.frame f u).apply s).measure = s.measure := rfl
@[simp] theorem frame_fc (f : Nat) (u : FrameUpd) (s : State) : ((Eff.frame f u).apply s).fc = s.fc := rfl
@[simp] theorem frame_t18 (f : Nat) (u : FrameUpd) (s : State) : ((Eff.frame f u).apply s).t18 = s.t18 := rfl
@[simp] theorem frame_cur (f : Nat) (u : FrameUpd) (s : State) : ((Eff.frame f u).apply s).cur = s.cur := rfl
@[simp] theorem frame_inputs (f : Nat) (u : FrameUpd) (s : State) : ((Eff.frame f u).apply s).inputs = s.inputs := rfl
@[simp] theorem frame_free (f : Nat) (u : FrameUpd) (s : State) : ((Eff.frame f u).apply s).free = s.free := rfl
@[simp] theorem frame_nextId (f : Nat) (u : FrameUpd) (s : State) : ((Eff.frame f u).apply s).nextId = s.nextId := rfl

@[simp] theorem saveFrames_chip (k : Nat) (fs : List Nat) (s : State) : ((Eff.saveFrames k fs).apply s).chip = s.chip := rfl
@[simp] theorem saveFrames_hbm (k : Nat) (fs : List Nat) (s : State) : ((Eff.saveFrames k fs).apply s).hbm = s.hbm := rfl
@[simp] theorem saveFrames_spad (k : Nat) (fs : List Nat) (s : State) : ((Eff.saveFrames k fs).apply s).spad = s.spad := rfl
@[simp] theorem saveFrames_sram (k : Nat) (fs : List Nat) (s : State) : ((Eff.saveFrames k fs).apply s).sram = s.sram := rfl
@[simp] theorem saveFrames_frames (k : Nat) (fs : List Nat) (s : State) : ((Eff.saveFrames k fs).apply s).frames = s.frames := rfl
@[simp] theorem saveFrames_savedFrames (k : Nat) (fs : List Nat) (s : State) : ((Eff.saveFrames k fs).apply s).savedFrames = s.savedFrames ++ fs.map fun f => (k, f, getKey FrameRec.reset f s.frames) := rfl
@[simp] theorem saveFrames_gone (k : Nat) (fs : List Nat) (s : State) : ((Eff.saveFrames k fs).apply s).gone = s.gone := rfl
@[simp] theorem saveFrames_measure (k : Nat) (fs : List Nat) (s : State) : ((Eff.saveFrames k fs).apply s).measure = s.measure := rfl
@[simp] theorem saveFrames_fc (k : Nat) (fs : List Nat) (s : State) : ((Eff.saveFrames k fs).apply s).fc = s.fc := rfl
@[simp] theorem saveFrames_t18 (k : Nat) (fs : List Nat) (s : State) : ((Eff.saveFrames k fs).apply s).t18 = s.t18 := rfl
@[simp] theorem saveFrames_cur (k : Nat) (fs : List Nat) (s : State) : ((Eff.saveFrames k fs).apply s).cur = s.cur := rfl
@[simp] theorem saveFrames_inputs (k : Nat) (fs : List Nat) (s : State) : ((Eff.saveFrames k fs).apply s).inputs = s.inputs := rfl
@[simp] theorem saveFrames_free (k : Nat) (fs : List Nat) (s : State) : ((Eff.saveFrames k fs).apply s).free = s.free := rfl
@[simp] theorem saveFrames_nextId (k : Nat) (fs : List Nat) (s : State) : ((Eff.saveFrames k fs).apply s).nextId = s.nextId := rfl

@[simp] theorem loadFrames_chip (k : Nat) (s : State) : ((Eff.loadFrames k).apply s).chip = s.chip := rfl
@[simp] theorem loadFrames_hbm (k : Nat) (s : State) : ((Eff.loadFrames k).apply s).hbm = s.hbm := rfl
@[simp] theorem loadFrames_spad (k : Nat) (s : State) : ((Eff.loadFrames k).apply s).spad = s.spad := rfl
@[simp] theorem loadFrames_sram (k : Nat) (s : State) : ((Eff.loadFrames k).apply s).sram = s.sram := rfl
@[simp] theorem loadFrames_frames (k : Nat) (s : State) : ((Eff.loadFrames k).apply s).frames = (s.savedFrames.filter fun x => x.1 = k).foldl (fun l x => setKey x.2.1 x.2.2 l) s.frames := rfl
@[simp] theorem loadFrames_savedFrames (k : Nat) (s : State) : ((Eff.loadFrames k).apply s).savedFrames = s.savedFrames.filter fun x => x.1 ≠ k := rfl
@[simp] theorem loadFrames_gone (k : Nat) (s : State) : ((Eff.loadFrames k).apply s).gone = s.gone := rfl
@[simp] theorem loadFrames_measure (k : Nat) (s : State) : ((Eff.loadFrames k).apply s).measure = s.measure := rfl
@[simp] theorem loadFrames_fc (k : Nat) (s : State) : ((Eff.loadFrames k).apply s).fc = s.fc := rfl
@[simp] theorem loadFrames_t18 (k : Nat) (s : State) : ((Eff.loadFrames k).apply s).t18 = s.t18 := rfl
@[simp] theorem loadFrames_cur (k : Nat) (s : State) : ((Eff.loadFrames k).apply s).cur = s.cur := rfl
@[simp] theorem loadFrames_inputs (k : Nat) (s : State) : ((Eff.loadFrames k).apply s).inputs = s.inputs := rfl
@[simp] theorem loadFrames_free (k : Nat) (s : State) : ((Eff.loadFrames k).apply s).free = s.free := rfl
@[simp] theorem loadFrames_nextId (k : Nat) (s : State) : ((Eff.loadFrames k).apply s).nextId = s.nextId := rfl

@[simp] theorem dropSaved_chip (k : Nat) (s : State) : ((Eff.dropSaved k).apply s).chip = s.chip := rfl
@[simp] theorem dropSaved_hbm (k : Nat) (s : State) : ((Eff.dropSaved k).apply s).hbm = s.hbm := rfl
@[simp] theorem dropSaved_spad (k : Nat) (s : State) : ((Eff.dropSaved k).apply s).spad = s.spad := rfl
@[simp] theorem dropSaved_sram (k : Nat) (s : State) : ((Eff.dropSaved k).apply s).sram = s.sram := rfl
@[simp] theorem dropSaved_frames (k : Nat) (s : State) : ((Eff.dropSaved k).apply s).frames = s.frames := rfl
@[simp] theorem dropSaved_savedFrames (k : Nat) (s : State) : ((Eff.dropSaved k).apply s).savedFrames = s.savedFrames.filter fun x => x.1 ≠ k := rfl
@[simp] theorem dropSaved_gone (k : Nat) (s : State) : ((Eff.dropSaved k).apply s).gone = s.gone := rfl
@[simp] theorem dropSaved_measure (k : Nat) (s : State) : ((Eff.dropSaved k).apply s).measure = s.measure := rfl
@[simp] theorem dropSaved_fc (k : Nat) (s : State) : ((Eff.dropSaved k).apply s).fc = s.fc := rfl
@[simp] theorem dropSaved_t18 (k : Nat) (s : State) : ((Eff.dropSaved k).apply s).t18 = s.t18 := rfl
@[simp] theorem dropSaved_cur (k : Nat) (s : State) : ((Eff.dropSaved k).apply s).cur = s.cur := rfl
@[simp] theorem dropSaved_inputs (k : Nat) (s : State) : ((Eff.dropSaved k).apply s).inputs = s.inputs := rfl
@[simp] theorem dropSaved_free (k : Nat) (s : State) : ((Eff.dropSaved k).apply s).free = s.free := rfl
@[simp] theorem dropSaved_nextId (k : Nat) (s : State) : ((Eff.dropSaved k).apply s).nextId = s.nextId := rfl

@[simp] theorem removeTile_chip (p : Pos) (s : State) : ((Eff.removeTile p).apply s).chip = s.chip := rfl
@[simp] theorem removeTile_hbm (p : Pos) (s : State) : ((Eff.removeTile p).apply s).hbm = s.hbm := rfl
@[simp] theorem removeTile_spad (p : Pos) (s : State) : ((Eff.removeTile p).apply s).spad = s.spad := rfl
@[simp] theorem removeTile_sram (p : Pos) (s : State) : ((Eff.removeTile p).apply s).sram = s.sram := rfl
@[simp] theorem removeTile_frames (p : Pos) (s : State) : ((Eff.removeTile p).apply s).frames = s.frames := rfl
@[simp] theorem removeTile_savedFrames (p : Pos) (s : State) : ((Eff.removeTile p).apply s).savedFrames = s.savedFrames := rfl
@[simp] theorem removeTile_gone (p : Pos) (s : State) : ((Eff.removeTile p).apply s).gone = insertNew p s.gone := rfl
@[simp] theorem removeTile_measure (p : Pos) (s : State) : ((Eff.removeTile p).apply s).measure = s.measure := rfl
@[simp] theorem removeTile_fc (p : Pos) (s : State) : ((Eff.removeTile p).apply s).fc = s.fc := rfl
@[simp] theorem removeTile_t18 (p : Pos) (s : State) : ((Eff.removeTile p).apply s).t18 = s.t18 := rfl
@[simp] theorem removeTile_cur (p : Pos) (s : State) : ((Eff.removeTile p).apply s).cur = s.cur := rfl
@[simp] theorem removeTile_inputs (p : Pos) (s : State) : ((Eff.removeTile p).apply s).inputs = s.inputs := rfl
@[simp] theorem removeTile_free (p : Pos) (s : State) : ((Eff.removeTile p).apply s).free = s.free := rfl
@[simp] theorem removeTile_nextId (p : Pos) (s : State) : ((Eff.removeTile p).apply s).nextId = s.nextId := rfl

@[simp] theorem measure_chip (i : Nat) (d : BitVec 256) (s : State) : ((Eff.measure i d).apply s).chip = s.chip := rfl
@[simp] theorem measure_hbm (i : Nat) (d : BitVec 256) (s : State) : ((Eff.measure i d).apply s).hbm = s.hbm := rfl
@[simp] theorem measure_spad (i : Nat) (d : BitVec 256) (s : State) : ((Eff.measure i d).apply s).spad = s.spad := rfl
@[simp] theorem measure_sram (i : Nat) (d : BitVec 256) (s : State) : ((Eff.measure i d).apply s).sram = s.sram := rfl
@[simp] theorem measure_frames (i : Nat) (d : BitVec 256) (s : State) : ((Eff.measure i d).apply s).frames = s.frames := rfl
@[simp] theorem measure_savedFrames (i : Nat) (d : BitVec 256) (s : State) : ((Eff.measure i d).apply s).savedFrames = s.savedFrames := rfl
@[simp] theorem measure_gone (i : Nat) (d : BitVec 256) (s : State) : ((Eff.measure i d).apply s).gone = s.gone := rfl
@[simp] theorem measure_measure (i : Nat) (d : BitVec 256) (s : State) : ((Eff.measure i d).apply s).measure = s.measure.mapIdx fun j m => if j = i then Config.sm3 m d else m := rfl
@[simp] theorem measure_fc (i : Nat) (d : BitVec 256) (s : State) : ((Eff.measure i d).apply s).fc = s.fc := rfl
@[simp] theorem measure_t18 (i : Nat) (d : BitVec 256) (s : State) : ((Eff.measure i d).apply s).t18 = s.t18 := rfl
@[simp] theorem measure_cur (i : Nat) (d : BitVec 256) (s : State) : ((Eff.measure i d).apply s).cur = s.cur := rfl
@[simp] theorem measure_inputs (i : Nat) (d : BitVec 256) (s : State) : ((Eff.measure i d).apply s).inputs = s.inputs := rfl
@[simp] theorem measure_free (i : Nat) (d : BitVec 256) (s : State) : ((Eff.measure i d).apply s).free = s.free := rfl
@[simp] theorem measure_nextId (i : Nat) (d : BitVec 256) (s : State) : ((Eff.measure i d).apply s).nextId = s.nextId := rfl

@[simp] theorem clearMeasure_chip (s : State) : (Eff.clearMeasure.apply s).chip = s.chip := rfl
@[simp] theorem clearMeasure_hbm (s : State) : (Eff.clearMeasure.apply s).hbm = s.hbm := rfl
@[simp] theorem clearMeasure_spad (s : State) : (Eff.clearMeasure.apply s).spad = s.spad := rfl
@[simp] theorem clearMeasure_sram (s : State) : (Eff.clearMeasure.apply s).sram = s.sram := rfl
@[simp] theorem clearMeasure_frames (s : State) : (Eff.clearMeasure.apply s).frames = s.frames := rfl
@[simp] theorem clearMeasure_savedFrames (s : State) : (Eff.clearMeasure.apply s).savedFrames = s.savedFrames := rfl
@[simp] theorem clearMeasure_gone (s : State) : (Eff.clearMeasure.apply s).gone = s.gone := rfl
@[simp] theorem clearMeasure_measure (s : State) : (Eff.clearMeasure.apply s).measure = List.replicate 8 0 := rfl
@[simp] theorem clearMeasure_fc (s : State) : (Eff.clearMeasure.apply s).fc = s.fc := rfl
@[simp] theorem clearMeasure_t18 (s : State) : (Eff.clearMeasure.apply s).t18 = s.t18 := rfl
@[simp] theorem clearMeasure_cur (s : State) : (Eff.clearMeasure.apply s).cur = s.cur := rfl
@[simp] theorem clearMeasure_inputs (s : State) : (Eff.clearMeasure.apply s).inputs = s.inputs := rfl
@[simp] theorem clearMeasure_free (s : State) : (Eff.clearMeasure.apply s).free = s.free := rfl
@[simp] theorem clearMeasure_nextId (s : State) : (Eff.clearMeasure.apply s).nextId = s.nextId := rfl

@[simp] theorem elapse_chip (n : Nat) (s : State) : ((Eff.elapse n).apply s).chip = s.chip := rfl
@[simp] theorem elapse_hbm (n : Nat) (s : State) : ((Eff.elapse n).apply s).hbm = s.hbm := rfl
@[simp] theorem elapse_spad (n : Nat) (s : State) : ((Eff.elapse n).apply s).spad = s.spad := rfl
@[simp] theorem elapse_sram (n : Nat) (s : State) : ((Eff.elapse n).apply s).sram = s.sram := rfl
@[simp] theorem elapse_frames (n : Nat) (s : State) : ((Eff.elapse n).apply s).frames = s.frames := rfl
@[simp] theorem elapse_savedFrames (n : Nat) (s : State) : ((Eff.elapse n).apply s).savedFrames = s.savedFrames := rfl
@[simp] theorem elapse_gone (n : Nat) (s : State) : ((Eff.elapse n).apply s).gone = s.gone := rfl
@[simp] theorem elapse_measure (n : Nat) (s : State) : ((Eff.elapse n).apply s).measure = s.measure := rfl
@[simp] theorem elapse_fc (n : Nat) (s : State) : ((Eff.elapse n).apply s).fc = s.fc := rfl
@[simp] theorem elapse_t18 (n : Nat) (s : State) : ((Eff.elapse n).apply s).t18 = s.t18 + n := rfl
@[simp] theorem elapse_cur (n : Nat) (s : State) : ((Eff.elapse n).apply s).cur = s.cur := rfl
@[simp] theorem elapse_inputs (n : Nat) (s : State) : ((Eff.elapse n).apply s).inputs = s.inputs := rfl
@[simp] theorem elapse_free (n : Nat) (s : State) : ((Eff.elapse n).apply s).free = s.free := rfl
@[simp] theorem elapse_nextId (n : Nat) (s : State) : ((Eff.elapse n).apply s).nextId = s.nextId := rfl

@[simp] theorem cycle_chip (n : Nat) (s : State) : ((Eff.cycle n).apply s).chip = s.chip := rfl
@[simp] theorem cycle_hbm (n : Nat) (s : State) : ((Eff.cycle n).apply s).hbm = s.hbm := rfl
@[simp] theorem cycle_spad (n : Nat) (s : State) : ((Eff.cycle n).apply s).spad = s.spad := rfl
@[simp] theorem cycle_sram (n : Nat) (s : State) : ((Eff.cycle n).apply s).sram = s.sram := rfl
@[simp] theorem cycle_frames (n : Nat) (s : State) : ((Eff.cycle n).apply s).frames = s.frames := rfl
@[simp] theorem cycle_savedFrames (n : Nat) (s : State) : ((Eff.cycle n).apply s).savedFrames = s.savedFrames := rfl
@[simp] theorem cycle_gone (n : Nat) (s : State) : ((Eff.cycle n).apply s).gone = s.gone := rfl
@[simp] theorem cycle_measure (n : Nat) (s : State) : ((Eff.cycle n).apply s).measure = s.measure := rfl
@[simp] theorem cycle_fc (n : Nat) (s : State) : ((Eff.cycle n).apply s).fc = s.fc + 1 := rfl
@[simp] theorem cycle_t18 (n : Nat) (s : State) : ((Eff.cycle n).apply s).t18 = s.t18 + n := rfl
@[simp] theorem cycle_cur (n : Nat) (s : State) : ((Eff.cycle n).apply s).cur = s.cur := rfl
@[simp] theorem cycle_inputs (n : Nat) (s : State) : ((Eff.cycle n).apply s).inputs = s.inputs := rfl
@[simp] theorem cycle_free (n : Nat) (s : State) : ((Eff.cycle n).apply s).free = s.free := rfl
@[simp] theorem cycle_nextId (n : Nat) (s : State) : ((Eff.cycle n).apply s).nextId = s.nextId := rfl

@[simp] theorem cur_chip (f : Option Firing) (s : State) : ((Eff.cur f).apply s).chip = s.chip := rfl
@[simp] theorem cur_hbm (f : Option Firing) (s : State) : ((Eff.cur f).apply s).hbm = s.hbm := rfl
@[simp] theorem cur_spad (f : Option Firing) (s : State) : ((Eff.cur f).apply s).spad = s.spad := rfl
@[simp] theorem cur_sram (f : Option Firing) (s : State) : ((Eff.cur f).apply s).sram = s.sram := rfl
@[simp] theorem cur_frames (f : Option Firing) (s : State) : ((Eff.cur f).apply s).frames = s.frames := rfl
@[simp] theorem cur_savedFrames (f : Option Firing) (s : State) : ((Eff.cur f).apply s).savedFrames = s.savedFrames := rfl
@[simp] theorem cur_gone (f : Option Firing) (s : State) : ((Eff.cur f).apply s).gone = s.gone := rfl
@[simp] theorem cur_measure (f : Option Firing) (s : State) : ((Eff.cur f).apply s).measure = s.measure := rfl
@[simp] theorem cur_fc (f : Option Firing) (s : State) : ((Eff.cur f).apply s).fc = s.fc := rfl
@[simp] theorem cur_t18 (f : Option Firing) (s : State) : ((Eff.cur f).apply s).t18 = s.t18 := rfl
@[simp] theorem cur_cur (f : Option Firing) (s : State) : ((Eff.cur f).apply s).cur = f := rfl
@[simp] theorem cur_inputs (f : Option Firing) (s : State) : ((Eff.cur f).apply s).inputs = s.inputs := rfl
@[simp] theorem cur_free (f : Option Firing) (s : State) : ((Eff.cur f).apply s).free = s.free := rfl
@[simp] theorem cur_nextId (f : Option Firing) (s : State) : ((Eff.cur f).apply s).nextId = s.nextId := rfl

@[simp] theorem inputs_chip (l : List (Nat × Instr)) (s : State) : ((Eff.inputs l).apply s).chip = s.chip := rfl
@[simp] theorem inputs_hbm (l : List (Nat × Instr)) (s : State) : ((Eff.inputs l).apply s).hbm = s.hbm := rfl
@[simp] theorem inputs_spad (l : List (Nat × Instr)) (s : State) : ((Eff.inputs l).apply s).spad = s.spad := rfl
@[simp] theorem inputs_sram (l : List (Nat × Instr)) (s : State) : ((Eff.inputs l).apply s).sram = s.sram := rfl
@[simp] theorem inputs_frames (l : List (Nat × Instr)) (s : State) : ((Eff.inputs l).apply s).frames = s.frames := rfl
@[simp] theorem inputs_savedFrames (l : List (Nat × Instr)) (s : State) : ((Eff.inputs l).apply s).savedFrames = s.savedFrames := rfl
@[simp] theorem inputs_gone (l : List (Nat × Instr)) (s : State) : ((Eff.inputs l).apply s).gone = s.gone := rfl
@[simp] theorem inputs_measure (l : List (Nat × Instr)) (s : State) : ((Eff.inputs l).apply s).measure = s.measure := rfl
@[simp] theorem inputs_fc (l : List (Nat × Instr)) (s : State) : ((Eff.inputs l).apply s).fc = s.fc := rfl
@[simp] theorem inputs_t18 (l : List (Nat × Instr)) (s : State) : ((Eff.inputs l).apply s).t18 = s.t18 := rfl
@[simp] theorem inputs_cur (l : List (Nat × Instr)) (s : State) : ((Eff.inputs l).apply s).cur = s.cur := rfl
@[simp] theorem inputs_inputs (l : List (Nat × Instr)) (s : State) : ((Eff.inputs l).apply s).inputs = l := rfl
@[simp] theorem inputs_free (l : List (Nat × Instr)) (s : State) : ((Eff.inputs l).apply s).free = s.free := rfl
@[simp] theorem inputs_nextId (l : List (Nat × Instr)) (s : State) : ((Eff.inputs l).apply s).nextId = s.nextId := rfl

@[simp] theorem free_chip (s : State) : (Eff.free.apply s).chip = s.chip := rfl
@[simp] theorem free_hbm (s : State) : (Eff.free.apply s).hbm = s.hbm := rfl
@[simp] theorem free_spad (s : State) : (Eff.free.apply s).spad = s.spad := rfl
@[simp] theorem free_sram (s : State) : (Eff.free.apply s).sram = s.sram := rfl
@[simp] theorem free_frames (s : State) : (Eff.free.apply s).frames = s.frames := rfl
@[simp] theorem free_savedFrames (s : State) : (Eff.free.apply s).savedFrames = s.savedFrames := rfl
@[simp] theorem free_gone (s : State) : (Eff.free.apply s).gone = s.gone := rfl
@[simp] theorem free_measure (s : State) : (Eff.free.apply s).measure = s.measure := rfl
@[simp] theorem free_fc (s : State) : (Eff.free.apply s).fc = s.fc := rfl
@[simp] theorem free_t18 (s : State) : (Eff.free.apply s).t18 = s.t18 := rfl
@[simp] theorem free_cur (s : State) : (Eff.free.apply s).cur = s.cur := rfl
@[simp] theorem free_inputs (s : State) : (Eff.free.apply s).inputs = s.inputs := rfl
@[simp] theorem free_free (s : State) : (Eff.free.apply s).free = s.free + 1 := rfl
@[simp] theorem free_nextId (s : State) : (Eff.free.apply s).nextId = s.nextId := rfl

@[simp] theorem fresh_chip (s : State) : (Eff.fresh.apply s).chip = s.chip := rfl
@[simp] theorem fresh_hbm (s : State) : (Eff.fresh.apply s).hbm = s.hbm := rfl
@[simp] theorem fresh_spad (s : State) : (Eff.fresh.apply s).spad = s.spad := rfl
@[simp] theorem fresh_sram (s : State) : (Eff.fresh.apply s).sram = s.sram := rfl
@[simp] theorem fresh_frames (s : State) : (Eff.fresh.apply s).frames = s.frames := rfl
@[simp] theorem fresh_savedFrames (s : State) : (Eff.fresh.apply s).savedFrames = s.savedFrames := rfl
@[simp] theorem fresh_gone (s : State) : (Eff.fresh.apply s).gone = s.gone := rfl
@[simp] theorem fresh_measure (s : State) : (Eff.fresh.apply s).measure = s.measure := rfl
@[simp] theorem fresh_fc (s : State) : (Eff.fresh.apply s).fc = s.fc := rfl
@[simp] theorem fresh_t18 (s : State) : (Eff.fresh.apply s).t18 = s.t18 := rfl
@[simp] theorem fresh_cur (s : State) : (Eff.fresh.apply s).cur = s.cur := rfl
@[simp] theorem fresh_inputs (s : State) : (Eff.fresh.apply s).inputs = s.inputs := rfl
@[simp] theorem fresh_free (s : State) : (Eff.fresh.apply s).free = s.free := rfl
@[simp] theorem fresh_nextId (s : State) : (Eff.fresh.apply s).nextId = s.nextId + 1 := rfl

end Sys2Proof.Laws.State
end

