-- ==== Sys2Proof/Laws/Ops.lean ====
section
/-! SUPPORT. What each combinator of bodies leaves: the state after a body, computed without unfolding the list of updates. -/

namespace Sys2Proof.Laws.Ops

open Sys2Proof Sys2Proof.Machine

/-! ## Lists of updates -/

@[simp] theorem applyAll_nil (s : State) : applyAll [] s = s := rfl

@[simp] theorem applyAll_cons (e : Eff) (l : List Eff) (s : State) : applyAll (e :: l) s = applyAll l (e.apply s) := rfl

@[simp] theorem applyAll_append (k l : List Eff) (s : State) : applyAll (k ++ l) s = applyAll l (applyAll k s) := by
  induction k generalizing s with
  | nil => rfl
  | cons e k ih => exact ih (e.apply s)

/-! ## The state after a body -/

theorem act_next (p : Prog) (s : State) : act p s = .next (after p s) := rfl

theorem onFiring_next {s : State} {f : Firing} (h : s.cur = some f) (p : Firing → Prog) :
    onFiring p s = .next (after (p f) s) := by
  simp [onFiring, h, act_next]

theorem actWhen_next {c : Bool} (h : c = true) (n : String) (p : Prog) (s : State) :
    actWhen c n p s = .next (after p s) := by
  simp [actWhen, h, act_next]

@[simp] theorem after_skip (s : State) : after skip s = s := rfl

@[simp] theorem after_eff (e : Eff) (s : State) : after (eff e) s = e.apply s := rfl

@[simp] theorem after_andThen (p q : Prog) (s : State) : after (andThen p q) s = after q (after p s) := by
  simp [after, andThen]

@[simp] theorem after_seqAll_nil (s : State) : after (seqAll []) s = s := rfl

@[simp] theorem after_seqAll_cons (p : Prog) (l : List Prog) (s : State) :
    after (seqAll (p :: l)) s = after (seqAll l) (after p s) := by
  simp [seqAll]

@[simp] theorem after_reading {α : Type} (g : State → α) (p : α → Prog) (s : State) :
    after (reading g p) s = after (p (g s)) s := rfl

@[simp] theorem after_onlyIf_true (p : Prog) (s : State) : after (onlyIf true p) s = after p s := rfl

@[simp] theorem after_onlyIf_false (p : Prog) (s : State) : after (onlyIf false p) s = s := rfl

theorem after_onlyIf (c : Bool) (p : Prog) (s : State) : after (onlyIf c p) s = if c then after p s else s := by
  cases c <;> rfl

theorem after_whenever (c : State → Bool) (p : Prog) (s : State) :
    after (whenever c p) s = if c s then after p s else s := by
  cases h : c s <;> simp [after, whenever, h]

theorem after_either (c : State → Bool) (p q : Prog) (s : State) :
    after (either c p q) s = if c s then after p s else after q s := by
  cases h : c s <;> simp [after, either, h]

@[simp] theorem after_forEach_nil {α : Type} (p : α → Prog) (s : State) : after (forEach [] p) s = s := rfl

@[simp] theorem after_forEach_cons {α : Type} (x : α) (l : List α) (p : α → Prog) (s : State) :
    after (forEach (x :: l) p) s = after (forEach l p) (after (p x) s) := by
  simp [forEach]

@[simp] theorem after_forSome_none {α : Type} (p : α → Prog) (s : State) : after (forSome none p) s = s := rfl

@[simp] theorem after_forSome_some {α : Type} (x : α) (p : α → Prog) (s : State) :
    after (forSome (some x) p) s = after (p x) s := rfl

@[simp] theorem after_upd (g : Chip → Chip) (s : State) : after (upd g) s = { s with chip := g s.chip } := rfl

@[simp] theorem after_withId (p : Nat → Prog) (s : State) :
    after (withId p) s = after (p s.nextId) { s with nextId := s.nextId + 1 } := rfl

@[simp] theorem after_withFree (p : Nat → Prog) (s : State) :
    after (withFree p) s = after (p s.free) { s with free := s.free + 1 } := rfl

/-- A body given its state before it is read. -/
theorem after_lam (p : State → Prog) (s : State) : after (fun x => p x x) s = after (p s) s := rfl

/-! ## Maps -/

@[simp] theorem getKey_setKey_same {α β : Type} [DecidableEq α] (d : β) (k : α) (b : β) (l : List (α × β)) :
    getKey d k (setKey k b l) = b := by
  induction l with
  | nil => simp [setKey, getKey, lookupKey]
  | cons x l ih =>
    obtain ⟨a, c⟩ := x
    by_cases h : a = k
    · simp [setKey, getKey, lookupKey, h]
    · simpa [setKey, getKey, lookupKey, h] using ih

theorem getKey_setKey_other {α β : Type} [DecidableEq α] (d : β) {k j : α} (h : j ≠ k) (b : β) (l : List (α × β)) :
    getKey d j (setKey k b l) = getKey d j l := by
  induction l with
  | nil => simp [setKey, getKey, lookupKey, Ne.symm h]
  | cons x l ih =>
    obtain ⟨a, c⟩ := x
    by_cases ha : a = k
    · subst ha; simp [setKey, getKey, lookupKey, Ne.symm h]
    · by_cases hj : a = j
      · subst hj; simp [setKey, getKey, lookupKey, ha]
      · simpa [setKey, getKey, lookupKey, ha, hj] using ih

@[simp] theorem getKey_modKey_same {α β : Type} [DecidableEq α] (d : β) (k : α) (g : β → β) (l : List (α × β)) :
    getKey d k (modKey d k g l) = g (getKey d k l) := getKey_setKey_same ..

theorem getKey_modKey_other {α β : Type} [DecidableEq α] (d : β) {k j : α} (h : j ≠ k) (g : β → β) (l : List (α × β)) :
    getKey d j (modKey d k g l) = getKey d j l := getKey_setKey_other d h ..

end Sys2Proof.Laws.Ops
end

