-- ==== Sys2Proof/Laws/Dispatch.lean ====
section
/-! SUPPORT. Every instruction ends in a next state made by a list of updates, or in a fault of the model's own; so does every
step. What holds of every update holds of every step. -/

namespace Sys2Proof.Laws.Dispatch

open Sys2Proof Sys2Proof.Machine

/-- A next state is made by a list of updates. -/
def ByUpdates (s : State) (o : Host.Outcome State Fault Refusal) : Prop := ∀ t, o = .next t → ∃ l, t = applyAll l s

theorem act_byUpdates (p : Prog) (s : State) : ByUpdates s (act p s) := by
  rintro t ⟨⟩; exact ⟨_, rfl⟩

theorem onFiring_byUpdates (p : Firing → Prog) (s : State) : ByUpdates s (onFiring p s) := by
  unfold onFiring
  split
  · rintro t ⟨⟩
  · exact act_byUpdates _ _

theorem actWhen_byUpdates (c : Bool) (n : String) (p : Prog) (s : State) : ByUpdates s (actWhen c n p s) := by
  unfold actWhen
  split
  · exact act_byUpdates _ _
  · rintro t ⟨⟩

theorem exec_byUpdates (i : Instr) (s : State) : ByUpdates s (exec i s) := by
  cases i
  case mov => exact onFiring_byUpdates _ _
  case steer => exact onFiring_byUpdates _ _
  case merge => exact onFiring_byUpdates _ _
  case join => exact onFiring_byUpdates _ _
  case falloc => exact onFiring_byUpdates _ _
  case ffree => exact onFiring_byUpdates _ _
  case loopn => exact onFiring_byUpdates _ _
  case call => exact onFiring_byUpdates _ _
  case ret => exact onFiring_byUpdates _ _
  case yield => exact onFiring_byUpdates _ _
  case trap => exact onFiring_byUpdates _ _
  case assert => exact onFiring_byUpdates _ _
  case wset => exact onFiring_byUpdates _ _
  case switch => exact onFiring_byUpdates _ _
  case condw => exact onFiring_byUpdates _ _
  case add => exact onFiring_byUpdates _ _
  case sub => exact onFiring_byUpdates _ _
  case mul => exact onFiring_byUpdates _ _
  case mulhs => exact onFiring_byUpdates _ _
  case mulhu => exact onFiring_byUpdates _ _
  case divs => exact onFiring_byUpdates _ _
  case divu => exact onFiring_byUpdates _ _
  case rems => exact onFiring_byUpdates _ _
  case remu => exact onFiring_byUpdates _ _
  case and => exact onFiring_byUpdates _ _
  case or => exact onFiring_byUpdates _ _
  case xor => exact onFiring_byUpdates _ _
  case andn => exact onFiring_byUpdates _ _
  case shl => exact onFiring_byUpdates _ _
  case shr => exact onFiring_byUpdates _ _
  case sra => exact onFiring_byUpdates _ _
  case rol => exact onFiring_byUpdates _ _
  case mins => exact onFiring_byUpdates _ _
  case minu => exact onFiring_byUpdates _ _
  case maxs => exact onFiring_byUpdates _ _
  case maxu => exact onFiring_byUpdates _ _
  case ceq => exact onFiring_byUpdates _ _
  case cne => exact onFiring_byUpdates _ _
  case clts => exact onFiring_byUpdates _ _
  case cltu => exact onFiring_byUpdates _ _
  case cles => exact onFiring_byUpdates _ _
  case cleu => exact onFiring_byUpdates _ _
  case clz => exact onFiring_byUpdates _ _
  case popc => exact onFiring_byUpdates _ _
  case bfx => exact onFiring_byUpdates _ _
  case sext => exact onFiring_byUpdates _ _
  case zext => exact onFiring_byUpdates _ _
  case fadd => exact onFiring_byUpdates _ _
  case fsub => exact onFiring_byUpdates _ _
  case fmul => exact onFiring_byUpdates _ _
  case ffma => exact onFiring_byUpdates _ _
  case fmin => exact onFiring_byUpdates _ _
  case fmax => exact onFiring_byUpdates _ _
  case fabs => exact onFiring_byUpdates _ _
  case fneg => exact onFiring_byUpdates _ _
  case fceq => exact onFiring_byUpdates _ _
  case fclt => exact onFiring_byUpdates _ _
  case fcle => exact onFiring_byUpdates _ _
  case fcun => exact onFiring_byUpdates _ _
  case frsq => exact onFiring_byUpdates _ _
  case frcp => exact onFiring_byUpdates _ _
  case fexp2 => exact onFiring_byUpdates _ _
  case flog2 => exact onFiring_byUpdates _ _
  case fclass => exact onFiring_byUpdates _ _
  case frnd => exact onFiring_byUpdates _ _
  case fcvti => exact onFiring_byUpdates _ _
  case icvtf => exact onFiring_byUpdates _ _
  case fpack => exact onFiring_byUpdates _ _
  case fhi => exact onFiring_byUpdates _ _
  case fscalb => exact onFiring_byUpdates _ _
  case fcvt => exact onFiring_byUpdates _ _
  case vadd => exact onFiring_byUpdates _ _
  case vsub => exact onFiring_byUpdates _ _
  case vmul => exact onFiring_byUpdates _ _
  case vfma => exact onFiring_byUpdates _ _
  case vmin => exact onFiring_byUpdates _ _
  case vmax => exact onFiring_byUpdates _ _
  case vabs => exact onFiring_byUpdates _ _
  case vneg => exact onFiring_byUpdates _ _
  case vrcp => exact onFiring_byUpdates _ _
  case vrsq => exact onFiring_byUpdates _ _
  case vexp2 => exact onFiring_byUpdates _ _
  case vlog2 => exact onFiring_byUpdates _ _
  case vceq => exact onFiring_byUpdates _ _
  case vclt => exact onFiring_byUpdates _ _
  case vcle => exact onFiring_byUpdates _ _
  case vsel => exact onFiring_byUpdates _ _
  case vrsum => exact onFiring_byUpdates _ _
  case vrmax => exact onFiring_byUpdates _ _
  case vscan => exact onFiring_byUpdates _ _
  case vshuf => exact onFiring_byUpdates _ _
  case vbcast => exact onFiring_byUpdates _ _
  case viadd => exact onFiring_byUpdates _ _
  case visub => exact onFiring_byUpdates _ _
  case vimul => exact onFiring_byUpdates _ _
  case vand => exact onFiring_byUpdates _ _
  case vor => exact onFiring_byUpdates _ _
  case vxor => exact onFiring_byUpdates _ _
  case vshl => exact onFiring_byUpdates _ _
  case vshr => exact onFiring_byUpdates _ _
  case vsra => exact onFiring_byUpdates _ _
  case vimin => exact onFiring_byUpdates _ _
  case vimax => exact onFiring_byUpdates _ _
  case vcvti => exact onFiring_byUpdates _ _
  case vcvtf => exact onFiring_byUpdates _ _
  case vins => exact onFiring_byUpdates _ _
  case vext => exact onFiring_byUpdates _ _
  case vsplat => exact onFiring_byUpdates _ _
  case vclass => exact onFiring_byUpdates _ _
  case vrnd => exact onFiring_byUpdates _ _
  case vdot => exact onFiring_byUpdates _ _
  case ld => exact onFiring_byUpdates _ _
  case st => exact onFiring_byUpdates _ _
  case ldw => exact onFiring_byUpdates _ _
  case stw => exact onFiring_byUpdates _ _
  case ldg => exact onFiring_byUpdates _ _
  case sts => exact onFiring_byUpdates _ _
  case aadd => exact onFiring_byUpdates _ _
  case afadd => exact onFiring_byUpdates _ _
  case amin => exact onFiring_byUpdates _ _
  case amax => exact onFiring_byUpdates _ _
  case axchg => exact onFiring_byUpdates _ _
  case acas => exact onFiring_byUpdates _ _
  case aand => exact onFiring_byUpdates _ _
  case aor => exact onFiring_byUpdates _ _
  case fence => exact onFiring_byUpdates _ _
  case halloc => exact onFiring_byUpdates _ _
  case hfree => exact onFiring_byUpdates _ _
  case hmap => exact onFiring_byUpdates _ _
  case hfmt => exact onFiring_byUpdates _ _
  case hdesc => exact onFiring_byUpdates _ _
  case rpush => exact onFiring_byUpdates _ _
  case copy => exact onFiring_byUpdates _ _
  case strmi => exact onFiring_byUpdates _ _
  case strmo => exact onFiring_byUpdates _ _
  case relm => exact onFiring_byUpdates _ _
  case mrg => exact onFiring_byUpdates _ _
  case launch => exact onFiring_byUpdates _ _
  case sstep => exact onFiring_byUpdates _ _
  case bari => exact onFiring_byUpdates _ _
  case bar => exact onFiring_byUpdates _ _
  case bara => exact onFiring_byUpdates _ _
  case bard => exact onFiring_byUpdates _ _
  case mldb => exact onFiring_byUpdates _ _
  case mma => exact onFiring_byUpdates _ _
  case mmas => exact onFiring_byUpdates _ _
  case mmap => exact onFiring_byUpdates _ _
  case mzero => exact onFiring_byUpdates _ _
  case mout => exact onFiring_byUpdates _ _
  case madj => exact onFiring_byUpdates _ _
  case mstat => exact onFiring_byUpdates _ _
  case cload => exact onFiring_byUpdates _ _
  case cprobe => exact onFiring_byUpdates _ _
  case cflush => exact onFiring_byUpdates _ _
  case cclr => exact onFiring_byUpdates _ _
  case prun => exact onFiring_byUpdates _ _
  case prunt => exact onFiring_byUpdates _ _
  case pcnt => exact onFiring_byUpdates _ _
  case csrw => exact onFiring_byUpdates _ _
  case nmx => exact onFiring_byUpdates _ _
  case gathb => exact onFiring_byUpdates _ _
  case sysrd => exact onFiring_byUpdates _ _
  case syswr => exact onFiring_byUpdates _ _
  case rdtime => exact onFiring_byUpdates _ _
  case rdcoord => exact onFiring_byUpdates _ _
  case evt => exact onFiring_byUpdates _ _
  case perfrd => exact onFiring_byUpdates _ _
  case kiln => exact onFiring_byUpdates _ _
  case tokenArrival => exact actWhen_byUpdates _ _ _ _
  case flitHop => exact actWhen_byUpdates _ _ _ _
  case pipelineCompletion => exact actWhen_byUpdates _ _ _ _
  case tokenInject => exact actWhen_byUpdates _ _ _ _
  case spill => exact actWhen_byUpdates _ _ _ _
  case cellarLookup => exact actWhen_byUpdates _ _ _ _
  case frameOperation => exact actWhen_byUpdates _ _ _ _
  case nextSend => exact actWhen_byUpdates _ _ _ _
  case loopnEmission => exact actWhen_byUpdates _ _ _ _
  case frameGrant => exact actWhen_byUpdates _ _ _ _
  case frameRelease => exact actWhen_byUpdates _ _ _ _
  case purgeAcknowledged => exact actWhen_byUpdates _ _ _ _
  case parkChange => exact actWhen_byUpdates _ _ _ _
  case fpctlApply => exact actWhen_byUpdates _ _ _ _
  case switchDecision => exact actWhen_byUpdates _ _ _ _
  case unitEmptyReport => exact actWhen_byUpdates _ _ _ _
  case slotChange => exact actWhen_byUpdates _ _ _ _
  case transactionAcquire => exact actWhen_byUpdates _ _ _ _
  case memoryRequest => exact actWhen_byUpdates _ _ _ _
  case internalCompletion => exact actWhen_byUpdates _ _ _ _
  case hbmServe => exact actWhen_byUpdates _ _ _ _
  case refreshDue => exact actWhen_byUpdates _ _ _ _
  case refreshIssue => exact actWhen_byUpdates _ _ _ _
  case refreshEnd => exact actWhen_byUpdates _ _ _ _
  case catchUp => exact actWhen_byUpdates _ _ _ _
  case catchUpEnd => exact actWhen_byUpdates _ _ _ _
  case temperatureReading => exact actWhen_byUpdates _ _ _ _
  case pendingMiss => exact actWhen_byUpdates _ _ _ _
  case walkComplete => exact actWhen_byUpdates _ _ _ _
  case faultRetry => exact actWhen_byUpdates _ _ _ _
  case transactionTimeout => exact actWhen_byUpdates _ _ _ _
  case lateReply => exact actWhen_byUpdates _ _ _ _
  case peerRequest => exact actWhen_byUpdates _ _ _ _
  case hostBar1Access => exact actWhen_byUpdates _ _ _ _
  case ringPush => exact actWhen_byUpdates _ _ _ _
  case copyUnit => exact actWhen_byUpdates _ _ _ _
  case strmiBlock => exact actWhen_byUpdates _ _ _ _
  case engineCompletion => exact actWhen_byUpdates _ _ _ _
  case mergeRecord => exact actWhen_byUpdates _ _ _ _
  case millRequest => exact actWhen_byUpdates _ _ _ _
  case millCoordinate => exact actWhen_byUpdates _ _ _ _
  case millSlot => exact actWhen_byUpdates _ _ _ _
  case sequencerBegin => exact actWhen_byUpdates _ _ _ _
  case chunkLoad => exact actWhen_byUpdates _ _ _ _
  case matrixRow => exact actWhen_byUpdates _ _ _ _
  case adjunctFill => exact actWhen_byUpdates _ _ _ _
  case adapterPass => exact actWhen_byUpdates _ _ _ _
  case commit => exact actWhen_byUpdates _ _ _ _
  case abandon => exact actWhen_byUpdates _ _ _ _
  case plaunch => exact actWhen_byUpdates _ _ _ _
  case launchQueueTake => exact actWhen_byUpdates _ _ _ _
  case counterDecrement => exact actWhen_byUpdates _ _ _ _
  case dispatch => exact actWhen_byUpdates _ _ _ _
  case wakeComplete => exact actWhen_byUpdates _ _ _ _
  case installComplete => exact actWhen_byUpdates _ _ _ _
  case installPreempt => exact actWhen_byUpdates _ _ _ _
  case instanceComplete => exact actWhen_byUpdates _ _ _ _
  case shareReport => exact actWhen_byUpdates _ _ _ _
  case nodeFail => exact actWhen_byUpdates _ _ _ _
  case conditionNode => exact actWhen_byUpdates _ _ _ _
  case whileNode => exact actWhen_byUpdates _ _ _ _
  case runEnd => exact actWhen_byUpdates _ _ _ _
  case agingPeriod => exact actWhen_byUpdates _ _ _ _
  case reservation => exact actWhen_byUpdates _ _ _ _
  case barrierOperation => exact actWhen_byUpdates _ _ _ _
  case barrierWake => exact actWhen_byUpdates _ _ _ _
  case deadlineExpiry => exact actWhen_byUpdates _ _ _ _
  case cooperativeSave => exact actWhen_byUpdates _ _ _ _
  case captureBegin => exact actWhen_byUpdates _ _ _ _
  case saveComplete => exact actWhen_byUpdates _ _ _ _
  case yrWithdraw => exact actWhen_byUpdates _ _ _ _
  case resume => exact actWhen_byUpdates _ _ _ _
  case regionError => exact actWhen_byUpdates _ _ _ _
  case watchdog => exact actWhen_byUpdates _ _ _ _
  case uncorrectableData => exact actWhen_byUpdates _ _ _ _
  case abortCompletion => exact actWhen_byUpdates _ _ _ _
  case correctedError => exact actWhen_byUpdates _ _ _ _
  case bucketRotate => exact actWhen_byUpdates _ _ _ _
  case kilnSubmit => exact actWhen_byUpdates _ _ _ _
  case kilnScanEnd => exact actWhen_byUpdates _ _ _ _
  case kilnAbort => exact actWhen_byUpdates _ _ _ _
  case psetup => exact actWhen_byUpdates _ _ _ _
  case ginstall => exact actWhen_byUpdates _ _ _ _
  case gremove => exact actWhen_byUpdates _ _ _ _
  case tlbinv => exact actWhen_byUpdates _ _ _ _
  case fanswer => exact actWhen_byUpdates _ _ _ _
  case kill => exact actWhen_byUpdates _ _ _ _
  case elog => exact actWhen_byUpdates _ _ _ _
  case pwr => exact actWhen_byUpdates _ _ _ _
  case cgate => exact actWhen_byUpdates _ _ _ _
  case attest => exact actWhen_byUpdates _ _ _ _
  case winset => exact actWhen_byUpdates _ _ _ _
  case expset => exact actWhen_byUpdates _ _ _ _
  case fabricStopEnd => exact actWhen_byUpdates _ _ _ _
  case csramcfgWrite => exact actWhen_byUpdates _ _ _ _
  case obsRingConfig => exact actWhen_byUpdates _ _ _ _
  case dropsWrite => exact actWhen_byUpdates _ _ _ _
  case smpcfgWrite => exact actWhen_byUpdates _ _ _ _
  case selectorWrite => exact actWhen_byUpdates _ _ _ _
  case registerWrite => exact actWhen_byUpdates _ _ _ _
  case sampleTick => exact actWhen_byUpdates _ _ _ _
  case recordPerformed => exact actWhen_byUpdates _ _ _ _
  case eventCollect => exact actWhen_byUpdates _ _ _ _
  case thermalClamp => exact actWhen_byUpdates _ _ _ _
  case linkRetrainFail => exact actWhen_byUpdates _ _ _ _
  case flitRetry => exact actWhen_byUpdates _ _ _ _
  case boot => exact actWhen_byUpdates _ _ _ _
  case trainingEnd => exact actWhen_byUpdates _ _ _ _
  case fullService => exact actWhen_byUpdates _ _ _ _
  case handleCopyUpdate => exact actWhen_byUpdates _ _ _ _
  case systemRegisterRequest => exact actWhen_byUpdates _ _ _ _
  case framePurge => exact actWhen_byUpdates _ _ _ _

/-- A step after a list of updates. -/
theorem ByUpdates.trans {s u : State} {o : Host.Outcome State Fault Refusal} (h : ∃ l, u = applyAll l s) (k : ByUpdates u o) :
    ByUpdates s o := by
  rintro t rfl
  obtain ⟨l, rfl⟩ := h
  obtain ⟨m, rfl⟩ := k t rfl
  exact ⟨l ++ m, by simp [Sys2Proof.Laws.Ops.applyAll_append]⟩

theorem takeUp_byUpdates (f : Firing) (s : State) : ∃ l, takeUp f s = applyAll l s := ⟨_, rfl⟩

theorem fireNow_byUpdates (f : Firing) (s : State) : ByUpdates s (fireNow f s) := by
  unfold fireNow
  split
  · exact ByUpdates.trans (takeUp_byUpdates f s) (exec_byUpdates _ _)
  · rintro t ⟨⟩

theorem passTime_byUpdates (s : State) : ∃ l, passTime s = applyAll l s := ⟨_, rfl⟩

theorem takeInput_byUpdates (i : Instr) (rest : List (Nat × Instr)) (s : State) : ∃ l, takeInput i rest s = applyAll l s := by
  have h : ∃ l, (Eff.inputs rest).apply s = applyAll l s := ⟨[.inputs rest], rfl⟩
  unfold takeInput
  simp only
  split
  · next u hu => exact ByUpdates.trans h (exec_byUpdates _ _) u hu
  · exact h

/-- What a choice has drawn is made by updates. -/
theorem choose_byUpdates {α : Type} {l : List α} {s t : State} {x : α} (h : choose l s = some (x, t)) : ∃ l, t = applyAll l s := by
  unfold choose at h
  split at h
  · exact nomatch h
  · obtain ⟨-, rfl⟩ := Prod.mk.inj (Option.some.inj h)
    exact ⟨[], rfl⟩
  · obtain ⟨_, -, h⟩ := Option.map_eq_some_iff.1 h
    obtain ⟨-, rfl⟩ := Prod.mk.inj h
    exact ⟨[.free], rfl⟩

theorem chooseMove_byUpdates (s : State) : ByUpdates s (chooseMove s) := by
  unfold chooseMove
  split
  · next h => exact ByUpdates.trans (choose_byUpdates h) (exec_byUpdates _ _)
  · split
    · next h => exact ByUpdates.trans (choose_byUpdates h) (fireNow_byUpdates _ _)
    · rintro t ⟨⟩; exact passTime_byUpdates s

theorem step_byUpdates (s : State) : ByUpdates s (step s) := by
  unfold step
  split
  · unfold firingStep
    split
    · exact exec_byUpdates _ _
    · rintro t ⟨⟩
  · unfold idleStep
    split
    · rintro t ⟨⟩; exact takeInput_byUpdates ..
    · exact chooseMove_byUpdates s

/-- What every update keeps, every step keeps. -/
theorem step_keeps (P : State → Prop) (h : ∀ e s, P s → P (Eff.apply e s)) {s t : State} (hs : P s) (ht : step s = .next t) :
    P t := by
  obtain ⟨l, rfl⟩ := step_byUpdates s t ht
  clear ht
  induction l generalizing s with
  | nil => exact hs
  | cons e l ih => exact ih (h e s hs)

/-- What relates a state to what every update makes of it, relates a state to what every step makes of it. -/
theorem step_relates (R : State → State → Prop) (refl : ∀ s, R s s) (trans : ∀ a b c, R a b → R b c → R a c)
    (h : ∀ e s, R s (Eff.apply e s)) {s t : State} (ht : step s = .next t) : R s t := by
  obtain ⟨l, rfl⟩ := step_byUpdates s t ht
  clear ht
  induction l generalizing s with
  | nil => exact refl s
  | cons e l ih => exact trans _ _ _ (h e s) ih

end Sys2Proof.Laws.Dispatch
end

