-- ==== Sys2Proof/Laws/Element.lean ====
section
/-! SUPPORT. What the shared operations of an element can do: each lemma says all of it, and is cited instead of the operation's
text. -/

namespace Sys2Proof.Laws.Element

open Sys2Proof Sys2Proof.Machine Sys2Proof.Laws.Ops

/-- The message a body `control` adds. -/
def controlMsg (src dst : Pos) (body : Body) (s : State) : Msg :=
  { id := s.nextId, src := src, dst := dst, net := .control, hdr := withRid (headerOf (routeTo dst 0 0 0 false) 4 0 0),
    pay := 0, res := residues 0, body := body, col := (switchOf src).1, row := (switchOf src).2, due := s.fc + 0,
    look := .fresh, chan := none }

theorem after_control (src dst : Pos) (body : Body) (s : State) : after (control src dst body) s =
    { s with chip := { s.chip with net := s.chip.net ++ [controlMsg src dst body s] }, nextId := s.nextId + 1 } := rfl

/-- The messages by which a firing asks for its outgoing tag: one for NEXT and EXIT, else none. -/
def asked (f : Firing) (ta : TagAction) (k : Nat) (s : State) : List Msg :=
  (tagAsk f ta k).map fun b => controlMsg f.pos (frameTable ⟨frameDie (frameOf f.tag), frameClu (frameOf f.tag), 0, 0⟩) b s

theorem after_askTag (f : Firing) (ta : TagAction) (k : Nat) (s : State) : after (askTag f ta k) s =
    { s with chip := { s.chip with net := s.chip.net ++ asked f ta k s }, nextId := s.nextId + (asked f ta k s).length } := by
  cases ta <;> simp [askTag, asked, tagAsk, after_control]

theorem asked_bodies (f : Firing) (ta : TagAction) (k : Nat) (s : State) :
    (asked f ta k s).map (·.body) = tagAsk f ta k := by
  cases ta <;> simp [asked, tagAsk, controlMsg]

/-- A continuation of a firing that only puts messages on the networks. -/
def OnlyPosts (p : Prog) (bodies : List Body) : Prop :=
  ∀ s, ∃ l j, after p s = { s with chip := { s.chip with net := s.chip.net ++ l }, nextId := j } ∧ l.map (·.body) = bodies

theorem skip_posts : OnlyPosts skip [] := fun s => ⟨[], s.nextId, by simp, rfl⟩

theorem control_posts (src dst : Pos) (body : Body) : OnlyPosts (control src dst body) [body] :=
  fun s => ⟨_, _, after_control src dst body s, rfl⟩

/-- A firing leaves its operation in the pipeline and what its continuation posts. -/
theorem issueOp_leaves (s : State) (f : Firing) (x : Issue) (then' : Nat → Prog) (bodies : Nat → List Body)
    (h : ∀ k, OnlyPosts (then' k) (bodies k)) : Leaves s f x bodies (after (issueOp f x then') s) := by
  have key : ∀ (i n : Nat),
      (match x.lat with
        | some k => n = k
        | none => 0 < n) →
      Leaves s f x bodies (after (withId fun k => seqAll [
        (fun s => updElem f.pos (fun e => { e with
          pipe := e.pipe ++ [{ id := k, op := x.op, entry := f.entry, tag := f.tag, out := outTag x.ta x.b f.tag,
                               due := some (s.fc + n), outs := x.outs, flags := x.flags, rel := x.ta == .free,
                               wait := x.wait,
                               defer := if x.defer then some f else none, since := s.fc }],
          lastFire := some s.fc }) s),
        askTag f x.ta k, then' k, endFiring]) { s with free := i }) := by
    intro i n hn
    simp only [after_withId, after_seqAll_cons, after_seqAll_nil, after_lam, updElem, after_upd, after_askTag, endFiring,
      after_eff]
    generalize hu : State.mk _ _ _ _ _ _ _ _ _ _ _ _ _ _ = u
    obtain ⟨l, j, e, hl⟩ := h s.nextId u
    rw [e]
    subst hu
    refine ⟨{ id := s.nextId, op := x.op, entry := f.entry, tag := f.tag, out := outTag x.ta x.b f.tag, due := some (s.fc + n),
              outs := x.outs, flags := x.flags, rel := x.ta == .free, wait := x.wait,
              defer := if x.defer then some f else none, since := s.fc }, asked f x.ta s.nextId _ ++ l,
      ⟨rfl, rfl, rfl, rfl, rfl, rfl, rfl, rfl, rfl, rfl, ?_⟩, ?_, ?_, (List.append_assoc ..).trans rfl, ?_, rfl, ?_, ?_, rfl⟩
    · revert hn; cases x.lat <;> simp_all
    · simp [elemAt]
    · intro p hp; simp [elemAt, getKey_modKey_other _ hp]
    · simp [asked_bodies, hl]
    · simp [SameMemory]
    · simp [SameRest]
  cases hl : x.lat with
  | some n =>
    have := key s.free n (by simp [hl])
    simpa [issueOp, withLatency, hl] using this
  | none =>
    have := key (s.free + 1) (1 + Config.delay s.free) (by simp only [hl]; omega)
    simpa [issueOp, withLatency, hl] using this

/-- A computing firing leaves its operation in the pipeline and nothing else. -/
theorem sendAfter_leaves (s : State) (f : Firing) (op : Nat) (ta : TagAction) (b : Wide) (lat : Option Nat)
    (outs : List Out) (flags : Flags) :
    Leaves s f ⟨op, ta, b, lat, outs, flags, .none, false⟩ (fun _ => []) (after (sendAfter f op ta b lat outs flags) s) :=
  issueOp_leaves s f _ _ _ fun _ => skip_posts

end Sys2Proof.Laws.Element
end

