-- ==== Sys2Proof/Laws/Memory.lean ====
section
/-! SUPPORT. The memory operations keep the canonical form, and a read after a write reads what was written. -/

namespace Sys2Proof.Laws.Memory

open Sys2Proof Sys2Proof.Machine

/-- Every address listed is at least `a`. -/
def From (a : Nat) (m : Memory) : Prop := ∀ x ∈ m, a ≤ x.1

theorem wf_cons {a : Nat} {v : Byte} {m : Memory} :
    Memory.wf ((a, v) :: m) = true ↔ v ≠ Memory.unlisted ∧ From (a + 1) m ∧ Memory.wf m = true := by
  induction m generalizing a v with
  | nil => simp [Memory.wf, From]
  | cons x m ih =>
    obtain ⟨b, w⟩ := x
    simp only [Memory.wf, Bool.and_eq_true, bne_iff_ne, decide_eq_true_eq]
    constructor
    · rintro ⟨hv, hab, hw⟩
      refine ⟨hv, ?_, hw⟩
      intro y hy
      rcases List.mem_cons.1 hy with rfl | hy
      · exact hab
      · have := (ih.1 hw).2.1 y hy; omega
    · rintro ⟨hv, hf, hw⟩
      exact ⟨hv, hf (b, w) (List.mem_cons_self ..), hw⟩

theorem wf_nil : Memory.wf [] = true := rfl

theorem From.mono {a b : Nat} {m : Memory} (h : From b m) (hab : a ≤ b) : From a m := fun x hx => Nat.le_trans hab (h x hx)

theorem from_write {lo a : Nat} {v : Byte} {m : Memory} (h : From lo m) (ha : lo ≤ a) : From lo (m.write a v) := by
  induction m with
  | nil =>
    simp only [Memory.write]
    split
    · simp [From]
    · intro x hx; simp at hx; subst hx; exact ha
  | cons y m ih =>
    obtain ⟨b, w⟩ := y
    have hb : lo ≤ b := h (b, w) (List.mem_cons_self ..)
    have hm : From lo m := fun x hx => h x (List.mem_cons_of_mem _ hx)
    simp only [Memory.write]
    split
    · split
      · exact h
      · intro x hx
        rcases List.mem_cons.1 hx with rfl | hx
        · exact ha
        · exact h x hx
    · split
      · split
        · exact hm
        · intro x hx
          rcases List.mem_cons.1 hx with rfl | hx
          · exact ha
          · exact hm x hx
      · intro x hx
        rcases List.mem_cons.1 hx with rfl | hx
        · exact hb
        · exact ih hm x hx

/-- A write keeps the canonical form. -/
theorem write_wf {m : Memory} (a : Nat) (v : Byte) (h : m.wf = true) : (m.write a v).wf = true := by
  induction m with
  | nil =>
    simp only [Memory.write]
    split
    · rfl
    · next hv => simpa [Memory.wf] using hv
  | cons y m ih =>
    obtain ⟨b, w⟩ := y
    obtain ⟨hw, hf, hm⟩ := wf_cons.1 h
    simp only [Memory.write]
    split
    · next hab =>
      split
      · exact h
      · next hv =>
        refine wf_cons.2 ⟨hv, ?_, h⟩
        intro x hx
        rcases List.mem_cons.1 hx with rfl | hx
        · exact hab
        · have := hf x hx; omega
    · next hab =>
      split
      · next hb =>
        subst hb
        split
        · exact hm
        · next hv => exact wf_cons.2 ⟨hv, hf, hm⟩
      · next hb => exact wf_cons.2 ⟨hw, from_write hf (by omega), ih hm⟩

/-- Writing bytes from an address up keeps the canonical form. -/
theorem writeAll_wf {m : Memory} (a : Nat) (l : List Byte) (h : m.wf = true) : (m.writeAll a l).wf = true := by
  induction l generalizing m a with
  | nil => exact h
  | cons v l ih => exact ih (a + 1) (write_wf a v h)

/-- Clearing a range keeps the canonical form. -/
theorem clear_wf {m : Memory} (lo n : Nat) (h : m.wf = true) : (m.clear lo n).wf = true := by
  induction m with
  | nil => rfl
  | cons y m ih =>
    obtain ⟨b, w⟩ := y
    obtain ⟨hw, hf, hm⟩ := wf_cons.1 h
    simp only [Memory.clear, List.filter_cons]
    split
    · refine wf_cons.2 ⟨hw, ?_, ih hm⟩
      intro x hx
      exact hf x (List.mem_filter.1 hx).1
    · exact ih hm

theorem read_from {m : Memory} {a b : Nat} (h : From b m) (hab : a < b) : m.read a = Memory.unlisted := by
  cases m with
  | nil => rfl
  | cons y m =>
    obtain ⟨c, w⟩ := y
    have hc : b ≤ c := h (c, w) (List.mem_cons_self ..)
    simp [Memory.read, show a ≠ c by omega, show a < c by omega]

/-- A read of the address written gives the byte written. -/
theorem read_write_same {m : Memory} (a : Nat) (v : Byte) (h : m.wf = true) : (m.write a v).read a = v := by
  induction m with
  | nil => simp only [Memory.write]; split <;> simp_all [Memory.read]
  | cons y m ih =>
    obtain ⟨b, w⟩ := y
    obtain ⟨hw, hf, hm⟩ := wf_cons.1 h
    simp only [Memory.write]
    split
    · next hab =>
      split
      · next hv => simp [Memory.read, hv, show a ≠ b by omega, hab]
      · simp [Memory.read]
    · next hab =>
      split
      · next hb =>
        subst hb
        split
        · next hv => rw [hv]; exact read_from hf (by omega)
        · simp [Memory.read]
      · next hb => simpa [Memory.read, hb, hab] using ih hm

/-- A read of another address gives what it gave. -/
theorem read_write_other {m : Memory} {a b : Nat} (v : Byte) (h : m.wf = true) (hab : b ≠ a) :
    (m.write a v).read b = m.read b := by
  induction m with
  | nil =>
    simp only [Memory.write]
    split
    · rfl
    · by_cases hlt : b < a <;> simp [Memory.read, hab, hlt]
  | cons y m ih =>
    obtain ⟨c, w⟩ := y
    obtain ⟨hw, hf, hm⟩ := wf_cons.1 h
    simp only [Memory.write]
    split
    · next hac =>
      split
      · rfl
      · by_cases hlt : b < a
        · simp [Memory.read, hab, hlt, show b ≠ c by omega, show b < c by omega]
        · simp [Memory.read, hab, hlt]
    · next hac =>
      split
      · next hc =>
        subst hc
        split
        · by_cases hlt : b < a
          · simp [Memory.read, hab, hlt, read_from hf (show b < a + 1 by omega)]
          · simp [Memory.read, hab, hlt]
        · simp [Memory.read, hab]
      · by_cases hb : b = c
        · subst hb; simp [Memory.read]
        · by_cases hlt : b < c
          · simp [Memory.read, hb, hlt]
          · simp [Memory.read, hb, hlt, ih hm]

/-- Bytes outside a range written are as before. -/
theorem read_writeAll_other {m : Memory} {a b : Nat} (l : List Byte) (h : m.wf = true) (hb : b < a ∨ a + l.length ≤ b) :
    (m.writeAll a l).read b = m.read b := by
  induction l generalizing m a with
  | nil => rfl
  | cons v l ih =>
    simp only [List.length_cons] at hb
    simp only [Memory.writeAll]
    rw [ih (write_wf a v h) (by omega), read_write_other v h (by omega)]

/-- A byte of a range written is the one written there. -/
theorem read_writeAll_same {m : Memory} {a i : Nat} (l : List Byte) (h : m.wf = true) (hi : i < l.length) :
    (m.writeAll a l).read (a + i) = l[i] := by
  induction l generalizing m a i with
  | nil => simp at hi
  | cons v l ih =>
    simp only [Memory.writeAll]
    cases i with
    | zero =>
      rw [read_writeAll_other l (write_wf a v h) (by omega)]
      exact read_write_same a v h
    | succ i =>
      have := ih (a := a + 1) (i := i) (write_wf a v h) (by simpa using hi)
      simpa [Nat.add_assoc, Nat.add_comm 1 i] using this

end Sys2Proof.Laws.Memory
end

