-- ==== Sys2Proof/Laws/PerInstr.lean ====
section
/-! SUPPORT. The family ViewBack, one lemma for each constructor of Instr: the fields an instruction is written with give
the instruction back (spec/02 R35 to R47). -/

namespace Sys2Proof.Laws.ViewBack

open Sys2Proof

/-- What an instruction's fields are read back as is the instruction. -/
def Statement (i : Instr) : Prop := ∀ v, i.view = some v → v.toInstr = some i

theorem mov (o : Ops2) : Statement (.mov o) := by
  rintro v ⟨⟩; rfl
theorem steer (o : Ops2) : Statement (.steer o) := by
  rintro v ⟨⟩; rfl
theorem merge (o : Ops2) : Statement (.merge o) := by
  rintro v ⟨⟩; rfl
theorem join (o : OpsJoin) : Statement (.join o) := by
  rintro v ⟨⟩; rfl
theorem falloc (o : OpsFrame) : Statement (.falloc o) := by
  rintro v ⟨⟩; rfl
theorem ffree (o : OpsKeep) : Statement (.ffree o) := by
  rintro v ⟨⟩; rfl
theorem loopn (o : OpsKeep) : Statement (.loopn o) := by
  rintro v ⟨⟩; rfl
theorem call (o : OpsCall) : Statement (.call o) := by
  rintro v ⟨⟩; rfl
theorem ret (o : OpsSink) : Statement (.ret o) := by
  rintro v ⟨⟩; rfl
theorem yield (o : Ops2) : Statement (.yield o) := by
  rintro v ⟨⟩; rfl
theorem trap (sa : Src) : Statement (.trap sa) := by
  rintro v ⟨⟩; rfl
theorem assert (o : Ops2) : Statement (.assert o) := by
  rintro v ⟨⟩; rfl
theorem wset (o : Ops2) : Statement (.wset o) := by
  rintro v ⟨⟩; rfl
theorem switch (o : OpsSink) : Statement (.switch o) := by
  rintro v ⟨⟩; rfl
theorem condw (o : Ops2) : Statement (.condw o) := by
  rintro v ⟨⟩; rfl
theorem add (o : Ops2) : Statement (.add o) := by
  rintro v ⟨⟩; rfl
theorem sub (o : Ops2) : Statement (.sub o) := by
  rintro v ⟨⟩; rfl
theorem mul (o : Ops2) : Statement (.mul o) := by
  rintro v ⟨⟩; rfl
theorem mulhs (o : Ops2) : Statement (.mulhs o) := by
  rintro v ⟨⟩; rfl
theorem mulhu (o : Ops2) : Statement (.mulhu o) := by
  rintro v ⟨⟩; rfl
theorem divs (o : Ops2) : Statement (.divs o) := by
  rintro v ⟨⟩; rfl
theorem divu (o : Ops2) : Statement (.divu o) := by
  rintro v ⟨⟩; rfl
theorem rems (o : Ops2) : Statement (.rems o) := by
  rintro v ⟨⟩; rfl
theorem remu (o : Ops2) : Statement (.remu o) := by
  rintro v ⟨⟩; rfl
theorem and (o : Ops2) : Statement (.and o) := by
  rintro v ⟨⟩; rfl
theorem or (o : Ops2) : Statement (.or o) := by
  rintro v ⟨⟩; rfl
theorem xor (o : Ops2) : Statement (.xor o) := by
  rintro v ⟨⟩; rfl
theorem andn (o : Ops2) : Statement (.andn o) := by
  rintro v ⟨⟩; rfl
theorem shl (o : Ops2) : Statement (.shl o) := by
  rintro v ⟨⟩; rfl
theorem shr (o : Ops2) : Statement (.shr o) := by
  rintro v ⟨⟩; rfl
theorem sra (o : Ops2) : Statement (.sra o) := by
  rintro v ⟨⟩; rfl
theorem rol (o : Ops2) : Statement (.rol o) := by
  rintro v ⟨⟩; rfl
theorem mins (o : Ops2) : Statement (.mins o) := by
  rintro v ⟨⟩; rfl
theorem minu (o : Ops2) : Statement (.minu o) := by
  rintro v ⟨⟩; rfl
theorem maxs (o : Ops2) : Statement (.maxs o) := by
  rintro v ⟨⟩; rfl
theorem maxu (o : Ops2) : Statement (.maxu o) := by
  rintro v ⟨⟩; rfl
theorem ceq (o : Ops2) : Statement (.ceq o) := by
  rintro v ⟨⟩; rfl
theorem cne (o : Ops2) : Statement (.cne o) := by
  rintro v ⟨⟩; rfl
theorem clts (o : Ops2) : Statement (.clts o) := by
  rintro v ⟨⟩; rfl
theorem cltu (o : Ops2) : Statement (.cltu o) := by
  rintro v ⟨⟩; rfl
theorem cles (o : Ops2) : Statement (.cles o) := by
  rintro v ⟨⟩; rfl
theorem cleu (o : Ops2) : Statement (.cleu o) := by
  rintro v ⟨⟩; rfl
theorem clz (o : Ops1) : Statement (.clz o) := by
  rintro v ⟨⟩; rfl
theorem popc (o : Ops1) : Statement (.popc o) := by
  rintro v ⟨⟩; rfl
theorem bfx (o : Ops2) : Statement (.bfx o) := by
  rintro v ⟨⟩; rfl
theorem sext (o : Ops2) : Statement (.sext o) := by
  rintro v ⟨⟩; rfl
theorem zext (o : Ops2) : Statement (.zext o) := by
  rintro v ⟨⟩; rfl
theorem fadd (o : Ops2) : Statement (.fadd o) := by
  rintro v ⟨⟩; rfl
theorem fsub (o : Ops2) : Statement (.fsub o) := by
  rintro v ⟨⟩; rfl
theorem fmul (o : Ops2) : Statement (.fmul o) := by
  rintro v ⟨⟩; rfl
theorem ffma (o : Ops3) : Statement (.ffma o) := by
  rintro v ⟨⟩; rfl
theorem fmin (o : Ops2) : Statement (.fmin o) := by
  rintro v ⟨⟩; rfl
theorem fmax (o : Ops2) : Statement (.fmax o) := by
  rintro v ⟨⟩; rfl
theorem fabs (o : Ops1) : Statement (.fabs o) := by
  rintro v ⟨⟩; rfl
theorem fneg (o : Ops1) : Statement (.fneg o) := by
  rintro v ⟨⟩; rfl
theorem fceq (o : Ops2) : Statement (.fceq o) := by
  rintro v ⟨⟩; rfl
theorem fclt (o : Ops2) : Statement (.fclt o) := by
  rintro v ⟨⟩; rfl
theorem fcle (o : Ops2) : Statement (.fcle o) := by
  rintro v ⟨⟩; rfl
theorem fcun (o : Ops2) : Statement (.fcun o) := by
  rintro v ⟨⟩; rfl
theorem frsq (o : Ops1) : Statement (.frsq o) := by
  rintro v ⟨⟩; rfl
theorem frcp (o : Ops1) : Statement (.frcp o) := by
  rintro v ⟨⟩; rfl
theorem fexp2 (o : Ops1) : Statement (.fexp2 o) := by
  rintro v ⟨⟩; rfl
theorem flog2 (o : Ops1) : Statement (.flog2 o) := by
  rintro v ⟨⟩; rfl
theorem fclass (o : Ops1) : Statement (.fclass o) := by
  rintro v ⟨⟩; rfl
theorem frnd (o : Ops2) : Statement (.frnd o) := by
  rintro v ⟨⟩; rfl
theorem fcvti (o : Ops2) : Statement (.fcvti o) := by
  rintro v ⟨⟩; rfl
theorem icvtf (o : Ops2) : Statement (.icvtf o) := by
  rintro v ⟨⟩; rfl
theorem fpack (o : Ops2) : Statement (.fpack o) := by
  rintro v ⟨⟩; rfl
theorem fhi (o : Ops1) : Statement (.fhi o) := by
  rintro v ⟨⟩; rfl
theorem fscalb (o : Ops2) : Statement (.fscalb o) := by
  rintro v ⟨⟩; rfl
theorem fcvt (o : Ops2) : Statement (.fcvt o) := by
  rintro v ⟨⟩; rfl
theorem vadd (o : Ops2) : Statement (.vadd o) := by
  rintro v ⟨⟩; rfl
theorem vsub (o : Ops2) : Statement (.vsub o) := by
  rintro v ⟨⟩; rfl
theorem vmul (o : Ops2) : Statement (.vmul o) := by
  rintro v ⟨⟩; rfl
theorem vfma (o : Ops2) (sc : Src) : Statement (.vfma o sc) := by
  rintro v ⟨⟩; rfl
theorem vmin (o : Ops2) : Statement (.vmin o) := by
  rintro v ⟨⟩; rfl
theorem vmax (o : Ops2) : Statement (.vmax o) := by
  rintro v ⟨⟩; rfl
theorem vabs (o : Ops1) : Statement (.vabs o) := by
  rintro v ⟨⟩; rfl
theorem vneg (o : Ops1) : Statement (.vneg o) := by
  rintro v ⟨⟩; rfl
theorem vrcp (o : Ops1) : Statement (.vrcp o) := by
  rintro v ⟨⟩; rfl
theorem vrsq (o : Ops1) : Statement (.vrsq o) := by
  rintro v ⟨⟩; rfl
theorem vexp2 (o : Ops1) : Statement (.vexp2 o) := by
  rintro v ⟨⟩; rfl
theorem vlog2 (o : Ops1) : Statement (.vlog2 o) := by
  rintro v ⟨⟩; rfl
theorem vceq (o : Ops2) : Statement (.vceq o) := by
  rintro v ⟨⟩; rfl
theorem vclt (o : Ops2) : Statement (.vclt o) := by
  rintro v ⟨⟩; rfl
theorem vcle (o : Ops2) : Statement (.vcle o) := by
  rintro v ⟨⟩; rfl
theorem vsel (o : Ops2) (sc : Src) : Statement (.vsel o sc) := by
  rintro v ⟨⟩; rfl
theorem vrsum (o : Ops1) : Statement (.vrsum o) := by
  rintro v ⟨⟩; rfl
theorem vrmax (o : Ops1) : Statement (.vrmax o) := by
  rintro v ⟨⟩; rfl
theorem vscan (o : Ops2) : Statement (.vscan o) := by
  rintro v ⟨⟩; rfl
theorem vshuf (o : Ops2) : Statement (.vshuf o) := by
  rintro v ⟨⟩; rfl
theorem vbcast (o : Ops2) : Statement (.vbcast o) := by
  rintro v ⟨⟩; rfl
theorem viadd (o : Ops2) : Statement (.viadd o) := by
  rintro v ⟨⟩; rfl
theorem visub (o : Ops2) : Statement (.visub o) := by
  rintro v ⟨⟩; rfl
theorem vimul (o : Ops2) : Statement (.vimul o) := by
  rintro v ⟨⟩; rfl
theorem vand (o : Ops2) : Statement (.vand o) := by
  rintro v ⟨⟩; rfl
theorem vor (o : Ops2) : Statement (.vor o) := by
  rintro v ⟨⟩; rfl
theorem vxor (o : Ops2) : Statement (.vxor o) := by
  rintro v ⟨⟩; rfl
theorem vshl (o : Ops2) : Statement (.vshl o) := by
  rintro v ⟨⟩; rfl
theorem vshr (o : Ops2) : Statement (.vshr o) := by
  rintro v ⟨⟩; rfl
theorem vsra (o : Ops2) : Statement (.vsra o) := by
  rintro v ⟨⟩; rfl
theorem vimin (o : Ops2) : Statement (.vimin o) := by
  rintro v ⟨⟩; rfl
theorem vimax (o : Ops2) : Statement (.vimax o) := by
  rintro v ⟨⟩; rfl
theorem vcvti (o : Ops2) : Statement (.vcvti o) := by
  rintro v ⟨⟩; rfl
theorem vcvtf (o : Ops2) : Statement (.vcvtf o) := by
  rintro v ⟨⟩; rfl
theorem vins (o : Ops2) (sc : Src) : Statement (.vins o sc) := by
  rintro v ⟨⟩; rfl
theorem vext (o : Ops2) : Statement (.vext o) := by
  rintro v ⟨⟩; rfl
theorem vsplat (o : Ops2) : Statement (.vsplat o) := by
  rintro v ⟨⟩; rfl
theorem vclass (o : Ops1) : Statement (.vclass o) := by
  rintro v ⟨⟩; rfl
theorem vrnd (o : Ops2) : Statement (.vrnd o) := by
  rintro v ⟨⟩; rfl
theorem vdot (o : Ops2) : Statement (.vdot o) := by
  rintro v ⟨⟩; rfl
theorem ld (o : Ops2) (x : Xm) : Statement (.ld o x) := by
  rintro v ⟨⟩; rfl
theorem st (o : Ops2) (x : Xm) : Statement (.st o x) := by
  rintro v ⟨⟩; rfl
theorem ldw (o : Ops2) (x : Xm) : Statement (.ldw o x) := by
  rintro v ⟨⟩; rfl
theorem stw (o : Ops2) (x : Xm) : Statement (.stw o x) := by
  rintro v ⟨⟩; rfl
theorem ldg (o : Ops2) (x : Xm) : Statement (.ldg o x) := by
  rintro v ⟨⟩; rfl
theorem sts (o : Ops2) (x : Xm) : Statement (.sts o x) := by
  rintro v ⟨⟩; rfl
theorem aadd (o : Ops2) (x : Xm) : Statement (.aadd o x) := by
  rintro v ⟨⟩; rfl
theorem afadd (o : Ops2) (x : Xm) : Statement (.afadd o x) := by
  rintro v ⟨⟩; rfl
theorem amin (o : Ops2) (x : Xm) : Statement (.amin o x) := by
  rintro v ⟨⟩; rfl
theorem amax (o : Ops2) (x : Xm) : Statement (.amax o x) := by
  rintro v ⟨⟩; rfl
theorem axchg (o : Ops2) (x : Xm) : Statement (.axchg o x) := by
  rintro v ⟨⟩; rfl
theorem acas (o : Ops3) (x : Xm) : Statement (.acas o x) := by
  rintro v ⟨⟩; rfl
theorem aand (o : Ops2) (x : Xm) : Statement (.aand o x) := by
  rintro v ⟨⟩; rfl
theorem aor (o : Ops2) (x : Xm) : Statement (.aor o x) := by
  rintro v ⟨⟩; rfl
theorem fence (o : Ops2) (x : Xm) : Statement (.fence o x) := by
  rintro v ⟨⟩; rfl
theorem halloc (o : Ops2) (x : Xh) : Statement (.halloc o x) := by
  rintro v ⟨⟩; rfl
theorem hfree (o : Ops2) (x : Xh) : Statement (.hfree o x) := by
  rintro v ⟨⟩; rfl
theorem hmap (o : Ops2) (x : Xh) : Statement (.hmap o x) := by
  rintro v ⟨⟩; rfl
theorem hfmt (o : Ops2) (x : Xh) : Statement (.hfmt o x) := by
  rintro v ⟨⟩; rfl
theorem hdesc (o : Ops2) (x : Xh) : Statement (.hdesc o x) := by
  rintro v ⟨⟩; rfl
theorem rpush (o : Ops2) (x : Xh) : Statement (.rpush o x) := by
  rintro v ⟨⟩; rfl
theorem copy (o : Ops2) (x : Xh) : Statement (.copy o x) := by
  rintro v ⟨⟩; rfl
theorem strmi (o : Ops2) (x : Xh) : Statement (.strmi o x) := by
  rintro v ⟨⟩; rfl
theorem strmo (o : Ops2) (x : Xh) : Statement (.strmo o x) := by
  rintro v ⟨⟩; rfl
theorem relm (o : Ops2) (x : Xh) : Statement (.relm o x) := by
  rintro v ⟨⟩; rfl
theorem mrg (o : Ops2) (x : Xh) : Statement (.mrg o x) := by
  rintro v ⟨⟩; rfl
theorem launch (o : Ops2) (x : Xh) : Statement (.launch o x) := by
  rintro v ⟨⟩; rfl
theorem sstep (o : Ops2) (x : Xbar) : Statement (.sstep o x) := by
  rintro v ⟨⟩; rfl
theorem bari (o : Ops2) (x : Xbar) : Statement (.bari o x) := by
  rintro v ⟨⟩; rfl
theorem bar (o : Ops2) (x : Xbar) : Statement (.bar o x) := by
  rintro v ⟨⟩; rfl
theorem bara (o : Ops2) (x : Xbar) : Statement (.bara o x) := by
  rintro v ⟨⟩; rfl
theorem bard (o : Ops2) (x : Xbar) : Statement (.bard o x) := by
  rintro v ⟨⟩; rfl
theorem mldb (o : Ops2) (x : Xx) : Statement (.mldb o x) := by
  rintro v ⟨⟩; rfl
theorem mma (o : Ops2) (x : Xx) : Statement (.mma o x) := by
  rintro v ⟨⟩; rfl
theorem mmas (o : Ops2) (x : Xx) : Statement (.mmas o x) := by
  rintro v ⟨⟩; rfl
theorem mmap (o : Ops2) (x : Xx) : Statement (.mmap o x) := by
  rintro v ⟨⟩; rfl
theorem mzero (o : Ops2) (x : Xx) : Statement (.mzero o x) := by
  rintro v ⟨⟩; rfl
theorem mout (o : Ops2) (x : Xx) : Statement (.mout o x) := by
  rintro v ⟨⟩; rfl
theorem madj (o : Ops2) (x : Xh) : Statement (.madj o x) := by
  rintro v ⟨⟩; rfl
theorem mstat (o : Ops2) (x : Xx) : Statement (.mstat o x) := by
  rintro v ⟨⟩; rfl
theorem cload (o : Ops2) (x : Xs) : Statement (.cload o x) := by
  rintro v ⟨⟩; rfl
theorem cprobe (o : Ops2) (x : Xs) : Statement (.cprobe o x) := by
  rintro v ⟨⟩; rfl
theorem cflush (o : Ops2) (x : Xs) : Statement (.cflush o x) := by
  rintro v ⟨⟩; rfl
theorem cclr (o : Ops2) (x : Xs) : Statement (.cclr o x) := by
  rintro v ⟨⟩; rfl
theorem prun (o : Ops2) (x : Xs) : Statement (.prun o x) := by
  rintro v ⟨⟩; rfl
theorem prunt (o : Ops2) (x : Xs) : Statement (.prunt o x) := by
  rintro v ⟨⟩; rfl
theorem pcnt (o : Ops2) (x : Xs) : Statement (.pcnt o x) := by
  rintro v ⟨⟩; rfl
theorem csrw (o : Ops2) (x : Xs) : Statement (.csrw o x) := by
  rintro v ⟨⟩; rfl
theorem nmx (o : Ops2) (x : Xs) : Statement (.nmx o x) := by
  rintro v ⟨⟩; rfl
theorem gathb (o : Ops2) (x : Xs) : Statement (.gathb o x) := by
  rintro v ⟨⟩; rfl
theorem sysrd (o : Ops2) (x : Xsys) : Statement (.sysrd o x) := by
  rintro v ⟨⟩; rfl
theorem syswr (o : Ops2) (x : Xsys) : Statement (.syswr o x) := by
  rintro v ⟨⟩; rfl
theorem rdtime (o : Ops2) : Statement (.rdtime o) := by
  rintro v ⟨⟩; rfl
theorem rdcoord (o : Ops2) : Statement (.rdcoord o) := by
  rintro v ⟨⟩; rfl
theorem evt (o : Ops2) (x : Xh) : Statement (.evt o x) := by
  rintro v ⟨⟩; rfl
theorem perfrd (o : Ops2) : Statement (.perfrd o) := by
  rintro v ⟨⟩; rfl
theorem kiln (o : Ops2) (x : Xh) : Statement (.kiln o x) := by
  rintro v ⟨⟩; rfl
theorem tokenArrival (m : Nat) : Statement (.tokenArrival m) := by
  rintro v ⟨⟩
theorem flitHop (m : Nat) : Statement (.flitHop m) := by
  rintro v ⟨⟩
theorem pipelineCompletion (p : Pos) (k : Nat) : Statement (.pipelineCompletion p k) := by
  rintro v ⟨⟩
theorem tokenInject (p : Pos) (m : Nat) : Statement (.tokenInject p m) := by
  rintro v ⟨⟩
theorem spill (p : Pos) (k : Nat) : Statement (.spill p k) := by
  rintro v ⟨⟩
theorem cellarLookup (p : Pos) (m : Nat) : Statement (.cellarLookup p m) := by
  rintro v ⟨⟩
theorem frameOperation (m : Nat) : Statement (.frameOperation m) := by
  rintro v ⟨⟩
theorem nextSend (p : Pos) (k : Nat) : Statement (.nextSend p k) := by
  rintro v ⟨⟩
theorem loopnEmission (p : Pos) (k : Nat) : Statement (.loopnEmission p k) := by
  rintro v ⟨⟩
theorem frameGrant (w : Nat) : Statement (.frameGrant w) := by
  rintro v ⟨⟩
theorem frameRelease (w : Nat) : Statement (.frameRelease w) := by
  rintro v ⟨⟩
theorem purgeAcknowledged (m : Nat) : Statement (.purgeAcknowledged m) := by
  rintro v ⟨⟩
theorem parkChange (m : Nat) : Statement (.parkChange m) := by
  rintro v ⟨⟩
theorem fpctlApply (m : Nat) : Statement (.fpctlApply m) := by
  rintro v ⟨⟩
theorem switchDecision (m : Nat) : Statement (.switchDecision m) := by
  rintro v ⟨⟩
theorem unitEmptyReport (r : Nat) (u : Pos) : Statement (.unitEmptyReport r u) := by
  rintro v ⟨⟩
theorem slotChange (r : Nat) : Statement (.slotChange r) := by
  rintro v ⟨⟩
theorem transactionAcquire (q : Nat) : Statement (.transactionAcquire q) := by
  rintro v ⟨⟩
theorem memoryRequest (q : Nat) (j : Nat) : Statement (.memoryRequest q j) := by
  rintro v ⟨⟩
theorem internalCompletion (m : Nat) : Statement (.internalCompletion m) := by
  rintro v ⟨⟩
theorem hbmServe (q : Nat) (j : Nat) : Statement (.hbmServe q j) := by
  rintro v ⟨⟩
theorem refreshDue (c : Nat) (b : Nat) : Statement (.refreshDue c b) := by
  rintro v ⟨⟩
theorem refreshIssue (c : Nat) (b : Nat) : Statement (.refreshIssue c b) := by
  rintro v ⟨⟩
theorem refreshEnd (c : Nat) (b : Nat) : Statement (.refreshEnd c b) := by
  rintro v ⟨⟩
theorem catchUp (c : Nat) : Statement (.catchUp c) := by
  rintro v ⟨⟩
theorem catchUpEnd (c : Nat) : Statement (.catchUpEnd c) := by
  rintro v ⟨⟩
theorem temperatureReading (g : Nat) (t : Int) : Statement (.temperatureReading g t) := by
  rintro v ⟨⟩
theorem pendingMiss (q : Nat) (j : Nat) : Statement (.pendingMiss q j) := by
  rintro v ⟨⟩
theorem walkComplete (k : Nat) : Statement (.walkComplete k) := by
  rintro v ⟨⟩
theorem faultRetry (q : Nat) (j : Nat) : Statement (.faultRetry q j) := by
  rintro v ⟨⟩
theorem transactionTimeout (q : Nat) (j : Nat) : Statement (.transactionTimeout q j) := by
  rintro v ⟨⟩
theorem lateReply (q : Nat) (j : Nat) : Statement (.lateReply q j) := by
  rintro v ⟨⟩
theorem peerRequest (a : PeerAccess) : Statement (.peerRequest a) := by
  rintro v ⟨⟩
theorem hostBar1Access (fn : Nat) (a : HostAccess) : Statement (.hostBar1Access fn a) := by
  rintro v ⟨⟩
theorem ringPush (k : Nat) : Statement (.ringPush k) := by
  rintro v ⟨⟩
theorem copyUnit (p : Pos) (k : Nat) : Statement (.copyUnit p k) := by
  rintro v ⟨⟩
theorem strmiBlock (p : Pos) (k : Nat) : Statement (.strmiBlock p k) := by
  rintro v ⟨⟩
theorem engineCompletion (p : Pos) (k : Nat) : Statement (.engineCompletion p k) := by
  rintro v ⟨⟩
theorem mergeRecord (p : Pos) : Statement (.mergeRecord p) := by
  rintro v ⟨⟩
theorem millRequest (u : Pos) (c : Nat) : Statement (.millRequest u c) := by
  rintro v ⟨⟩
theorem millCoordinate (u : Pos) (c : Nat) : Statement (.millCoordinate u c) := by
  rintro v ⟨⟩
theorem millSlot (u : Pos) (c : Nat) : Statement (.millSlot u c) := by
  rintro v ⟨⟩
theorem sequencerBegin (p : Pos) : Statement (.sequencerBegin p) := by
  rintro v ⟨⟩
theorem chunkLoad (p : Pos) : Statement (.chunkLoad p) := by
  rintro v ⟨⟩
theorem matrixRow (p : Pos) : Statement (.matrixRow p) := by
  rintro v ⟨⟩
theorem adjunctFill (k : Nat) : Statement (.adjunctFill k) := by
  rintro v ⟨⟩
theorem adapterPass (p : Pos) : Statement (.adapterPass p) := by
  rintro v ⟨⟩
theorem commit (p : Pos) : Statement (.commit p) := by
  rintro v ⟨⟩
theorem abandon (p : Pos) : Statement (.abandon p) := by
  rintro v ⟨⟩
theorem plaunch (fn : Nat) (w : Word) : Statement (.plaunch fn w) := by
  rintro v ⟨⟩
theorem launchQueueTake (d : Nat) : Statement (.launchQueueTake d) := by
  rintro v ⟨⟩
theorem counterDecrement (m : Nat) : Statement (.counterDecrement m) := by
  rintro v ⟨⟩
theorem dispatch (d : Nat) (k : Nat) : Statement (.dispatch d k) := by
  rintro v ⟨⟩
theorem wakeComplete (r : Nat) : Statement (.wakeComplete r) := by
  rintro v ⟨⟩
theorem installComplete (r : Nat) : Statement (.installComplete r) := by
  rintro v ⟨⟩
theorem installPreempt (r : Nat) : Statement (.installPreempt r) := by
  rintro v ⟨⟩
theorem instanceComplete (r : Nat) : Statement (.instanceComplete r) := by
  rintro v ⟨⟩
theorem shareReport (m : Nat) : Statement (.shareReport m) := by
  rintro v ⟨⟩
theorem nodeFail (run : Nat) (n : Nat) : Statement (.nodeFail run n) := by
  rintro v ⟨⟩
theorem conditionNode (run : Nat) (n : Nat) : Statement (.conditionNode run n) := by
  rintro v ⟨⟩
theorem whileNode (run : Nat) (n : Nat) : Statement (.whileNode run n) := by
  rintro v ⟨⟩
theorem runEnd (run : Nat) : Statement (.runEnd run) := by
  rintro v ⟨⟩
theorem agingPeriod : Statement (.agingPeriod) := by
  rintro v ⟨⟩
theorem reservation (d : Nat) : Statement (.reservation d) := by
  rintro v ⟨⟩
theorem barrierOperation (m : Nat) : Statement (.barrierOperation m) := by
  rintro v ⟨⟩
theorem barrierWake (m : Nat) : Statement (.barrierWake m) := by
  rintro v ⟨⟩
theorem deadlineExpiry (r : Nat) : Statement (.deadlineExpiry r) := by
  rintro v ⟨⟩
theorem cooperativeSave (r : Nat) : Statement (.cooperativeSave r) := by
  rintro v ⟨⟩
theorem captureBegin (r : Nat) : Statement (.captureBegin r) := by
  rintro v ⟨⟩
theorem saveComplete (r : Nat) : Statement (.saveComplete r) := by
  rintro v ⟨⟩
theorem yrWithdraw (r : Nat) : Statement (.yrWithdraw r) := by
  rintro v ⟨⟩
theorem resume (r : Nat) : Statement (.resume r) := by
  rintro v ⟨⟩
theorem regionError (m : Nat) : Statement (.regionError m) := by
  rintro v ⟨⟩
theorem watchdog (r : Nat) : Statement (.watchdog r) := by
  rintro v ⟨⟩
theorem uncorrectableData (q : BadHolder) (j : Nat) : Statement (.uncorrectableData q j) := by
  rintro v ⟨⟩
theorem abortCompletion (m : Nat) : Statement (.abortCompletion m) := by
  rintro v ⟨⟩
theorem correctedError (u : UnitName) : Statement (.correctedError u) := by
  rintro v ⟨⟩
theorem bucketRotate : Statement (.bucketRotate) := by
  rintro v ⟨⟩
theorem kilnSubmit : Statement (.kilnSubmit) := by
  rintro v ⟨⟩
theorem kilnScanEnd : Statement (.kilnScanEnd) := by
  rintro v ⟨⟩
theorem kilnAbort : Statement (.kilnAbort) := by
  rintro v ⟨⟩
theorem psetup (fn : Nat) (a : PartSetup) : Statement (.psetup fn a) := by
  rintro v ⟨⟩
theorem ginstall (fn : Nat) (im : Word) (tab : Word) (n : Nat) : Statement (.ginstall fn im tab n) := by
  rintro v ⟨⟩
theorem gremove (fn : Nat) (g : Nat) : Statement (.gremove fn g) := by
  rintro v ⟨⟩
theorem tlbinv (fn : Nat) (a : TlbScope) : Statement (.tlbinv fn a) := by
  rintro v ⟨⟩
theorem fanswer (fn : Nat) (fid : Nat) (resume : Bool) : Statement (.fanswer fn fid resume) := by
  rintro v ⟨⟩
theorem kill (fn : Nat) (run : Nat) : Statement (.kill fn run) := by
  rintro v ⟨⟩
theorem elog (fn : Nat) (d : Nat) (base : Nat) (len : Nat) : Statement (.elog fn d base len) := by
  rintro v ⟨⟩
theorem pwr (fn : Nat) (dps : Nat) : Statement (.pwr fn dps) := by
  rintro v ⟨⟩
theorem cgate (fn : Nat) (mask : List Pos) : Statement (.cgate fn mask) := by
  rintro v ⟨⟩
theorem attest (fn : Nat) (nonce : BitVec 256) : Statement (.attest fn nonce) := by
  rintro v ⟨⟩
theorem winset (fn : Nat) (pt : Nat) (w : Nat) (e : Word) : Statement (.winset fn pt w e) := by
  rintro v ⟨⟩
theorem expset (fn : Nat) (i : Nat) (e : Word) : Statement (.expset fn i e) := by
  rintro v ⟨⟩
theorem fabricStopEnd : Statement (.fabricStopEnd) := by
  rintro v ⟨⟩
theorem csramcfgWrite (fn : Nat) (u : Pos) (v : Word) : Statement (.csramcfgWrite fn u v) := by
  rintro v ⟨⟩
theorem obsRingConfig (fn : Nat) (ring : ObsRing) (len : Bool) (v : Word) : Statement (.obsRingConfig fn ring len v) := by
  rintro v ⟨⟩
theorem dropsWrite (fn : Nat) (ring : ObsRing) (v : Word) : Statement (.dropsWrite fn ring v) := by
  rintro v ⟨⟩
theorem smpcfgWrite (fn : Nat) (v : Word) : Statement (.smpcfgWrite fn v) := by
  rintro v ⟨⟩
theorem selectorWrite (fn : Nat) (die : Bool) (i : Nat) (v : Word) : Statement (.selectorWrite fn die i v) := by
  rintro v ⟨⟩
theorem registerWrite (fn : Nat) (a : HostReg) (v : Word) : Statement (.registerWrite fn a v) := by
  rintro v ⟨⟩
theorem sampleTick (fn : Nat) (u : Pos) : Statement (.sampleTick fn u) := by
  rintro v ⟨⟩
theorem recordPerformed (k : Nat) : Statement (.recordPerformed k) := by
  rintro v ⟨⟩
theorem eventCollect (m : Nat) : Statement (.eventCollect m) := by
  rintro v ⟨⟩
theorem thermalClamp (d : Nat) (t : Int) : Statement (.thermalClamp d t) := by
  rintro v ⟨⟩
theorem linkRetrainFail (l : Nat) : Statement (.linkRetrainFail l) := by
  rintro v ⟨⟩
theorem flitRetry (m : Nat) (late : Nat) : Statement (.flitRetry m late) := by
  rintro v ⟨⟩
theorem boot : Statement (.boot) := by
  rintro v ⟨⟩
theorem trainingEnd : Statement (.trainingEnd) := by
  rintro v ⟨⟩
theorem fullService : Statement (.fullService) := by
  rintro v ⟨⟩
theorem handleCopyUpdate (m : Nat) : Statement (.handleCopyUpdate m) := by
  rintro v ⟨⟩
theorem systemRegisterRequest (m : Nat) : Statement (.systemRegisterRequest m) := by
  rintro v ⟨⟩
theorem framePurge (m : Nat) : Statement (.framePurge m) := by
  rintro v ⟨⟩

end Sys2Proof.Laws.ViewBack
end

