-- ==== Sys2Proof/Tests/Slice0.lean ====
section
/-! SUPPORT. Tests: a word of every opcode, written out from the spec's layouts, the words and values the spec prints, ill-formed terms
that the check refuses, and for every statement a state that meets its premises. -/

namespace Sys2Proof.Tests

open Sys2Proof Sys2Proof.Machine

set_option Elab.async false

/-! ## A word of every opcode, written out from the layouts of R35 and R42 to R49 -/

theorem test_decode_flow : [
    decodeWords 0x0130442A 0x00000000,
    decodeWords 0x02104851 0x00000000,
    decodeWords 0x03300078 0x00000000,
    decodeWords 0x0400009F 0x00000000,
    decodeWords 0x053054A6 0x00000000,
    decodeWords 0x060058CD 0x00000000,
    decodeWords 0x07005CF4 0x00000000,
    decodeWords 0x0800611B 0x00000000,
    decodeWords 0x090067FF 0x00000000,
    decodeWords 0x0A106949 0x00000000,
    decodeWords 0x0B0007FF 0x00000000,
    decodeWords 0x0C107197 0x00000000,
    decodeWords 0x0D3075BE 0x00000000,
    decodeWords 0x0E007BFF 0x00000000,
    decodeWords 0x0F307DEC 0x00000000] = [
    .ok (.mov ⟨.exit, .t, .c 1, some 1, some 10⟩),
    .ok (.steer ⟨.next, .t, .c 2, some 2, some 17⟩),
    .ok (.merge ⟨.exit, .t, .t, some 3, some 24⟩),
    .ok (.join ⟨.t, some 4, none⟩),
    .ok (.falloc ⟨.exit, .t, 5, some 5, some 6⟩),
    .ok (.ffree ⟨.t, .c 6, some 6, some 13⟩),
    .ok (.loopn ⟨.t, .c 7, some 7, some 20⟩),
    .ok (.call ⟨.t, 8, some 8, some 27⟩),
    .ok (.ret ⟨.t, .c 9⟩),
    .ok (.yield ⟨.next, .t, .c 10, some 10, some 9⟩),
    .ok (.trap .t),
    .ok (.assert ⟨.next, .t, .c 12, some 12, some 23⟩),
    .ok (.wset ⟨.exit, .t, .c 13, some 13, some 30⟩),
    .ok (.switch ⟨.t, .c 14⟩),
    .ok (.condw ⟨.exit, .t, .c 15, some 15, some 12⟩)] := rfl

theorem test_decode_integer_1 : [
    decodeWords 0x20104023 0x00000000,
    decodeWords 0x2130444A 0x00000000,
    decodeWords 0x22104871 0x00000000,
    decodeWords 0x23304C98 0x00000000,
    decodeWords 0x241050BF 0x00000000,
    decodeWords 0x253054C6 0x00000000,
    decodeWords 0x261058ED 0x00000000,
    decodeWords 0x27305D14 0x00000000,
    decodeWords 0x2810613B 0x00000000,
    decodeWords 0x29306542 0x00000000,
    decodeWords 0x2A106969 0x00000000,
    decodeWords 0x2B306D90 0x00000000,
    decodeWords 0x2C1071B7 0x00000000,
    decodeWords 0x2D3075DE 0x00000000,
    decodeWords 0x2E1079E5 0x00000000,
    decodeWords 0x2F307E0C 0x00000000] = [
    .ok (.add ⟨.next, .t, .c 0, some 1, some 3⟩),
    .ok (.sub ⟨.exit, .t, .c 1, some 2, some 10⟩),
    .ok (.mul ⟨.next, .t, .c 2, some 3, some 17⟩),
    .ok (.mulhs ⟨.exit, .t, .c 3, some 4, some 24⟩),
    .ok (.mulhu ⟨.next, .t, .c 4, some 5, none⟩),
    .ok (.divs ⟨.exit, .t, .c 5, some 6, some 6⟩),
    .ok (.divu ⟨.next, .t, .c 6, some 7, some 13⟩),
    .ok (.rems ⟨.exit, .t, .c 7, some 8, some 20⟩),
    .ok (.remu ⟨.next, .t, .c 8, some 9, some 27⟩),
    .ok (.and ⟨.exit, .t, .c 9, some 10, some 2⟩),
    .ok (.or ⟨.next, .t, .c 10, some 11, some 9⟩),
    .ok (.xor ⟨.exit, .t, .c 11, some 12, some 16⟩),
    .ok (.andn ⟨.next, .t, .c 12, some 13, some 23⟩),
    .ok (.shl ⟨.exit, .t, .c 13, some 14, some 30⟩),
    .ok (.shr ⟨.next, .t, .c 14, some 15, some 5⟩),
    .ok (.sra ⟨.exit, .t, .c 15, some 16, some 12⟩)] := rfl

theorem test_decode_integer_2 : [
    decodeWords 0x30104233 0x00000000,
    decodeWords 0x3130465A 0x00000000,
    decodeWords 0x32104A61 0x00000000,
    decodeWords 0x33304E88 0x00000000,
    decodeWords 0x341052AF 0x00000000,
    decodeWords 0x353056D6 0x00000000,
    decodeWords 0x36105AFD 0x00000000,
    decodeWords 0x37305F04 0x00000000,
    decodeWords 0x3810632B 0x00000000,
    decodeWords 0x39306752 0x00000000,
    decodeWords 0x3A106B79 0x00000000,
    decodeWords 0x3B300780 0x00000000,
    decodeWords 0x3C1007A7 0x00000000,
    decodeWords 0x3D3077CE 0x00000000,
    decodeWords 0x3E107815 0x00000000,
    decodeWords 0x3F307C3C 0x00000000] = [
    .ok (.rol ⟨.next, .t, .c 0, some 17, some 19⟩),
    .ok (.mins ⟨.exit, .t, .c 1, some 18, some 26⟩),
    .ok (.minu ⟨.next, .t, .c 2, some 19, some 1⟩),
    .ok (.maxs ⟨.exit, .t, .c 3, some 20, some 8⟩),
    .ok (.maxu ⟨.next, .t, .c 4, some 21, some 15⟩),
    .ok (.ceq ⟨.exit, .t, .c 5, some 22, some 22⟩),
    .ok (.cne ⟨.next, .t, .c 6, some 23, some 29⟩),
    .ok (.clts ⟨.exit, .t, .c 7, some 24, some 4⟩),
    .ok (.cltu ⟨.next, .t, .c 8, some 25, some 11⟩),
    .ok (.cles ⟨.exit, .t, .c 9, some 26, some 18⟩),
    .ok (.cleu ⟨.next, .t, .c 10, some 27, some 25⟩),
    .ok (.clz ⟨.exit, .t, some 28, some 0⟩),
    .ok (.popc ⟨.next, .t, some 29, some 7⟩),
    .ok (.bfx ⟨.exit, .t, .c 13, some 30, some 14⟩),
    .ok (.sext ⟨.next, .t, .c 14, some 0, some 21⟩),
    .ok (.zext ⟨.exit, .t, .c 15, some 1, some 28⟩)] := rfl

theorem test_decode_float_1 : [
    decodeWords 0x40104043 0x00000000,
    decodeWords 0x4130446A 0x00000000,
    decodeWords 0x42104891 0x00000000,
    decodeWords 0x43304CB5 0x00000000,
    decodeWords 0x441050DF 0x00000000,
    decodeWords 0x453054E6 0x00000000,
    decodeWords 0x4610050D 0x00000000,
    decodeWords 0x47300534 0x00000000,
    decodeWords 0x4810615B 0x00000000,
    decodeWords 0x49306562 0x00000000,
    decodeWords 0x4A106989 0x00000000,
    decodeWords 0x4B306DB0 0x00000000,
    decodeWords 0x4C1005D7 0x00000000,
    decodeWords 0x4D3005FE 0x00000000,
    decodeWords 0x4E100605 0x00000000,
    decodeWords 0x4F30062C 0x00000000] = [
    .ok (.fadd ⟨.next, .t, .c 0, some 2, some 3⟩),
    .ok (.fsub ⟨.exit, .t, .c 1, some 3, some 10⟩),
    .ok (.fmul ⟨.next, .t, .c 2, some 4, some 17⟩),
    .ok (.ffma ⟨.exit, .t, .c 3, .c 5, some 5⟩),
    .ok (.fmin ⟨.next, .t, .c 4, some 6, none⟩),
    .ok (.fmax ⟨.exit, .t, .c 5, some 7, some 6⟩),
    .ok (.fabs ⟨.next, .t, some 8, some 13⟩),
    .ok (.fneg ⟨.exit, .t, some 9, some 20⟩),
    .ok (.fceq ⟨.next, .t, .c 8, some 10, some 27⟩),
    .ok (.fclt ⟨.exit, .t, .c 9, some 11, some 2⟩),
    .ok (.fcle ⟨.next, .t, .c 10, some 12, some 9⟩),
    .ok (.fcun ⟨.exit, .t, .c 11, some 13, some 16⟩),
    .ok (.frsq ⟨.next, .t, some 14, some 23⟩),
    .ok (.frcp ⟨.exit, .t, some 15, some 30⟩),
    .ok (.fexp2 ⟨.next, .t, some 16, some 5⟩),
    .ok (.flog2 ⟨.exit, .t, some 17, some 12⟩)] := rfl

theorem test_decode_float_2 : [
    decodeWords 0x50100653 0x00000000,
    decodeWords 0x5130467A 0x00000000,
    decodeWords 0x52104A81 0x00000000,
    decodeWords 0x53304EA8 0x00000000,
    decodeWords 0x541052CF 0x00000000,
    decodeWords 0x553006F6 0x00000000,
    decodeWords 0x56105B1D 0x00000000,
    decodeWords 0x57305F24 0x00000000] = [
    .ok (.fclass ⟨.next, .t, some 18, some 19⟩),
    .ok (.frnd ⟨.exit, .t, .c 1, some 19, some 26⟩),
    .ok (.fcvti ⟨.next, .t, .c 2, some 20, some 1⟩),
    .ok (.icvtf ⟨.exit, .t, .c 3, some 21, some 8⟩),
    .ok (.fpack ⟨.next, .t, .c 4, some 22, some 15⟩),
    .ok (.fhi ⟨.exit, .t, some 23, some 22⟩),
    .ok (.fscalb ⟨.next, .t, .c 6, some 24, some 29⟩),
    .ok (.fcvt ⟨.exit, .t, .c 7, some 25, some 4⟩)] := rfl

theorem test_decode_vector_1 : [
    decodeWords 0x60104063 0x00000000,
    decodeWords 0x6130448A 0x00000000,
    decodeWords 0x621048B1 0x00000000,
    decodeWords 0x63304CD8 0x90000000,
    decodeWords 0x641050FF 0x00000000,
    decodeWords 0x65305506 0x00000000,
    decodeWords 0x6610052D 0x00000000,
    decodeWords 0x67300554 0x00000000,
    decodeWords 0x6810057B 0x00000000,
    decodeWords 0x69300582 0x00000000,
    decodeWords 0x6A1005A9 0x00000000,
    decodeWords 0x6B3005D0 0x00000000,
    decodeWords 0x6C1071F7 0x00000000,
    decodeWords 0x6D30761E 0x00000000,
    decodeWords 0x6E107A25 0x00000000,
    decodeWords 0x6F307E4C 0x10000000] = [
    .ok (.vadd ⟨.next, .t, .c 0, some 3, some 3⟩),
    .ok (.vsub ⟨.exit, .t, .c 1, some 4, some 10⟩),
    .ok (.vmul ⟨.next, .t, .c 2, some 5, some 17⟩),
    .ok (.vfma ⟨.exit, .t, .c 3, some 6, some 24⟩ (.c 2)),
    .ok (.vmin ⟨.next, .t, .c 4, some 7, none⟩),
    .ok (.vmax ⟨.exit, .t, .c 5, some 8, some 6⟩),
    .ok (.vabs ⟨.next, .t, some 9, some 13⟩),
    .ok (.vneg ⟨.exit, .t, some 10, some 20⟩),
    .ok (.vrcp ⟨.next, .t, some 11, some 27⟩),
    .ok (.vrsq ⟨.exit, .t, some 12, some 2⟩),
    .ok (.vexp2 ⟨.next, .t, some 13, some 9⟩),
    .ok (.vlog2 ⟨.exit, .t, some 14, some 16⟩),
    .ok (.vceq ⟨.next, .t, .c 12, some 15, some 23⟩),
    .ok (.vclt ⟨.exit, .t, .c 13, some 16, some 30⟩),
    .ok (.vcle ⟨.next, .t, .c 14, some 17, some 5⟩),
    .ok (.vsel ⟨.exit, .t, .c 15, some 18, some 12⟩ (.g))] := rfl

theorem test_decode_vector_2 : [
    decodeWords 0x70100673 0x00000000,
    decodeWords 0x7130069A 0x00000000,
    decodeWords 0x72104AA1 0x00000000,
    decodeWords 0x73304EC8 0x00000000,
    decodeWords 0x741052EF 0x00000000,
    decodeWords 0x75305716 0x00000000,
    decodeWords 0x76105B3D 0x00000000,
    decodeWords 0x77305F44 0x00000000,
    decodeWords 0x7810636B 0x00000000,
    decodeWords 0x79306792 0x00000000,
    decodeWords 0x7A106BB9 0x00000000,
    decodeWords 0x7B306FC0 0x00000000,
    decodeWords 0x7C107007 0x00000000,
    decodeWords 0x7D30742E 0x00000000,
    decodeWords 0x7E107855 0x00000000,
    decodeWords 0x7F307C7C 0x00000000] = [
    .ok (.vrsum ⟨.next, .t, some 19, some 19⟩),
    .ok (.vrmax ⟨.exit, .t, some 20, some 26⟩),
    .ok (.vscan ⟨.next, .t, .c 2, some 21, some 1⟩),
    .ok (.vshuf ⟨.exit, .t, .c 3, some 22, some 8⟩),
    .ok (.vbcast ⟨.next, .t, .c 4, some 23, some 15⟩),
    .ok (.viadd ⟨.exit, .t, .c 5, some 24, some 22⟩),
    .ok (.visub ⟨.next, .t, .c 6, some 25, some 29⟩),
    .ok (.vimul ⟨.exit, .t, .c 7, some 26, some 4⟩),
    .ok (.vand ⟨.next, .t, .c 8, some 27, some 11⟩),
    .ok (.vor ⟨.exit, .t, .c 9, some 28, some 18⟩),
    .ok (.vxor ⟨.next, .t, .c 10, some 29, some 25⟩),
    .ok (.vshl ⟨.exit, .t, .c 11, some 30, some 0⟩),
    .ok (.vshr ⟨.next, .t, .c 12, some 0, some 7⟩),
    .ok (.vsra ⟨.exit, .t, .c 13, some 1, some 14⟩),
    .ok (.vimin ⟨.next, .t, .c 14, some 2, some 21⟩),
    .ok (.vimax ⟨.exit, .t, .c 15, some 3, some 28⟩)] := rfl

theorem test_decode_vector_3 : [
    decodeWords 0x80104083 0x00000000,
    decodeWords 0x813044AA 0x00000000,
    decodeWords 0x821048D1 0xF8000000,
    decodeWords 0x83304CF8 0x00000000,
    decodeWords 0x8410511F 0x00000000,
    decodeWords 0x85300526 0x00000000,
    decodeWords 0x8610594D 0x00000000,
    decodeWords 0x87305D74 0x00000000] = [
    .ok (.vcvti ⟨.next, .t, .c 0, some 4, some 3⟩),
    .ok (.vcvtf ⟨.exit, .t, .c 1, some 5, some 10⟩),
    .ok (.vins ⟨.next, .t, .c 2, some 6, some 17⟩ (.c 15)),
    .ok (.vext ⟨.exit, .t, .c 3, some 7, some 24⟩),
    .ok (.vsplat ⟨.next, .t, .c 4, some 8, none⟩),
    .ok (.vclass ⟨.exit, .t, some 9, some 6⟩),
    .ok (.vrnd ⟨.next, .t, .c 6, some 10, some 13⟩),
    .ok (.vdot ⟨.exit, .t, .c 7, some 11, some 20⟩)] := rfl

theorem test_decode_memory : [
    decodeWords 0x90104293 0x074EFFF8,
    decodeWords 0x914047FF 0x0128FFFE,
    decodeWords 0x92104AC1 0x09180040,
    decodeWords 0x93304EE8 0x0A7B0080,
    decodeWords 0x9410530F 0x0B040005,
    decodeWords 0x95305736 0x0C810006,
    decodeWords 0x96105B5D 0x028C0000,
    decodeWords 0x97305F64 0x03A80004,
    decodeWords 0x9810638B 0x04080008,
    decodeWords 0x993067B2 0x052C0010,
    decodeWords 0x9A106BD9 0x06480018,
    decodeWords 0x9B306C11 0x020C0000,
    decodeWords 0x9C107027 0x086C0020,
    decodeWords 0x9D30744E 0xFF887FFF,
    decodeWords 0x9E107875 0x00600000] = [
    .ok (.ld ⟨.next, .t, .c 0, some 20, some 19⟩ ⟨7, .cluster, .b8, true, false, 0xFFF8⟩),
    .ok (.st ⟨.free, .t, .c 1, none, none⟩ ⟨1, .tile, .b4, false, false, 0xFFFE⟩),
    .ok (.ldw ⟨.next, .t, .c 2, some 22, some 1⟩ ⟨9, .none, .b64, false, false, 0x40⟩),
    .ok (.stw ⟨.exit, .t, .c 3, some 23, some 8⟩ ⟨10, .die, .b64, true, true, 0x80⟩),
    .ok (.ldg ⟨.next, .t, .c 4, some 24, some 15⟩ ⟨11, .none, .b2, false, false, 0x5⟩),
    .ok (.sts ⟨.exit, .t, .c 5, some 25, some 22⟩ ⟨12, .package, .b1, false, true, 0x6⟩),
    .ok (.aadd ⟨.next, .t, .c 6, some 26, some 29⟩ ⟨2, .package, .b8, false, false, 0x0⟩),
    .ok (.afadd ⟨.exit, .t, .c 7, some 27, some 4⟩ ⟨3, .system, .b4, false, false, 0x4⟩),
    .ok (.amin ⟨.next, .t, .c 8, some 28, some 11⟩ ⟨4, .none, .b4, false, false, 0x8⟩),
    .ok (.amax ⟨.exit, .t, .c 9, some 29, some 18⟩ ⟨5, .tile, .b8, false, false, 0x10⟩),
    .ok (.axchg ⟨.next, .t, .c 10, some 30, some 25⟩ ⟨6, .cluster, .b4, false, false, 0x18⟩),
    .ok (.acas ⟨.exit, .t, .c 11, .c 1, some 0⟩ ⟨2, .none, .b8, false, false, 0x0⟩),
    .ok (.aand ⟨.next, .t, .c 12, some 1, some 7⟩ ⟨8, .die, .b8, false, false, 0x20⟩),
    .ok (.aor ⟨.exit, .t, .c 13, some 2, some 14⟩ ⟨255, .package, .b4, false, false, 0x7FFF⟩),
    .ok (.fence ⟨.next, .t, .c 14, some 3, some 21⟩ ⟨0, .die, .b1, false, false, 0x0⟩)] := rfl

theorem test_decode_handles : [
    decodeWords 0xA04040A3 0x05000001,
    decodeWords 0xA14044CA 0x06000000,
    decodeWords 0xA24048F1 0x07000000,
    decodeWords 0xA3404D18 0x08090003,
    decodeWords 0xA440513F 0x0A000002,
    decodeWords 0xA5405546 0x0B00000D,
    decodeWords 0xA640596D 0x0C0D8000,
    decodeWords 0xA7405D94 0x0E0F6040,
    decodeWords 0xA84061BB 0x10004800,
    decodeWords 0xA94065C2 0x00006000,
    decodeWords 0xAA0001E9 0x00000006,
    decodeWords 0xAB406E10 0x11000000,
    decodeWords 0xAC007237 0x41800000] = [
    .ok (.halloc ⟨.free, .t, .c 0, some 5, some 3⟩ ⟨5, 0, 0x1⟩),
    .ok (.hfree ⟨.free, .t, .c 1, some 6, some 10⟩ ⟨6, 0, 0x0⟩),
    .ok (.hmap ⟨.free, .t, .c 2, some 7, some 17⟩ ⟨7, 0, 0x0⟩),
    .ok (.hfmt ⟨.free, .t, .c 3, some 8, some 24⟩ ⟨8, 9, 0x3⟩),
    .ok (.hdesc ⟨.free, .t, .c 4, some 9, none⟩ ⟨10, 0, 0x2⟩),
    .ok (.rpush ⟨.free, .t, .c 5, some 10, some 6⟩ ⟨11, 0, 0xD⟩),
    .ok (.copy ⟨.free, .t, .c 6, some 11, some 13⟩ ⟨12, 13, 0x8000⟩),
    .ok (.strmi ⟨.free, .t, .c 7, some 12, some 20⟩ ⟨14, 15, 0x6040⟩),
    .ok (.strmo ⟨.free, .t, .c 8, some 13, some 27⟩ ⟨16, 0, 0x4800⟩),
    .ok (.relm ⟨.free, .t, .c 9, some 14, some 2⟩ ⟨0, 0, 0x6000⟩),
    .ok (.mrg ⟨.keep, .t, .t, some 15, some 9⟩ ⟨0, 0, 0x6⟩),
    .ok (.launch ⟨.free, .t, .c 11, some 16, some 16⟩ ⟨17, 0, 0x0⟩),
    .ok (.sstep ⟨.keep, .t, .c 12, some 17, some 23⟩ ⟨.package, 3⟩)] := rfl

theorem test_decode_barriers : [
    decodeWords 0xB04042B3 0x1F800000,
    decodeWords 0xB10046DA 0x22800000,
    decodeWords 0xB2404AE1 0x47800000,
    decodeWords 0xB3404F08 0x02800000] = [
    .ok (.bari ⟨.free, .t, .c 0, some 21, some 19⟩ ⟨.cluster, 63⟩),
    .ok (.bar ⟨.keep, .t, .c 1, some 22, some 26⟩ ⟨.die, 5⟩),
    .ok (.bara ⟨.free, .t, .c 2, some 23, some 1⟩ ⟨.package, 15⟩),
    .ok (.bard ⟨.free, .t, .c 3, some 24, some 8⟩ ⟨.cluster, 5⟩)] := rfl

theorem test_decode_matrix : [
    decodeWords 0xB80063EB 0x03030040,
    decodeWords 0xB90067D2 0x233341A0,
    decodeWords 0xBA006BF9 0x45672010,
    decodeWords 0xBB006C20 0xF199FF20,
    decodeWords 0xBC0073E7 0x00008080,
    decodeWords 0xBD0077EE 0x00000A00,
    decodeWords 0xBE007895 0x12000001,
    decodeWords 0xBF007FFC 0x00000000] = [
    .ok (.mldb ⟨.keep, .t, .c 8, none, some 11⟩ ⟨0, 3, .fp32, .e4m3, 0, false, false, true, false, false⟩),
    .ok (.mma ⟨.keep, .t, .c 9, some 30, some 18⟩ ⟨2, 3, .e4m3, .e4m3, 32, true, true, false, true, false⟩),
    .ok (.mmas ⟨.keep, .t, .c 10, none, some 25⟩ ⟨4, 5, .i8, .ui8, 16, false, false, false, false, true⟩),
    .ok (.mmap ⟨.keep, .t, .c 11, some 1, some 0⟩ ⟨15, 1, .i4, .i4, 127, true, false, false, true, false⟩),
    .ok (.mzero ⟨.keep, .t, .c 12, none, some 7⟩ ⟨0, 0, .fp32, .fp32, 64, false, true, false, false, false⟩),
    .ok (.mout ⟨.keep, .t, .c 13, none, some 14⟩ ⟨0, 0, .fp32, .fp32, 5, false, false, false, false, false⟩),
    .ok (.madj ⟨.keep, .t, .c 14, some 4, some 21⟩ ⟨18, 0, 0x1⟩),
    .ok (.mstat ⟨.keep, .t, .c 15, none, some 28⟩ ⟨0, 0, .fp32, .fp32, 0, false, false, false, false, false⟩)] := rfl

theorem test_decode_sparse : [
    decodeWords 0xC04040C3 0x00000000,
    decodeWords 0xC14044EA 0x00000001,
    decodeWords 0xC2404911 0x00000000,
    decodeWords 0xC3404D38 0x00000000,
    decodeWords 0xC440515F 0x05018001,
    decodeWords 0xC5405566 0x06020001,
    decodeWords 0xC640598D 0x07030001,
    decodeWords 0xC7405DB4 0x08040033,
    decodeWords 0xC84061DB 0x0905001F,
    decodeWords 0xC94065E2 0x0A06000A] = [
    .ok (.cload ⟨.free, .t, .c 0, some 6, some 3⟩ ⟨0, 0, 0x0⟩),
    .ok (.cprobe ⟨.free, .t, .c 1, some 7, some 10⟩ ⟨0, 0, 0x1⟩),
    .ok (.cflush ⟨.free, .t, .c 2, some 8, some 17⟩ ⟨0, 0, 0x0⟩),
    .ok (.cclr ⟨.free, .t, .c 3, some 9, some 24⟩ ⟨0, 0, 0x0⟩),
    .ok (.prun ⟨.free, .t, .c 4, some 10, none⟩ ⟨5, 1, 0x8001⟩),
    .ok (.prunt ⟨.free, .t, .c 5, some 11, some 6⟩ ⟨6, 2, 0x1⟩),
    .ok (.pcnt ⟨.free, .t, .c 6, some 12, some 13⟩ ⟨7, 3, 0x1⟩),
    .ok (.csrw ⟨.free, .t, .c 7, some 13, some 20⟩ ⟨8, 4, 0x33⟩),
    .ok (.nmx ⟨.free, .t, .c 8, some 14, some 27⟩ ⟨9, 5, 0x1F⟩),
    .ok (.gathb ⟨.free, .t, .c 9, some 15, some 2⟩ ⟨10, 6, 0xA⟩)] := rfl

theorem test_decode_system : [
    decodeWords 0xE04040E3 0x12000000,
    decodeWords 0xE140450A 0x00500000,
    decodeWords 0xE2404931 0x00000000,
    decodeWords 0xE3404D58 0x00000000,
    decodeWords 0xE440517F 0x00000042,
    decodeWords 0xE5405586 0x00000000,
    decodeWords 0xE64005AD 0x00000009] = [
    .ok (.sysrd ⟨.free, .t, .c 0, some 7, some 3⟩ ⟨0x120⟩),
    .ok (.syswr ⟨.free, .t, .c 1, some 8, some 10⟩ ⟨0x5⟩),
    .ok (.rdtime ⟨.free, .t, .c 2, some 9, some 17⟩),
    .ok (.rdcoord ⟨.free, .t, .c 3, some 10, some 24⟩),
    .ok (.evt ⟨.free, .t, .c 4, some 11, none⟩ ⟨0, 0, 0x42⟩),
    .ok (.perfrd ⟨.free, .t, .c 5, some 12, some 6⟩),
    .ok (.kiln ⟨.free, .t, .n, some 13, some 13⟩ ⟨0, 0, 0x9⟩)] := rfl

/-! ## The words the spec prints -/

/-- The four entries of the first assembled example of spec/02, and its FFMA, MMA and BAR. -/
theorem test_words_assembled_examples : [
    decodeWords 0x0100041F 0, decodeWords 0x4200405F 0, decodeWords 0x910003FF 0x0128FFFE, decodeWords 0x43000072 0,
    decodeWords 0xB900041F 0x233341A0] = [
    .ok (.mov ⟨.keep, .t, .n, some 0, none⟩), .ok (.fmul ⟨.keep, .t, .c 0, some 2, none⟩),
    .ok (.st ⟨.keep, .t, .t, none, none⟩ ⟨1, .tile, .b4, false, false, 0xFFFE⟩), .ok (.ffma ⟨.keep, .t, .t, .c 2, some 3⟩),
    .ok (.mma ⟨.keep, .t, .n, some 0, none⟩ ⟨2, 3, .e4m3, .e4m3, 32, true, true, false, true, false⟩)] := rfl

/-- Words printed in spec/06 and spec/07. -/
theorem test_words_scalar_vector : [
    decodeWords 0x25000001 0, decodeWords 0x3B10041F 0, decodeWords 0x43100053 0, decodeWords 0x5000047F 0,
    decodeWords 0x6500401F 0, decodeWords 0x7000043F 0, decodeWords 0x6310001F 0x90000000] = [
    .ok (.divs ⟨.keep, .t, .t, some 0, some 1⟩), .ok (.clz ⟨.next, .t, some 0, none⟩), .ok (.ffma ⟨.next, .t, .t, .c 3, some 2⟩),
    .ok (.fclass ⟨.keep, .t, some 3, none⟩), .ok (.vmax ⟨.keep, .t, .c 0, some 0, none⟩), .ok (.vrsum ⟨.keep, .t, some 1, none⟩),
    .ok (.vfma ⟨.next, .t, .t, some 0, none⟩ (.c 2))] := rfl

/-- Words printed in spec/11. -/
theorem test_words_memory : [
    decodeWords 0x9000041F 0x030C0004, decodeWords 0x9600403F 0x028C0000, decodeWords 0x9B000011 0x020C0000,
    decodeWords 0x9E00045F 0x00600000] = [
    .ok (.ld ⟨.keep, .t, .n, some 0, none⟩ ⟨3, .none, .b8, false, false, 4⟩),
    .ok (.aadd ⟨.keep, .t, .c 0, some 1, none⟩ ⟨2, .package, .b8, false, false, 0⟩),
    .ok (.acas ⟨.keep, .t, .t, .c 1, some 0⟩ ⟨2, .none, .b8, false, false, 0⟩),
    .ok (.fence ⟨.keep, .t, .n, some 2, none⟩ ⟨0, .die, .b1, false, false, 0⟩)] := rfl

/-- Words printed in spec/10, spec/13, spec/14 and spec/17. -/
theorem test_words_others : [
    decodeWords 0xC4000401 0x05010000, decodeWords 0xC00007FF 0, decodeWords 0x0F00401F 0, decodeWords 0xB30007FF 0x02800000,
    decodeWords 0xAC00041F 0x41800000, decodeWords 0xE100041F 0x00400000, decodeWords 0xE000041F 0x00500000,
    decodeWords 0xE200041F 0, decodeWords 0xE400041F 0x00000042] = [
    .ok (.prun ⟨.keep, .t, .n, some 0, some 1⟩ ⟨5, 1, 0⟩), .ok (.cload ⟨.keep, .t, .n, none, none⟩ ⟨0, 0, 0⟩),
    .ok (.condw ⟨.keep, .t, .c 0, some 0, none⟩), .ok (.bard ⟨.keep, .t, .n, none, none⟩ ⟨.cluster, 5⟩),
    .ok (.sstep ⟨.keep, .t, .n, some 0, none⟩ ⟨.package, 3⟩), .ok (.syswr ⟨.keep, .t, .n, some 0, none⟩ ⟨4⟩),
    .ok (.sysrd ⟨.keep, .t, .n, some 0, none⟩ ⟨5⟩), .ok (.rdtime ⟨.keep, .t, .n, some 0, none⟩),
    .ok (.evt ⟨.keep, .t, .n, some 0, none⟩ ⟨0, 0, 0x42⟩)] := rfl

/-- Words the spec says are refused: the MMA with bit 3 set, BAR with 32 at die level, LD with ACK, AADD of 2 bytes, FENCE with SC 0,
SYSWR of RSTAT, an opcode, a source and a tag action that are reserved. -/
theorem test_words_refused : [
    decodeWords 0xB900041F 0x233341A8, decodeWords 0xB100041F 0x30000000, decodeWords 0x9000041F 0x030D0004,
    decodeWords 0x9600403F 0x02840000, decodeWords 0x9E00045F 0, decodeWords 0xE100041F 0x00000000,
    decodeWords 0x58000000 0, decodeWords 0x20018000 0, decodeWords 0x20700000 0] = [
    .error .esel, .error .esel, .error .esel, .error .esel, .error .esel, .error .esel, .error .eopc, .error .esel, .error .eta] := rfl

/-- BAR with 32 at cluster level is accepted: that level has 64 barriers. -/
theorem test_words_cluster_barrier : decodeWords 0xB100041F 0x10000000 = .ok (.bar ⟨.keep, .t, .n, some 0, none⟩ ⟨.cluster, 32⟩) := rfl

/-- The bytes of a long form, lowest address first, and what follows them. -/
theorem test_bytes_long : decodeBytes [0x1F, 0x04, 0x00, 0x90, 0x04, 0x00, 0x0C, 0x03, 0xAA] =
    .ok (.ld ⟨.keep, .t, .n, some 0, none⟩ ⟨3, .none, .b8, false, false, 4⟩, [0xAA]) := rfl

/-- A long form whose extension word is missing. -/
theorem test_bytes_cut : decodeBytes [0x1F, 0x04, 0x00, 0x90] = .error .elong := rfl

/-! ## Well-formedness: one ill-formed term for each check -/

theorem test_wf_class : Instr.check .v (.add ⟨.keep, .t, .n, some 0, none⟩) = some .eclass := by decide
theorem test_wf_select : Instr.check .s (.ld ⟨.keep, .t, .n, some 0, none⟩ ⟨3, .none, .b64, false, false, 4⟩) = some .esel := by decide
theorem test_wf_tag_action : Instr.check .s (.add ⟨.enter, .t, .n, some 0, none⟩) = some .eta := by decide
theorem test_wf_class_tag_action : Instr.check .q (.mov ⟨.next, .t, .n, some 0, none⟩) = some .eta := by decide
theorem test_wf_fires : Instr.check .s (.add ⟨.keep, .c 0, .n, some 0, none⟩) = some .efire := by decide
theorem test_wf_no_word : Instr.check .s (.dispatch 0 0) = some .eopc := by decide
theorem test_wf_good : Instr.check .s (.add ⟨.next, .t, .c 3, some 0, none⟩) = none := by decide

/-! ## One step: values the spec prints -/

/-- A state that has taken up a firing of the words given, with payloads a, b and c. -/
def taken (w x : Word32) (a b c : Wide) : State :=
  let s := fireWords State.reset w x
  { s with cur := s.cur.map fun f => { f with a := a, b := b, c := c } }

/-- What one step leaves to be sent, and its flags. -/
def sent (s : State) : Option (List Nat × Nat) :=
  match s.cur, step s with
  | some f, .next t => some ((elemAt t f.pos).pipe.flatMap fun y => y.outs.map fun o => o.val.toNat,
      ((elemAt t f.pos).pipe.map fun y => y.flags.toNat).foldl (· ||| ·) 0)
  | _, _ => none

/-- A wide operand from its lanes. -/
def wide (l : List (BitVec 32)) : Wide := l.foldr (fun x (w : Wide) => (w <<< 32) ||| x.zeroExtend 512) 0

theorem test_add_wraps : sent (taken 0x2000001F 0 0xFFFFFFFFFFFFFFFF 2 0) = some ([1], 0) := by decide +kernel
theorem test_sub_below_zero : sent (taken 0x2100001F 0 1 2 0) = some ([0xFFFFFFFFFFFFFFFF], 0) := by decide +kernel
theorem test_mulhs_least : sent (taken 0x2300001F 0 0x8000000000000000 0x8000000000000000 0) = some ([0x4000000000000000], 0) := by decide +kernel
theorem test_divs_rounds_to_zero : sent (taken 0x2500001F 0 0xFFFFFFFFFFFFFFF9 2 0) = some ([0xFFFFFFFFFFFFFFFD], 0) := by decide +kernel
theorem test_divs_by_zero : sent (taken 0x2500001F 0 7 0 0) = some ([0xFFFFFFFFFFFFFFFF], 0) := by decide +kernel
theorem test_rems_sign : sent (taken 0x2700001F 0 0xFFFFFFFFFFFFFFF9 2 0) = some ([0xFFFFFFFFFFFFFFFF], 0) := by decide +kernel
theorem test_rems_least : sent (taken 0x2700001F 0 0x8000000000000000 0xFFFFFFFFFFFFFFFF 0) = some ([0], 0) := by decide +kernel
theorem test_shl_by_64 : sent (taken 0x2D00001F 0 5 64 0) = some ([5], 0) := by decide +kernel
theorem test_sra_sign : sent (taken 0x2F00001F 0 0x8000000000000000 63 0) = some ([0xFFFFFFFFFFFFFFFF], 0) := by decide +kernel
theorem test_rol_wraps : sent (taken 0x3000001F 0 0x8000000000000001 1 0) = some ([3], 0) := by decide +kernel
theorem test_clts_signed : sent (taken 0x3700001F 0 0xFFFFFFFFFFFFFFFF 0 0) = some ([1], 0) := by decide +kernel
theorem test_cltu_unsigned : sent (taken 0x3800001F 0 0xFFFFFFFFFFFFFFFF 0 0) = some ([0], 0) := by decide +kernel
theorem test_clz_of_zero : sent (taken 0x3B00041F 0 0 0 0) = some ([64], 0) := by decide +kernel
theorem test_bfx_example : sent (taken 0x3D00001F 0 0xABCD00 0x0C08 0) = some ([0xBCD], 0) := by decide +kernel
theorem test_sext_example : sent (taken 0x3E00001F 0 0xBCD 12 0) = some ([0xFFFFFFFFFFFFFBCD], 0) := by decide +kernel
theorem test_both_destinations : sent (taken 0x20000001 0 1 2 0) = some ([3, 3], 0) := by decide +kernel

/-- Flags as numbers: NX 1, UF 2, OF 4, DZ 8, NV 16 (R129). -/
theorem test_fmul_ties_to_even : sent (taken 0x4200001F 0 0x3F800800 0x3F800800 0) = some ([0x3F801000], 1) := by decide +kernel
theorem test_fadd_cancels : sent (taken 0x4000001F 0 0x3F801000 0xBF801000 0) = some ([0], 0) := by decide +kernel
theorem test_ffma_exact : sent (taken 0x43000000 0 0x3F800800 0x3F800800 0xBF801000) = some ([0x33800000], 0) := by decide +kernel
theorem test_frcp_of_3 : sent (taken 0x4D00041F 0 0x40400000 0 0) = some ([0x3EAAA800], 1) := by decide +kernel
theorem test_frsq_of_2 : sent (taken 0x4C00041F 0 0x40000000 0 0) = some ([0x3F350000], 1) := by decide +kernel
theorem test_frsq_of_minus_0 : sent (taken 0x4C00041F 0 0x80000000 0 0) = some ([0xFF800000], 8) := by decide +kernel
theorem test_flog2_of_minus_1 : sent (taken 0x4F00041F 0 0xBF800000 0 0) = some ([0x7FC00000], 16) := by decide +kernel
theorem test_fexp2_of_128 : sent (taken 0x4E00041F 0 0x43000000 0 0) = some ([0x7F7FF800], 5) := by decide +kernel
theorem test_fcvti_even : sent (taken 0x5200001F 0 0x40200000 0 0) = some ([2], 1) := by decide +kernel
theorem test_fcvti_up : sent (taken 0x5200001F 0 0x40200000 2 0) = some ([3], 1) := by decide +kernel
theorem test_fcvti_unsigned_of_minus_1 : sent (taken 0x5200001F 0 0xBF800000 0x18 0) = some ([0], 16) := by decide +kernel
theorem test_fscalb_subnormal_tie : sent (taken 0x5600001F 0 0x40400000 0xFFFFFFFFFFFFFF6A 0) = some ([2], 3) := by decide +kernel
theorem test_fcvt_dl8 : sent (taken 0x5700001F 0 0x40400000 0x05 0) = some ([0x67], 1) := by decide +kernel
theorem test_fcvt_reserved_format : sent (taken 0x5700001F 0 0x40400000 0x0E 0) = some ([0], 16) := by decide +kernel
theorem test_fclass_signalling : sent (taken 0x5000041F 0 0x7F800001 0 0) = some ([0x100], 0) := by decide +kernel
theorem test_fpack : sent (taken 0x5400001F 0 1 2 0) = some ([0x200000001], 0) := by decide +kernel

/-- The example of R183. -/
def reduced : Wide := wide [0x4B800000, 0, 0x3F800000, 0x3F800000]
theorem test_vrsum_example : sent (taken 0x7000041F 0 reduced 0 0) = some ([0x4B800001], 0) := by decide +kernel
theorem test_vscan_example : (sent (taken 0x7200001F 0 reduced 0 0)).map (fun x => (x.1.map fun v => (v / 2 ^ 64 % 2 ^ 32, v / 2 ^ 96 % 2 ^ 32, v / 2 ^ 480), x.2)) =
    some ([(0x4B800000, 0x4B800001, 0x4B800001)], 1) := by decide +kernel
theorem test_vshuf : sent (taken 0x7300001F 0 (wide [1, 2, 3]) (wide ([2, 0x80000000, 0] ++ List.replicate 13 0x80000000)) 0) =
    some ([3 + 2 ^ 64], 0) := by decide +kernel
theorem test_vext_sign : sent (taken 0x8300001F 0 (wide [1, 0x80000000]) 0x11 0) = some ([0xFFFFFFFF80000000], 0) := by decide +kernel
theorem test_vsel_mask : sent (taken 0x6F00001F 0 (wide [1, 2]) (wide [3, 4]) (wide [0x80000000])) = some ([1 + 4 * 2 ^ 32], 0) := by decide +kernel

/-- MOV and STEER (R84, R85). -/
theorem test_mov : sent (taken 0x0100041F 0 9 0 0) = some ([9], 0) := by decide +kernel
theorem test_steer : sent (taken 0x02000001 0 9 0 0) = some ([9], 0) := by decide +kernel

/-! ## Small states that meet the statements' premises -/

/-- A tile, an access processor of its cluster, and elements of each class. -/
def tile : Pos := ⟨0, 0, 0, 0⟩
def apUnit : Pos := ⟨0, 0, 32, 0⟩
def elS : Pos := ⟨0, 0, 0, 0⟩
def elV : Pos := ⟨0, 0, 0, 16⟩
def elM : Pos := ⟨0, 0, 0, 17⟩
def elQ : Pos := ⟨0, 0, 0, 18⟩
def elA : Pos := ⟨0, 0, 32, 0⟩

/-- An image of two empty configurations. -/
def noConfig : ConfigImage := ⟨[], [], [], [], []⟩
def image : Image := ⟨none, 3, 0, 1, [⟨0, 0, 1, 1⟩], 1, [], [], [], [], [noConfig, noConfig], false⟩

/-- A valid hbm handle of 64 bytes at virtual address 4096. -/
def hbmEntry : HandleEntry := ⟨handleW0 true 2 0 0 false false 0 tile 0 0, 4096, 64, 0⟩

/-- A running region of a tile and an access processor. -/
def region : Region :=
  { id := 1, part := 0, run := 5, graph := 0, node := 0, index := 0, share := 7, shDie := 0, home := 0, level := 3, priv := false,
    kiln := false, image := image, imageVa := 0, param := 0, rects := [(0, ⟨0, 0, 1, 1⟩)], units := [tile, apUnit], mills := [],
    phase := .running, rootFrame := some 2, rootFreed := false, homeClu := tile, reserved := [2], quotas := [], grant := [(tile, 100)],
    acfg := 0, slotMap := [(tile, 0, 0), (tile, 1, 1), (apUnit, 0, 0), (apUnit, 1, 1)], handles := [(3, hbmEntry)], stale := [],
    hwait := [], barMap := [], patMap := [], rgns := [], ssn := 0, res := 0, rbk := 0, rflags := 0, chkaddr := 0, chkBy := (0, 0), ordpos := 0,
    fpctl := 0, fpStale := [], fpOld := [], fpWrites := [], fpflags := 0, fpNew := 0, rfNew := 0, yr := false, rem := 0, yrFor := none, rcyc := 0,
    nr := false, rollbacks := 0, windowHits := [], error := none, more := 0, errTime := 0, wdog := 0, active := false,
    switch := none, switchWait := [], dispatched := 0, reason := none, kept := [] }

/-- A unit of the region, with no words. -/
def unit1 : UnitState := ⟨[CfgSlot.reset, CfgSlot.reset, CfgSlot.reset, CfgSlot.reset], 0, some 1, []⟩

/-- The module up, with that region. -/
def upChip : Chip :=
  { Chip.reset with units := [(tile, unit1), (apUnit, unit1)], regions := [region],
                    power := { Chip.reset.power with dps := 0, full := true, booted := true } }
def up : State := { State.reset with chip := upChip }

/-- A firing at an element, at entry 4 with tag 2·64 + 1 and payloads 8 and 9, and the state that has taken it up. -/
def firing (p : Pos) : Firing := ⟨0, p, 4, 129, 8, 9, 0, 0, 0⟩
def at_ (p : Pos) : State := { up with cur := some (firing p) }


/-- The state with another region in place of the region. -/
def withRegion (s : State) (r : Region) : State := { s with chip := { s.chip with regions := [r] } }

/-- The state with one element changed. -/
def withElem (s : State) (p : Pos) (g : Elem → Elem) : State := after (updElem p g) s

/-! ## Witnesses: what a firing begins -/

theorem witness_SourceSelects : classOf elS ≠ some .v ∧ classOf elV = some .v := by decide
theorem witness_WrappingArithmetic : (at_ elS).cur = some (firing elS) := rfl
theorem witness_Quotients : (at_ elS).cur = some (firing elS) ∧ (elemAt (at_ elS) elS).divBusy ≤ (at_ elS).fc := by decide +kernel

/-- A state whose divider is busy. -/
def dividing : State := withElem (at_ elS) elS fun e => { e with divBusy := 1 }
theorem witness_DividerBusy : dividing.cur = some (firing elS) ∧ dividing.fc < (elemAt dividing elS).divBusy := by decide +kernel
theorem witness_BitwiseAndShifts : (at_ elA).cur = some (firing elA) := rfl
theorem witness_CountsAndFields : (at_ elS).cur = some (firing elS) := rfl
theorem witness_MinMaxCompare : (at_ elS).cur = some (firing elS) := rfl
theorem witness_SignOperations : (at_ elS).cur = some (firing elS) := rfl
theorem witness_Classify : (at_ elS).cur = some (firing elS) := rfl
theorem witness_PackedPairs : (at_ elS).cur = some (firing elS) := rfl
theorem witness_FloatInstructionsComplete : (at_ elS).cur = some (firing elS) := rfl
theorem witness_VectorIntegerLanes : (at_ elV).cur = some (firing elV) := rfl
theorem witness_VectorMoves : (at_ elV).cur = some (firing elV) := rfl
theorem witness_VectorFloatLanes : (at_ elV).cur = some (firing elV) := rfl
theorem witness_VectorReductions : (at_ elV).cur = some (firing elV) := rfl
theorem witness_TokenInstructions : (at_ elV).cur = some (firing elV) := rfl
theorem witness_FrameInstructions : (at_ elS).cur = some (firing elS) ∧
    dstNat (some 0 : Dst) = some (0 : Fin 31).val ∧ dstNat (some 30 : Dst) = some (30 : Fin 31).val := by decide +kernel
theorem witness_LoopBegins : (at_ elS).cur = some (firing elS) ∧ Claims.storeNeed (at_ elS) (firing elS) = .go := by decide +kernel

/-- A set of the store that is full of other entries, the first in a given state. -/
def crowd (st : EntryState) : State := withElem (at_ elS) elS fun e =>
  { e with entries := ((((List.range 256).map fun i => (⟨i, 2, i, 2, 0, false, .resident, i, 0, 0⟩ : StoreEntry)).filter
      (sameSet .s (keyOf .s false 4 3 129))).take 4).zipIdx.map fun x => { x.1 with way := x.2, st := if x.2 = 0 then st else .resident } }
/-- The entry itself, in the cellar. -/
def stored : State := withElem (at_ elS) elS fun e => { e with entries := [⟨9, 2, 4, 3, 0, false, .cellar, 0, 0, 0⟩] }
theorem witness_HeldResultWaits_fill : stored.cur = some (firing elS) ∧ Claims.storeNeed stored (firing elS) = .fill 9 := by decide +kernel
theorem witness_HeldResultWaits_spill : (crowd .resident).cur = some (firing elS) ∧
    (match Claims.storeNeed (crowd .resident) (firing elS) with | .spill _ => true | _ => false) = true := by decide +kernel
theorem witness_HeldResultWaits_wait : (withElem (at_ elS) elS fun e => { e with entries := [⟨9, 2, 4, 3, 0, false, .spilling 5 0, 0, 0, 0⟩] }).cur = some (firing elS) ∧
    Claims.storeNeed (withElem (at_ elS) elS fun e => { e with entries := [⟨9, 2, 4, 3, 0, false, .spilling 5 0, 0, 0, 0⟩] }) (firing elS) = .wait := by decide +kernel
theorem witness_HeldResultWaits_look : Claims.storeNeed (withElem (at_ elS) elS fun e => { e with entries := [⟨9, 2, 21, 3, 0, false, .cellar, 0, 0, 0⟩] }) (firing elS) = .look := by
  decide +kernel

/-- The region with a yield requested. -/
def yielding : State := withRegion (at_ elS) { region with yr := true }
theorem witness_YieldParks : (at_ elS).cur = some (firing elS) ∧ regionOf (at_ elS) elS = some region ∧ region.yr = false := by decide +kernel
theorem witness_YieldParks_parked : yielding.cur = some (firing elS) ∧ regionOf yielding elS = some { region with yr := true } := by decide +kernel
theorem witness_Traps : (at_ elS).cur = some (firing elS) ∧ lowWord (sideA (at_ elS) (firing elS) .n) = 0 ∧
    lowWord (sideA (at_ elS) (firing elS) .t) ≠ 0 := by decide +kernel
theorem witness_SystemRegisterAccess : (at_ elQ).cur = some (firing elQ) ∧ regionOf (at_ elQ) elQ = some region ∧
    ¬ (0x120 ≤ (5 : BitVec 12).toNat) ∧ 0x120 ≤ (0x120 : BitVec 12).toNat ∧ (0x123 : BitVec 12).toNat ≤ 0x123 ∧ region.priv = false := by decide +kernel
theorem witness_TimePlaceCounters : (at_ elS).cur = some (firing elS) ∧ regionOf (at_ elS) elS = some region := by decide +kernel
theorem witness_UserEvent : (at_ elA).cur = some (firing elA) ∧ regionOf (at_ elA) elA = some region := by decide +kernel
theorem witness_BarrierRequests : (at_ elQ).cur = some (firing elQ) := rfl
theorem witness_BarrierWaits : (at_ elQ).cur = some (firing elQ) ∧ Claims.storeNeed (at_ elQ) (firing elQ) = .go := by decide +kernel

/-! ## Witnesses: memory instructions and configurations -/

/-- LD from a handle, by lane 8 or lane 0, and its access. -/
def word4 (h : BitVec 8) : Xm := ⟨h, .tile, .b4, false, false, 0⟩
def loadFrom (h : BitVec 8) (sa : Src) (ta : TagAction) : Instr × Access :=
  (.ld ⟨ta, sa, .n, some 0, none⟩ (word4 h), ⟨0x90, .load false, ta, sa, .n, .n, some 0, none, word4 h⟩)
theorem accesses_load (h : BitVec 8) (sa : Src) (ta : TagAction) : Claims.accesses (loadFrom h sa ta) :=
  .inl ⟨⟨ta, sa, .n, some 0, none⟩, word4 h, .head _⟩
theorem witness_LaneAddresses : (0, 32) ∈ accessLanes (at_ elS) (firing elS) .t (word4 3) false ∧
    (15, 32) ∈ accessLanes (at_ elS) (firing elS) .t (word4 3) true ∧ (15, 0) ∈ accessLanes (at_ elV) (firing elV) .t (word4 3) true := by decide +kernel
theorem witness_MemoryRequestLeaves : Claims.accesses (loadFrom 3 .t .keep) ∧ (at_ elS).cur = some (firing elS) ∧
    regionAt (at_ elS) (regionId (at_ elS) elS) = some region ∧ Claims.roomy (at_ elS) (firing elS) ∧
    Claims.lanesFail (at_ elS) (firing elS) (loadFrom 3 .t .keep).2 = false ∧
    accessLanes (at_ elS) (firing elS) .t (word4 3) false ≠ [] ∧ outTag .keep 0 (firing elS).tag = .known 129 :=
  ⟨accesses_load _ _ _, rfl, by decide +kernel, by unfold Claims.roomy; decide +kernel, by decide +kernel, by decide +kernel, by decide +kernel⟩
theorem witness_MemoryRequestWaitsForTag : Claims.accesses (loadFrom 3 .t .next) ∧ (at_ elS).cur = some (firing elS) ∧
    Claims.roomy (at_ elS) (firing elS) ∧ Claims.lanesFail (at_ elS) (firing elS) (loadFrom 3 .t .next).2 = false ∧
    accessLanes (at_ elS) (firing elS) .t (word4 3) false ≠ [] :=
  ⟨accesses_load _ _ _, rfl, by unfold Claims.roomy; decide +kernel, by decide +kernel, by decide +kernel⟩
theorem witness_MemoryLaneErrors : Claims.accesses (loadFrom 3 (.c 0) .keep) ∧
    (after (updElem elS id) { at_ elS with cur := some { firing elS with a := 16 } }).cur = some { firing elS with a := 16 } ∧
    Claims.lanesFail { at_ elS with cur := some { firing elS with a := 16 } } { firing elS with a := 16 } (loadFrom 3 .t .keep).2 = true :=
  ⟨accesses_load _ _ _, rfl, by decide +kernel⟩

/-- Eight operations of the tile's element that will each make a request. -/
def fullPool : State := withElem (at_ elS) elS fun e =>
  { e with pipe := (List.range 8).map fun i => ⟨i, 0x90, 4, 129, .asked, some 0, [], 0, false, .none, some (firing elS), 0, false⟩ }
theorem witness_MemoryPoolFull : Claims.accesses (loadFrom 3 .t .keep) ∧ fullPool.cur = some (firing elS) ∧
    ¬ Claims.roomy fullPool (firing elS) :=
  ⟨accesses_load _ _ _, by decide +kernel, by unfold Claims.roomy; decide +kernel⟩

theorem witness_Fences : (at_ elS).cur = some (firing elS) := rfl

/-- WSET of side entry 5 of configuration 1, in which the element has code, or of a configuration the image does not hold, or of the active one. -/
def codeS (e : Nat) (ws : List Word32) : ElemCode :=
  { loc := ⟨0, false, 0, 0, e⟩, words := ws, bodies := [], entries := [], routes := [], side := [], filled := [], live := [], vcs := [], params := [] }
def regionW : Region := { region with image := { image with configs := [noConfig, { noConfig with elems := [codeS 0 []] }] } }
def atW : State := withRegion (at_ elS) regionW
theorem witness_TableWrites : atW.cur = some (firing elS) ∧ wsetStatus atW (firing elS) 0 0x8 ≠ 0 ∧
    wsetStatus atW (firing elS) 0 0x57 = 0 ∧ regionOf atW elS = some regionW ∧
    slotFor regionW elS ((0x57 : Word).toNat / 4 % 4) = some 1 := by decide +kernel
theorem witness_ActiveTableRefused : regionOf (at_ elS) elS = some region ∧ classOf elS = some .s ∧
    (configOf region.image ((0x50 : Word).toNat / 4 % 4)).isSome ∧ (0x50 : Word).toNat / 16 < tableLen .s ((0x50 : Word).toNat % 4) ∧
    (0x50 : Word).toNat / 4 % 4 = region.acfg := by decide +kernel
theorem witness_SwitchDecides : (at_ elQ).cur = some (firing elQ) ∧ regionOf (at_ elQ) elQ = some region ∧
    region.image.configs.length ≤ (2 : Word).toNat % 4 ∧ (1 : Word).toNat % 4 < region.image.configs.length := by decide +kernel

/-! ## Witnesses: handles, engines, matrix elements, access processors, launches, the kiln -/

/-- Handles of each kind, and declarations: 5 a spad handle and 6 an hbm handle still to be made, 3 and 12 ones the code may free, 13 fixed. -/
def dense (rows cols : Nat) : HandleEntry := ⟨handleW0 true 2 0 6 false false 0 tile rows cols, 8192, 4096, 0⟩
def csr : HandleEntry := ⟨handleW0 true 2 2 6 false false 0 tile 4 8, 0, 4096, place 7 56 ||| place 8 48 ||| place 9 40⟩
def nm : HandleEntry := ⟨handleW0 true 2 3 6 false false 0 tile 4 64, 0, 4096, place 9 40 ||| place 8 32⟩
def pat : HandleEntry := ⟨handleW0 true 2 4 6 false false 0 tile 4 4, 0, 4096, 0⟩
def decl (n : Nat) (l : HLevel) (dyn : Bool) : HandleDecl := ⟨n, l, .dense, .i8, 4, 8, dyn, none, 0, 0, none, 0, 0, 0, 0, 0, []⟩
def regionH : Region := { region with
  image := { image with configs := [{ noConfig with handles := [decl 3 .hbm true, decl 5 .spad true, decl 6 .hbm true, decl 12 .hbm true, decl 13 .hbm false] }, noConfig] },
  handles := [(3, hbmEntry), (4, csr), (7, dense 1 8), (8, dense 1 8), (9, dense 4 8), (10, nm), (11, dense 4 64), (12, pat)],
  mills := [(tile, 2)] }
def atH (p : Pos) : State := withRegion (at_ p) regionH
theorem region_atH : regionOf (atH elQ) elQ = some regionH ∧ regionOf (atH elA) elA = some regionH := by decide +kernel

theorem witness_HandleChanges_halloc : (atH elQ).cur = some (firing elQ) ∧ declOf regionH 5 = some (decl 5 .spad true) ∧
    (handleHome regionH 5).valid = false ∧ (8 : Word).toNat % 2 ^ 32 ≤ 262144 ∧
    placeStorage (atH elQ) elQ (decl 5 .spad true) 8 = some (0, 2048, 0) := by decide +kernel
theorem witness_HandleChanges_hfree : engUses (atH elQ) regionH 3 = false ∧ declOf regionH 3 = some (decl 3 .hbm true) ∧
    (handleHome regionH 3).valid = true := by decide +kernel
theorem witness_HandleChanges_hmap : declOf regionH 6 = some (decl 6 .hbm true) ∧ (handleHome regionH 6).valid = false ∧
    (8 : Word).toNat < 2 ^ 57 ∧ 0 < (9 : Word).toNat ∧ (9 : Word).toNat < 2 ^ 48 ∧ (8 : Word).toNat + (9 : Word).toNat ≤ 2 ^ 57 := by decide +kernel
theorem witness_HandleChanges_hfmt : engUses (atH elQ) regionH 4 = false ∧ (handleHome regionH 4).valid = true ∧
    (roleKinds 0).contains (handleHome regionH 4).kind = true ∧ (handleHome regionH 7).valid = true ∧
    (handleHome regionH 7).part = (handleHome regionH 4).part ∧ (roleKinds 4).contains (handleHome regionH 12).kind = true ∧
    (8 : Word).toNat < 32 ∧ (8 : Word).toNat < 16 ∧ (decodeFmt? ((8 : Word).extractLsb' 0 4)).isSome := by decide +kernel
theorem witness_HandleRefusals : declOf regionH 3 = some (decl 3 .hbm true) ∧ (handleHome regionH 3).valid = true ∧
    declOf regionH 5 = some (decl 5 .spad true) ∧ (handleHome regionH 5).valid = false ∧ 262144 < (262145 : Word).toNat % 2 ^ 32 ∧
    2 ^ 57 ≤ (2 ^ 57 : Word).toNat ∧ declOf regionH 14 = none ∧ declOf regionH 13 = some (decl 13 .hbm false) ∧
    (handleHome regionH 6).valid = false ∧ engUses (atH elQ) regionH 13 = false := by decide +kernel

/-- Every bank of the tile's scratchpad taken. -/
def spadFull : State := withRegion (at_ elQ)
  { regionH with handles := [(20, ⟨handleW0 true 0 0 6 false false 0 tile 4 8, place 7 8, 262144, 0⟩),
                (21, ⟨handleW0 true 0 0 6 false false 0 tile 4 8, place 128 0 ||| place 6 8, 131072, 0⟩)] }
theorem witness_HandleRefusals_noStorage : placeStorage spadFull elQ (decl 5 .spad true) 8 = none := by decide +kernel

/-- An engine operation, and a Q element with it. -/
def eng (k : EngKind) (id : Nat) : EngOp :=
  { id := id, kind := k, entry := 4, op := 0, tag := 129, out := 129, d0 := some 0, d1 := some 1, rel := false, h1 := 3, h2 := 0, stream := 2,
    a := 0, b := 0, n := 1, next := 0, sent := 0, desc := false, win := 1, ss := none, got := [], open' := [], lastSend := 0 }
def inStream : Stream := ⟨2, true, true, 3, 0, 0, 1, 0, 0, false, 0⟩
def withQ (s : State) (g : QState → QState) : State := after (updQ elQ g) s
def busyQ (k : EngKind) : State := withQ (atH elQ) fun q => { q with engs := [eng k 20], streams := [inStream] }
theorem witness_HandleRefusals_waits : engUses (busyQ .strmi) regionH 3 = true := by decide +kernel
theorem witness_HandleWords : (atH elQ).cur = some (firing elQ) ∧ regionOf (atH elQ) elQ = some regionH := by decide +kernel
theorem witness_EnginesBegin : engFull (atH elQ) elQ = false ∧ (2 ^ 40 : Word).toNat / 2 ^ 40 ≠ 0 ∧ (8 : Word).toNat / 2 ^ 40 = 0 ∧
    streamEng (atH elQ) elQ 2 = none ∧ streamAt (atH elQ) elQ 2 = none ∧ 0 < (9 : Word).toNat % 2 ^ 32 ∧ (0 : Word).toNat % 2 ^ 32 ≤ 0 := by decide +kernel
theorem witness_EnginesBegin_full : engFull (withQ (atH elQ) fun q => { q with engs := (List.range 8).map (eng .copy) }) elQ = true := by decide +kernel
theorem witness_OutputStreams_opens : engFull (atH elQ) elQ = false ∧ streamEng (atH elQ) elQ 2 = none ∧ streamAt (atH elQ) elQ 2 = none ∧
    (0x5000 : BitVec 16).getLsbD 12 = true ∧ 0 < (9 : Word).toNat % 2 ^ 32 := by decide +kernel
theorem witness_OutputStreams_writes : (0x4000 : BitVec 16).getLsbD 12 = false ∧ streamEng (busyQ .strmo) elQ 2 = some (eng .strmo 20) ∧
    (eng .strmo 20).h1 = 3 ∧ (eng .strmo 20).next < (eng .strmo 20).n ∧ engAt (busyQ .strmo) elQ 20 = some (eng .strmo 20) ∧
    engLanes (handleAt regionH elQ 3) 0 64 ≠ [] := by decide +kernel
theorem witness_ReleaseMarks : (busyQ .strmi).cur = some (firing elQ) ∧ regionOf (busyQ .strmi) elQ = some regionH ∧
    streamEng (busyQ .strmi) elQ ((0x4000 : BitVec 16).toNat / 2 ^ 13 % 8) = some (eng .strmi 20) ∧
    streamAt (busyQ .strmi) elQ ((0x4000 : BitVec 16).toNat / 2 ^ 13 % 8) = some inStream := by decide +kernel
theorem witness_MergeRecords : (at_ elQ).cur = some (firing elQ) ∧ (firing elQ).side = 0 ∧ ({ firing elQ with side := 1 } : Firing).side ≠ 0 := by decide +kernel

theorem witness_MatrixQueue : (at_ elM).cur = some (firing elM) ∧ (matAt (at_ elM) elM).queue.length < 4 := by decide +kernel
def matOp (op : Nat) : MatOp := ⟨op, 4, 129, 8, 9, none, some 0, ⟨2, 3, .e4m3, .e4m3, 0, false, false, false, false, false⟩, 0, false, 0, false, false⟩
theorem witness_MatrixQueue_full : 4 ≤ (matAt (after (updMat elM fun q => { q with queue := List.replicate 4 (matOp 0xB9) }) (at_ elM)) elM).queue.length := by decide +kernel

/-- A CAM of one entry, and a full one. -/
def cam1 : State := after (updAp apUnit fun a => { a with cam := [⟨8, 77, false⟩] }) (at_ elA)
theorem witness_CamChanges : cam1.cur = some (firing elA) ∧ (∃ e ∈ (apAt cam1 elA).cam, e.coord = (8 : Word).extractLsb' 0 32) ∧
    ¬ (∃ e ∈ (apAt cam1 elA).cam, e.coord = (9 : Word).extractLsb' 0 32) ∧ (apAt cam1 elA).cam.length < 1024 := by decide +kernel
theorem witness_CamChanges_full : 1024 ≤ (apAt (after (updAp apUnit fun a => { a with cam := List.replicate 1024 ⟨1, 0, false⟩ }) (at_ elA)) elA).cam.length := by
  decide +kernel
theorem witness_CamReads : cam1.cur = some (firing elA) ∧
    (apAt cam1 elA).cam.find? (fun z => z.coord = (8 : Word).extractLsb' 0 32) = some ⟨8, 77, false⟩ ∧
    ∀ e ∈ (apAt cam1 elA).cam, e.coord ≠ (9 : Word).extractLsb' 0 32 := by decide +kernel

theorem witness_RowWalks : (atH elA).cur = some (firing elA) ∧ regionOf (atH elA) elA = some regionH ∧ copyOf (atH elA) elA 4 = csr ∧
    csr.valid = true ∧ csr.kind = 2 ∧ (denseEntry (atH elA) elA csr.ptr).isSome ∧ (denseEntry (atH elA) elA csr.idx).isSome ∧
    denseEntry (atH elA) elA csr.vals = some (dense 4 8) ∧ elemBits (dense 4 8).format < 32 ∧ (3 : Word).toNat < csr.rows ∧ csr.rows ≤ (4 : Word).toNat := by decide +kernel
theorem witness_RowWalks_room : Claims.roomy (atH elA) (firing elA) := by unfold Claims.roomy; decide +kernel
theorem witness_ChunkWalks : copyOf (atH elA) elA 10 = nm ∧ nm.valid = true ∧ nm.kind = 3 ∧ denseEntry (atH elA) elA nm.vals = some (dense 4 8) ∧
    (denseEntry (atH elA) elA nm.metaH).isSome ∧ walkTile (atH elA) elA 0 = some tile ∧ elemBits (dense 4 8).format = 8 ∧
    (3 : Nat) < nm.rows ∧ 0 < nmChunks nm.cols (packCount 8) := by decide +kernel
theorem witness_GatherWalks : copyOf (atH elA) elA 11 = dense 4 64 ∧ denseEntry (atH elA) elA 11 = some (dense 4 64) ∧
    (dense 4 64).cols = 64 ∧ elemBits (dense 4 64).format = 8 ∧ (3 : Nat) < (dense 4 64).rows ∧ (3 : Nat) ≠ 0xFFFFFFFF := by decide +kernel
/-- Eight operations of the access processor that each make a request; and an element that names no handle. -/
def fullWalks : State := withElem (atH elA) elA fun e =>
  { e with pipe := (List.range 8).map fun i => ⟨i, 0x90, 4, 129, .asked, some 0, [], 0, false, .none, some (firing elA), 0, false⟩ }
theorem witness_GatherWalks_full : regionOf fullWalks elA = some regionH ∧ (copyOf (atH elA) elA 20).valid = false ∧
    denseEntry (atH elA) elA 20 = none ∧ walkTile (atH elA) elA 63 = none ∧ 4 ≤ (5 : Word).toNat % 2 ^ 32 := by decide +kernel
def ring0 : Ring := ⟨tile, 0, 3, 64, 4, 0, 0, 0, 0, 0, 0, []⟩
def atR (p : Pos) : State := { atH p with chip := { (atH p).chip with rings := [ring0] } }
theorem witness_MillRequests : (atR elA).cur = some (firing elA) ∧ regionOf (atR elA) elA = some regionH ∧ millContext regionH elA 0 = some 2 ∧
    millContext regionH elA 1 = none ∧ walkTile (atR elA) elA ((0 : Word).toNat % 32) = some tile ∧ ringAt (atR elA) tile 0 = some ring0 := by decide +kernel

theorem witness_Launches : (atH elQ).cur = some (firing elQ) ∧ regionOf (atH elQ) elQ = some regionH ∧ (handleAt regionH elQ 3).valid = true ∧
    (0 : Word).toNat % 64 = 0 ∧ (0 : Word).toNat + 64 ≤ (handleAt regionH elQ 3).ext ∧ (qAt (atH elQ) elQ).launches.length < 4 ∧
    (8 : Word).toNat % 64 ≠ 0 ∧ (handleAt regionH elQ 14).valid = false := by decide +kernel
def launch : LaunchReq := ⟨0, 0, 4, 129, 129, [], false, false, 1, elQ, 3, false⟩
theorem witness_Launches_full : 4 ≤ (qAt (withQ (atH elQ) fun q => { q with launches := List.replicate 4 launch }) elQ).launches.length := by decide +kernel

/-- The region's run, with one graph handle of 64 bytes. -/
def run : Run := ⟨5, 0, 0, 0, 0, 0, none, false, 0, .host 0, [⟨0, 0, .running, false, 1, [1], [0], 0, false, 0, 0⟩], [(9, 4096, 64)], none, 0, 0, false⟩
def atRun : State := { atH elQ with chip := { (atH elQ).chip with runs := [run] } }
theorem witness_ConditionWrites : atRun.cur = some (firing elQ) ∧ regionOf atRun elQ = some regionH ∧ runAt atRun regionH.run = some run ∧
    run.handles.find? (fun y => y.1 = (9 : Word).toNat % 256) = some (9, 4096, 64) ∧ 8 * ((0x709 : Word).toNat / 256 % 2 ^ 24) + 8 ≤ 64 ∧
    64 < 8 * ((0x809 : Word).toNat / 256 % 2 ^ 24) + 8 ∧ run.handles.find? (fun y => y.1 = (8 : Word).toNat % 256) = none := by decide +kernel
theorem witness_ConditionWrites_room : Claims.roomy atRun (firing elQ) := by unfold Claims.roomy; decide +kernel
def engine8 : State := withElem atRun elQ fun e =>
  { e with pipe := (List.range 8).map fun i => ⟨i, 0x92, 4, 129, .asked, some 0, [], 0, false, .none, some (firing elQ), 0, false⟩ }
theorem witness_ConditionWrites_full : ¬ Claims.roomy engine8 (firing elQ) := by unfold Claims.roomy; decide +kernel

/-- A privileged region that is one tile, which is marked faulty. -/
def kilnState (faulty : List Pos) : State :=
  let s := withRegion (at_ elQ) { region with priv := true, units := [tile] }
  { s with chip := { s.chip with faulty := faulty } }
theorem witness_KilnBegins : (kilnState [tile]).cur = some (firing elQ) ∧
    regionOf (kilnState [tile]) elQ = some { region with priv := true, units := [tile] } ∧ unitOf elQ ∈ (kilnState [tile]).chip.faulty ∧
    unitOf elQ ∉ (kilnState []).chip.faulty ∧ region.priv = false := by decide +kernel

/-! ## Witnesses: tokens and frames on their way -/

/-- A message that stands at its destination's switch, and states with messages. -/
def msg (k : Nat) (dst : Pos) (body : Body) : Msg :=
  ⟨k, elS, dst, .control, withRid 0, 0, 0, body, (switchOf dst).1, (switchOf dst).2, 0, .fresh, none, [], none⟩
def withNet (s : State) (l : List Msg) : State := { s with chip := { s.chip with net := l } }

/-- The state with words in the tile's slot 0 for an element: entries 0 to 3 empty, then the words given. -/
def withWords (s : State) (e : Nat) (ws : List Word32) : State :=
  after (updUnit tile fun u => u.setSlot 0 fun c => { c with tables := [{ ElemTables.reset e with words := [0, 0, 0, 0] ++ ws }] }) s

/-- Tokens for sides A and B of entry 4, an ADD of two tokens, and for a side-table entry. -/
def token (instr side : Nat) : Msg :=
  { msg 1 elS .token with net := .data, hdr := withRid (headerOf (routeTo elS instr side 0 false) 0 0 129), pay := 7, res := residues 7 }
def addView : View := ⟨0x20, .keep, .t, .t, none, some 0, none, .short⟩
def adding : State := withWords up 0 [0x2000001F]
def arriving (x : Msg) : State := withNet adding [x]
def halfFull (x : Msg) : State := withElem (arriving x) elS fun e => { e with slots := [⟨4, 1, 129, 9, false, 0, 0⟩] }
theorem witness_TokensTaken_stored : tokenEnabled (arriving (token 4 0)) 1 = true ∧ atElement (arriving (token 4 0)) 1 = some (token 4 0) ∧
    tokenNeed (arriving (token 4 0)) (token 4 0) = .go ∧ arrivalOf (arriving (token 4 0)) (token 4 0) = .operand 4 0 129 addView ∧
    readyBy (arriving (token 4 0)) elS 4 0 129 addView (arrivedValue (arriving (token 4 0)) (token 4 0)) = false := by decide +kernel
theorem witness_TokensTaken_fired : tokenEnabled (halfFull (token 4 0)) 1 = true ∧ atElement (halfFull (token 4 0)) 1 = some (token 4 0) ∧
    tokenNeed (halfFull (token 4 0)) (token 4 0) = .go ∧ arrivalOf (halfFull (token 4 0)) (token 4 0) = .operand 4 0 129 addView ∧
    readyBy (halfFull (token 4 0)) elS 4 0 129 addView (arrivedValue (halfFull (token 4 0)) (token 4 0)) = true := by decide +kernel
/-- The token waits for its entry: another of its set is in the cellar, its own is, or the set is full. -/
def waitsFor (l : List StoreEntry) : State := withElem (arriving (token 4 0)) elS fun e => { e with entries := l }
def others : List StoreEntry := ((((List.range 64).map fun i => (⟨i, 2, i, 2, 0, false, .resident, i, 0, 0⟩ : StoreEntry)).filter
  (sameSet .s (keyOf .s false 4 0 129))).take 4).zipIdx.map fun x => { x.1 with way := x.2 }
theorem witness_TransfersBegin : tokenEnabled (waitsFor [⟨9, 2, 5, 0, 0, false, .cellar, 0, 0, 0⟩]) 1 = true ∧
    atElement (waitsFor [⟨9, 2, 5, 0, 0, false, .cellar, 0, 0, 0⟩]) 1 = some (token 4 0) ∧
    tokenNeed (waitsFor [⟨9, 2, 5, 0, 0, false, .cellar, 0, 0, 0⟩]) (token 4 0) = .look ∧
    tokenEnabled (waitsFor [⟨9, 2, 4, 0, 0, false, .cellar, 0, 0, 0⟩]) 1 = true ∧
    tokenNeed (waitsFor [⟨9, 2, 4, 0, 0, false, .cellar, 0, 0, 0⟩]) (token 4 0) = .fill 9 ∧
    tokenEnabled (waitsFor others) 1 = true ∧ (match tokenNeed (waitsFor others) (token 4 0) with | .spill _ => true | _ => false) = true := by decide +kernel
theorem witness_SetTokensAndMismatches_set : tokenEnabled (arriving (token 5 3)) 1 = true ∧ atElement (arriving (token 5 3)) 1 = some (token 5 3) ∧
    tokenNeed (arriving (token 5 3)) (token 5 3) = .go ∧ arrivalOf (arriving (token 5 3)) (token 5 3) = .set 5 := by decide +kernel
def wrongRes : Msg := { token 4 0 with res := 0 }
def wrongRid : Msg := { token 4 0 with hdr := 1 }
theorem witness_SetTokensAndMismatches_wrong : tokenEnabled (arriving wrongRes) 1 = true ∧ wrongRes.res ≠ residues wrongRes.pay ∧
    tokenNeed (arriving wrongRes) wrongRes = .go ∧ tokenEnabled (arriving wrongRid) 1 = true ∧ ridOk wrongRid.hdr = false := by decide +kernel

/-- A token one tile away. -/
def distant (h : BitVec 72) : Msg := { token 4 0 with hdr := h, col := 1, row := 0 }
theorem witness_MessagesMove : msgAt (arriving (distant (token 4 0).hdr)) 1 = some (distant (token 4 0).hdr) ∧
    hopEnabled (arriving (distant (token 4 0).hdr)) 1 = true ∧ ridOk (distant (token 4 0).hdr).hdr = true ∧ kindOf (token 4 0).hdr < 5 ∧
    crowded (arriving (distant (token 4 0).hdr)) (distant (token 4 0).hdr) = false ∧
    hopEnabled (arriving (distant 1)) 1 = true ∧ ridOk (distant 1).hdr = false := by decide +kernel
theorem witness_MessagesMove_retry : retryFlitEnabled (withNet up [{ token 4 0 with due := 10, link := some 0 }]) 1 64 = true := by decide +kernel

/-- An operation that is complete, and a token in the output buffer. -/
def doneOp : PipeOp := ⟨3, 0x20, 4, 129, .known 129, some 0, bothOuts none none 5 false, 0, false, .none, none, 0, false⟩
def finishing : State := withElem adding elS fun e => { e with pipe := [doneOp], out := [token 4 0] }
theorem witness_ResultsLeave : completionEnabled finishing elS 3 = true ∧ opAt finishing elS 3 = some doneOp ∧ opStep finishing elS doneOp = .send ∧
    doneOp.defer = none ∧ doneOp.streams = false ∧ doneOp.rel = false ∧ injectEnabled finishing elS 1 = true ∧
    (elemAt finishing elS).out.find? (fun y => y.id = 1) = some (token 4 0) := by decide +kernel

def entryAt (st : EntryState) : StoreEntry := ⟨9, 2, 4, 0, 0, false, st, 0, 0, 0⟩
def moving (st : EntryState) : State := withElem adding elS fun e => { e with entries := [entryAt st] }
def looking : State := withNet adding [{ token 4 0 with look := .looking 0 }]
theorem witness_CellarMoves : spillDone (moving (.spilling 0 1)) elS 9 = true ∧ cellarDone (moving (.filling 0)) elS 9 = true ∧
    (elemAt (moving (.filling 0)) elS).entries.find? (fun x => x.id = 9) = some (entryAt (.filling 0)) ∧
    cellarDone looking elS 1 = true ∧ (elemAt looking elS).entries.find? (fun x => x.id = 1) = none := by decide +kernel
def heldOp : PipeOp := { doneOp with wait := .held, due := none }
def holding : State := withElem adding elS fun e => { e with pipe := [heldOp] }
theorem witness_HeldResultsLeave : nextSendEnabled holding elS 3 = true ∧ opAt holding elS 3 = some heldOp ∧
    heldEntry holding elS 4 3 129 = .go ∧ heldOp.defer = none := by decide +kernel
def request (c : Client) (op : ROp) (parts : List Part) : MemReq :=
  { id := 40, p := elS, r := 1, part := 0, entry := 4, op := op, client := c, h := 3, n := 4, parts := parts, b := 8, c := 0, idx := 0,
    scope := .none, str := false, ack := false, acked := false, tag := 129, out := 129, t0 := [], t1 := [], rel := false, fwd := [],
    val := 0, flags := 0, out' := 0, back := 0, doneAt := none, dead := false }
def withReqs (s : State) (l : List MemReq) : State := { s with chip := { s.chip with reqs := l } }
def ending : State := withNet (withReqs adding [request .instr .store []]) [msg 2 elS (.done 40)]
theorem witness_RequestsEnd : doneEnabled ending 2 = true ∧ doneOf ending 2 = some (request .instr .store []) := by decide +kernel

/-- A release of tag 1 of frame 2. -/
def releasing : State := withNet up [msg 2 (frameTable tile) (.frame (.release 2 1))]
theorem witness_FrameOperations : frameOpEnabled releasing 2 = true ∧
    msgAt releasing 2 = some (msg 2 (frameTable tile) (.frame (.release 2 1))) := by decide +kernel
def frame2 (u : List FrameUpd) (s : State) : State := u.foldl (fun s v => after (updFrame 2 v) s) s
theorem witness_FrameOperations_both : (frameAt (frame2 [.take 1] releasing) 2).freem.getLsbD 1 = false ∧
    (frameAt releasing 2).freem.getLsbD 1 = true := by decide +kernel
/-- A NEXT of tag 1 of frame 2, with all its tags free, and with none. -/
def asksTag (s : State) : State := withNet s [msg 2 (frameTable tile) (.frame (.next 2 1 elS 3))]
theorem witness_TagsAsked : frameOpEnabled (asksTag (frame2 [.alloc 0 2 1 0 0 none] up)) 2 = true ∧
    (FrameReq.next 2 1 elS 3).tagFrame = some 2 ∧ tagOpen (frameAt (frame2 [.alloc 0 2 1 0 0 none] up) 2) (.next 2 1 elS 3) = true ∧
    (∀ w ∈ (asksTag (frame2 [.alloc 0 2 1 0 0 none] up)).chip.fwaits, w.q.tagFrame ≠ some 2) ∧
    frameOpEnabled (asksTag (frame2 [.alloc 0 0 1 0 0 none] up)) 2 = true ∧
    tagOpen (frameAt (frame2 [.alloc 0 0 1 0 0 none] up) 2) (.next 2 0 elS 3) = false := by decide +kernel
def loopRec (n i : Nat) : LoopRec := ⟨6, 4, 129, n, i, 5, none, none, some 5, 0, 0⟩
def looping (n i : Nat) : State := withElem (frame2 [.alloc 0 2 1 0 0 none] adding) elS fun e => { e with loops := [loopRec n i] }
def exiting : State := withElem adding elS fun e => { e with loops := [loopRec 3 3] }
theorem witness_LoopEmissions : loopEnabled (looping 3 0) elS 6 = true ∧ loopAt (looping 3 0) elS 6 = some (loopRec 3 0) ∧
    heldEntry (looping 3 0) elS 4 6 129 = .go ∧ loopEnabled (looping 3 2) elS 6 = true ∧ loopEnabled exiting elS 6 = true ∧
    loopAt exiting elS 6 = some (loopRec 3 3) ∧ heldEntry exiting elS 4 6 129 = .go := by decide +kernel

/-- A region with one more frame to give. -/
def granting : State := withRegion
  { up with chip := { up.chip with fwaits := [⟨8, .alloc 1 0 0 129 none elS 3, 0⟩] } }
  { region with reserved := [2, 3], quotas := [⟨0, 0, 0, 2, 1⟩], image := { image with configs := [{ noConfig with frames := [⟨0, 2⟩] }] } }
theorem witness_FramesGrantedAndReleased : frameGrantEnabled granting 8 = true ∧ waitAt granting 8 = some ⟨8, .alloc 1 0 0 129 none elS 3, 0⟩ ∧
    (grantOf granting tile 1 0).isSome ∧ (regionAt granting 1).isSome := by decide +kernel
def freeing : State := { up with chip := { up.chip with fwaits := [⟨8, .free 2 0 none elS 3, 0⟩] } }
theorem witness_FramesGrantedAndReleased_free : frameReleaseEnabled freeing 8 = true ∧ waitAt freeing 8 = some ⟨8, .free 2 0 none elS 3, 0⟩ ∧
    regionOfFrame freeing 2 = some region := by decide +kernel
def purging (left : List Pos) : State :=
  let s := withNet up [msg 2 elS (.purge 2), msg 4 (frameTable tile) (.purgeAck 2 elS)]
  { s with chip := { s.chip with purges := [⟨2, 1, 0, left⟩] } }
theorem witness_FramesPurged : purgeReached (purging [elS]) 2 = true ∧ msgAt (purging [elS]) 2 = some (msg 2 elS (.purge 2)) ∧
    ackReached (purging [elS]) 4 = true ∧ (purging [elS]).chip.purges.find? (fun z => z.f = 2) = some ⟨2, 1, 0, [elS]⟩ ∧
    ackReached (purging [elS, elV]) 4 = true ∧ ∃ q ∈ [elS, elV], q ≠ elS := by decide +kernel
theorem witness_ParkingReaches : parkReached (withNet up [msg 2 elS (.park 2 ⟨true, false, false⟩)]) 2 = true := by decide +kernel

/-! ## Witnesses: control points, barriers, engines at work -/

theorem witness_FpctlReaches : fpctlReached (withNet up [msg 2 elS (.fpctl 1 3)]) 2 = true ∧
    msgAt (withNet up [msg 2 elS (.fpctl 1 3)]) 2 = some (msg 2 elS (.fpctl 1 3)) ∧
    regionOf (withNet up [msg 2 elS (.fpctl 1 3)]) elS = some region ∧ regionAt (withNet up [msg 2 elS (.fpctl 1 3)]) 1 = some region := by decide +kernel

/-- A SYSRD or a SYSWR that waits for its register. -/
def asking (reg : Nat) (w : Option Word) : State :=
  withNet (withElem (withWords up 0 [0xE000001F, 0x00500000]) elS fun e => { e with pipe := [{ doneOp with wait := .reply }] })
    [msg 2 (controlPoint tile) (.sysreg 1 reg w elS 3)]
theorem witness_SystemRegisters : sysEnabled (asking 5 none) 2 = true ∧
    msgAt (asking 5 none) 2 = some (msg 2 (controlPoint tile) (.sysreg 1 5 none elS 3)) ∧ regionAt (asking 5 none) 1 = some region ∧
    opAt (asking 5 none) elS 3 = some { doneOp with wait := .reply } ∧ (entryView (asking 5 none) elS doneOp.entry).isSome ∧
    sysEnabled (asking 5 (some 1)) 2 = true ∧ sysEnabled (asking 1 (some 1)) 2 = true := by decide +kernel

def switching (left : List Pos) : Region := { region with switch := some ⟨1, 6, 0, left, 0⟩ }
def deciding : State := withNet up [msg 2 (controlPoint tile) (.switch 1 1 6 1 elQ 4 129)]
theorem witness_ConfigurationSwitch_decision : decisionEnabled deciding 2 = true ∧
    msgAt deciding 2 = some (msg 2 (controlPoint tile) (.switch 1 1 6 1 elQ 4 129)) ∧ regionAt deciding 1 = some region := by decide +kernel
def later (n : Nat) (s : State) : State := { s with fc := n }
theorem witness_ConfigurationSwitch_empty : emptyEnabled (later 100 (withRegion up (switching [tile]))) 1 tile = true ∧
    regionAt (later 100 (withRegion up (switching [tile]))) 1 = some (switching [tile]) := by decide +kernel
theorem witness_ConfigurationSwitch_slots : slotEnabled (later 4 (withRegion up (switching []))) 1 = true ∧
    slotFor (switching []) tile 1 = some 1 ∧ unitOf tile ∈ (switching []).units ∧ (configOf region.image 1).isSome ∧
    region.rootFrame = some 2 ∧ unitOf ⟨0, 0, 1, 0⟩ ∉ (switching []).units.map unitOf := by decide +kernel
def copying : State := withNet up [msg 2 elS (.handle 1 3 (dense 1 1))]
theorem witness_HandleCopies : copyReached copying 2 = true ∧ msgAt copying 2 = some (msg 2 elS (.handle 1 3 (dense 1 1))) ∧
    regionAt copying 1 = some region := by decide +kernel

/-- A cluster barrier of three, with a number of arrivals, and a request to it. -/
def barrier (arr : Nat) : Barrier := { Barrier.reset .cluster (0, 0) 5 with count := 3, arr := arr }
def barring (arr : Nat) (q : BarOp) : State :=
  let s := withNet up [msg 2 (barrierPlace .cluster elS) (.barrier 1 .cluster 5 q elS 3)]
  { s with chip := { s.chip with barriers := [barrier arr] } }
theorem witness_BarrierOperations : barrierEnabled (barring 0 (.init 3)) 2 = true ∧ (barrier 0).arr = 0 ∧ (barrier 0).closing = [] ∧
    barrierAt (barring 0 (.init 3)) .cluster (barrierHome .cluster elS) (physBarrier region .cluster elS 5) = barrier 0 ∧
    barrierEnabled (barring 1 .await) 2 = true ∧ (barrier 1).arr + 1 < (barrier 1).count ∧
    barrierEnabled (barring 2 .drop) 2 = true ∧ (barrier 2).count ≤ (barrier 2).arr + 1 ∧ regionAt (barring 2 .drop) 1 = some region := by decide +kernel
theorem witness_BarrierOperations_free (r : Nat) : stepBusy (barring 2 .drop) r = false ∧ savingRegion (barring 2 .drop) r = false := by
  by_cases h : r = 1
  · subst h; decide +kernel
  · have h' : ¬ (1 = r) := fun x => h x.symm
    simp [stepBusy, savingRegion, regionAt, barring, withNet, up, upChip, State.reset, Chip.reset, region, h']
def waitingOp : PipeOp := { doneOp with wait := .barrier, due := none }
def waking (step : Option Nat) : State := withNet (withElem up elS fun e => { e with pipe := [waitingOp] }) [msg 2 elS (.wake 1 elS 3 step)]
theorem witness_BarrierWakes : wakeEnabled (waking (some 1)) 2 = true ∧ msgAt (waking (some 1)) 2 = some (msg 2 elS (.wake 1 elS 3 (some 1))) ∧
    regionAt (waking (some 1)) 1 = some region ∧ opAt (waking (some 1)) elS 3 = some waitingOp ∧ wakeEnabled (waking none) 2 = true := by decide +kernel

/-- A push to a ring of the tile's scratchpad. -/
def ringHandle : HandleEntry := ⟨handleW0 true 0 1 0 false false 0 tile 0 0, 0, 256, 0⟩
def push : Push := ⟨6, tile, 0, [5], 7, .op elQ 20 false, elQ, 0⟩
def pushing : State :=
  let s := withRegion up { region with handles := [(3, ringHandle)] }
  { s with chip := { s.chip with rings := [ring0], pushes := [push] } }
theorem witness_RingsTakePushes : pushEnabled pushing 6 = true ∧ pushAt pushing 6 = some push ∧ ringAt pushing tile 0 = some ring0 ∧
    (ringEntry pushing ring0).isSome ∧ MemoryOk pushing := ⟨by decide +kernel, by decide +kernel, by decide +kernel, by decide +kernel, rfl, rfl, rfl⟩
def copied : EngOp := { eng .copy 20 with n := 64, next := 1, got := [(0, 5)] }
def copyState : State := withQ up fun q => { q with engs := [copied] }
theorem witness_CopyGoesOn : copyEnabled copyState elQ 20 = true ∧ engAt copyState elQ 20 = some copied ∧ arrivedReads copyState elQ 20 = [] ∧
    regionOf copyState elQ = some region ∧ lookupKey copied.sent copied.got = some 5 ∧
    engLanes (handleAt region elQ copied.h1) (copied.writeOff copied.sent) (copied.unitLen (copied.unitNo copied.sent)) ≠ [] := by decide +kernel
def streamed : EngOp := { eng .strmi 20 with next := 1, got := [(0, 5)], d0 := none }
def streamState : State := withQ up fun q => { q with engs := [streamed], streams := [inStream] }
theorem witness_StreamsSendBlocks : blockEnabled streamState elQ 20 = true ∧ engAt streamState elQ 20 = some streamed ∧
    arrivedReads streamState elQ 20 = [] ∧ streamed.h2 = 0 ∧ windowRing streamState elQ streamed = none ∧
    streamAt streamState elQ 2 = some inStream ∧ streamed.out ≠ noTag := by decide +kernel
def doneEng (k : EngKind) : State := withQ up fun q => { q with engs := [{ eng k 20 with n := 1, next := 1, sent := 1 }] }
theorem witness_EnginesComplete : engEnabled (doneEng .copy) elQ 20 = true ∧ engEnabled (doneEng .strmi) elQ 20 = true ∧
    engEnabled (doneEng .strmo) elQ 20 = true ∧ engEnabled (doneEng .rpush) elQ 20 = true := by decide +kernel

/-- MRG in UNION at entry 4, with a record at the head of each queue. -/
def rec1 (k : Nat) : Wide × Tag := (ofWord (nat64 (k * 2 ^ 32)), 129)
def merging (a b : List (Wide × Tag)) : State :=
  withQ (withWords up 18 [0xAA00001F, 0x00000001]) fun q => { q with merge := { q.merge with qa := a, qb := b } }
theorem witness_MergeGoesOn : mergeEnabled (merging [rec1 1] [rec1 2]) elQ = true ∧ (mrgEntry (merging [rec1 1] [rec1 2]) elQ).isSome := by decide +kernel
theorem witness_MergeOrder : recEnd (rec1 1).1 = false ∧ (merging [rec1 1] [rec1 1]).chip.qs.all (fun q => !q.2.merge.doneA && !q.2.merge.doneB && !q.2.merge.skip && q.2.merge.na == 0 && q.2.merge.nb == 0) ∧
    (recKey (rec1 1).1).toNat = (recKey (rec1 1).1).toNat ∧ (recKey (rec1 1).1).toNat ≠ (recKey (rec1 2).1).toNat := by decide +kernel

/-! ## Witnesses: memory nodes, banks, translation -/

/-- A partition whose page table maps its lowest addresses to the lowest physical ones, and that table in memory. -/
def setup : PartSetup := ⟨0, [0], 16384, [0], 0, ⟨0, 4⟩, ⟨0, 4⟩, ⟨0, 4⟩, 0, 0, [0], 0⟩
def mapped (s : State) : State :=
  { s with hbm := [(16385, 0x80), (16391, 0x80), (32775, 0xF0)], chip := { s.chip with partitions := [⟨setup, [], [], false⟩] } }
def part (st : PartStage) (pa : Option Nat) : Part := ⟨[(0, 0)], 4096, pa, st, 0, 0, 0, some 0, some 0, 0, some 0, false⟩

/-- A request of four bytes of the hbm handle, or by another unit or of an engine, whose port has validated it. -/
def valid (c : Client) (op : ROp) (l : List Part) : MemReq :=
  { request c op l with level := 2, ent := hbmEntry, home := memoryPort tile }
def memOf (q : MemReq) : State := withReqs (mapped up) [q]
def memState (op : ROp) (st : PartStage) (pa : Option Nat) : State := memOf (valid .instr op [part st pa])

/-- A request of the hbm handle on its way in its message, to its port; one that names no handle, one that is out of range. -/
def sentMsg (dst : Pos) : Msg := { msg 5 dst (.request 40) with net := .request }
def inMsg : MemReq := { valid .instr .store [part .sent none] with ent := HandleEntry.reset }
def sentOf (q : MemReq) : State := withNet (memOf q) [sentMsg (memoryPort tile)]
/-- A store to the bytes that the firing's load names, in the tile's outgoing buffer. -/
def buffered : State := withReqs (at_ elS) [valid .instr .store [{ part .tile none with lanes := [(0, 32)] }]]
theorem witness_LoadServedInBuffer : buffered.cur = some (firing elS) ∧ regionAt buffered (regionId buffered elS) = some region ∧
    Claims.lanesFail buffered (firing elS) (loadFrom 3 .t .keep).2 = false ∧ accessLanes buffered (firing elS) .t (word4 3) false ≠ [] ∧
    Claims.inBuffer buffered (firing elS) (loadFrom 3 .t .keep).2 129 region = true := by decide +kernel
theorem witness_LoadServedInBuffer_room : Claims.roomy buffered (firing elS) := by unfold Claims.roomy; decide +kernel
theorem witness_TransactionsTaken : acquireEnabled (sentOf inMsg) 40 = true ∧ reqAt (sentOf inMsg) 40 = some inMsg ∧ awaitsSlots inMsg = false ∧
    requestMsg (sentOf inMsg) 40 = some (sentMsg (memoryPort tile)) ∧ regionAt (sentOf inMsg) 1 = some region ∧ inMsg.dead = false ∧
    entryServes region inMsg (Claims.entryThere (sentOf inMsg) region inMsg (memoryPort tile)) = true ∧
    (inMsg.parts.any fun p => p.lanes.any fun l => outOfRange hbmEntry 4 l.2) = false := by decide +kernel
def unserved : MemReq := { inMsg with h := 9 }
def farOff : MemReq := { inMsg with parts := [{ part .sent none with lanes := [(0, 62)] }] }
theorem witness_TransactionsTaken_refused : acquireEnabled (sentOf unserved) 40 = true ∧
    entryServes region unserved (Claims.entryThere (sentOf unserved) region unserved (memoryPort tile)) = false ∧
    acquireEnabled (sentOf farOff) 40 = true ∧ (farOff.parts.any fun p => p.lanes.any fun l => outOfRange hbmEntry 4 l.2) = true := by decide +kernel

/-- A translation of the page at 0, to its own address; one that lets nothing be written; a state whose cluster has one. -/
def tlb (leaf : Word) : TlbEntry := ⟨0, 2, 0, leaf, 0⟩
def known (leaf : Word) (s : State) : State := { s with chip := { s.chip with cluTlb := [(cluOf tile, [tlb leaf])] } }
def atPort : MemReq := valid .instr .store [{ part .port none with slot := none, timer := none }]
theorem witness_TransactionsTaken_slots : acquireEnabled (memOf atPort) 40 = true ∧ awaitsSlots atPort = true ∧
    takeSlots (memOf atPort) elS 1 = some [0] ∧
    (∀ p ∈ atPort.parts, tlbFind (cluTlbAt (memOf atPort) elS) 0 p.va = none ∧ tlbFind (dieTlbAt (memOf atPort) 0) 0 p.va = none) ∧
    (tlbFind (cluTlbAt (known 0xF000000000000000 (memOf atPort)) elS) 0 4096) = some (tlb 0xF000000000000000) ∧
    permitted (memOf atPort) atPort 2 0xF000000000000000 4096 = true ∧ permitted (memOf atPort) atPort 2 0xC000000000000000 4096 = false ∧
    regionAt (memOf atPort) 1 = some region := by decide +kernel

def onChip : MemReq := { request .instr .store [part .sent none] with home := memoryPort tile, level := 1 }
def cluEntry : HandleEntry := ⟨handleW0 true 1 0 0 false false 0 tile 0 0, 0, 65536, 0⟩
def homeState (h : Nat) : State := withRegion (sentOf { onChip with h := h }) { region with handles := [(3, cluEntry)] }
theorem witness_RequestsPass : performEnabled (homeState 3) 40 0 = true ∧ partAtReq (homeState 3) 40 0 = some (onChip, part .sent none) ∧
    requestMsg (homeState 3) 40 = some (sentMsg (memoryPort tile)) ∧
    entryServes { region with handles := [(3, cluEntry)] } onChip
      (Claims.entryThere (homeState 3) { region with handles := [(3, cluEntry)] } onChip (memoryPort tile)) = true ∧
    performEnabled (homeState 9) 40 0 = true ∧
    entryServes { region with handles := [(3, cluEntry)] } { onChip with h := 9 }
      (Claims.entryThere (homeState 9) { region with handles := [(3, cluEntry)] } { onChip with h := 9 } (memoryPort tile)) = false ∧
    performEnabled (memState .store .hub (some 4096)) 40 0 = true := by decide +kernel
def lastBack (c : Client) (op : ROp) : MemReq := { valid c op [part .returning (some 4096)] with t0 := [routeTo elS 4 0 0 false] }
theorem witness_RequestsPass_back : performEnabled (memOf (lastBack .instr (.load false))) 40 0 = true ∧
    partAtReq (memOf (lastBack .instr (.load false))) 40 0 = some (lastBack .instr (.load false), part .returning (some 4096)) ∧
    (lastBack .instr (.load false)).silent = false ∧ (lastBack .instr (.load false)).acked = false ∧
    ((lastBack .instr (.load false)).parts.mapIdx fun i y => decide (i = 0) || y.st == .performed).all id = true ∧
    (([part .returning (some 4096), part .hub none].mapIdx fun i y => decide (i = 0) || y.st == .performed).all id) = false := by decide +kernel

/-- A walk that has read one entry, and is back with another. -/
def walking (level : Nat) (got : Option Word) : Miss := ⟨60, 0, 0, 4096, [(40, 0)], true, false, level, 16384, got⟩
def walkBack : State :=
  let s := memOf { lastBack (.walker 60) (.load false) with val := 0x8000000000008000 }
  { s with chip := { s.chip with misses := [walking 3 none] } }
def peerReq : PeerAccess := ⟨7, 2, 0, 4096, .read 8⟩
theorem witness_RequestsReturn : performEnabled walkBack 40 0 = true ∧ missAt walkBack 60 = some (walking 3 none) ∧
    entryEnd 3 0x8000000000008000 = none ∧ entryEnd 3 0 ≠ none ∧ (lastBack (.walker 60) (.load false)).dead = false ∧
    performEnabled (memOf (lastBack (.host 1 0) .engRead)) 40 0 = true ∧ performEnabled (memOf (lastBack (.host 1 0) .engWrite)) 40 0 = true ∧
    performEnabled (memOf (lastBack (.peer 3) .engRead)) 40 0 = true ∧ performEnabled (memOf (lastBack (.walk elA 3) (.load false))) 40 0 = true ∧
    performEnabled (memOf (lastBack (.eng elQ 20 0) .engRead)) 40 0 = true ∧
    performEnabled (memOf { lastBack .instr .store with dead := true }) 40 0 = true := by decide +kernel

theorem witness_ControllersPerform : performEnabled (memState .store .serving (some 4096)) 40 0 = true ∧
    partAtReq (memState .store .serving (some 4096)) 40 0 = some (valid .instr .store [part .serving (some 4096)], part .serving (some 4096)) ∧
    partBad (memState .store .serving (some 4096)) (valid .instr .store [part .serving (some 4096)]) (part .serving (some 4096)) = false ∧
    performEnabled (memState (.load false) .serving (some 4096)) 40 0 = true ∧
    performEnabled (memState (.atomic .add) .serving (some 4096)) 40 0 = true := by decide +kernel
theorem witness_ControllersPerform_block : Claims.inBlock (valid .instr .store [part .serving (some 4096)]) (part .serving (some 4096)) ∧
    MemoryOk (memState .store .serving (some 4096)) := by unfold Claims.inBlock; exact ⟨by decide, by decide, rfl, rfl⟩

/-- A store to a clu handle at its bank, one line of which is, or is not, the partition's. -/
def atBank (op : ROp) : MemReq := { onChip with op := op, parts := [part .bank none], ent := cluEntry }
def sramState (op : ROp) : State := withRegion (memOf (atBank op)) { region with handles := [(3, cluEntry)] }
theorem witness_ClustersPerform : performEnabled (sramState .store) 40 0 = true ∧
    partAtReq (sramState .store) 40 0 = some (atBank .store, part .bank none) ∧ (atBank .store).level < 2 ∧
    partBad (sramState .store) (atBank .store) (part .bank none) = false ∧ MemoryOk (sramState .store) ∧
    performEnabled (sramState (.load false)) 40 0 = true ∧ performEnabled (sramState (.atomic .add)) 40 0 = true ∧
    (hubDie (atBank .store)).isSome ∧ wholeRead (atBank .store).client = false :=
  ⟨by decide +kernel, by decide +kernel, by decide, by decide +kernel, ⟨by decide, rfl, rfl⟩, by decide +kernel, by decide +kernel, by decide +kernel, by decide⟩
theorem chip_lane (i : Nat) (h : 32 * i < 4) : i = 0 := by omega
theorem witness_ClustersPerform_lines : ∀ l ∈ (part .bank none).lanes, Claims.inLines (atBank .store) l := by
  intro l hl
  obtain rfl : l = (0, 0) := by simpa [part] using hl
  refine ⟨fun i h => ?_, fun i j h h' _ => ?_⟩
  · obtain rfl := chip_lane i h; decide +kernel
  · rw [chip_lane i h, chip_lane j h']
theorem witness_BanksServe : serveEnabled (memState .store .queued (some 4096)) 40 0 = true ∧
    partAtReq (memState .store .queued (some 4096)) 40 0 = some (valid .instr .store [part .queued (some 4096)], part .queued (some 4096)) := by decide +kernel

/-- A controller with one bank and its catch-up as given. -/
def ctrlState (b : Bank) (due : Bool) (ends : Option Nat) : State :=
  later 400 { up with chip := { up.chip with ctrls := [{ Ctrl.reset 5 with banks := [(15, b)], catchDue := due, catchEnd := ends }] } }
theorem witness_Refreshes : refreshDueEnabled (ctrlState { Bank.reset with nextDue := some 0, owed := 8 } false none) 5 15 = true ∧
    refreshDueEnabled (ctrlState { Bank.reset with nextDue := some 0, owed := 7 } false none) 5 15 = true ∧
    refreshIssueEnabled (ctrlState { Bank.reset with owed := 1 } false none) 5 15 = true ∧
    refreshEndEnabled (ctrlState { Bank.reset with refEnd := some 0 } false none) 5 15 = true ∧
    catchUpEnabled (ctrlState { Bank.reset with owed := 9 } true none) 5 = true ∧
    catchUpEndEnabled (ctrlState { Bank.reset with owed := 9 } true (some 0)) 5 = true := by decide +kernel

/-- A part with no translation, and a walk that has read its last entry: a leaf, an absent one, a malformed one. -/
theorem witness_MissesWalk : missEnabled (memState .store .hub none) 40 0 = true ∧
    partAtReq (memState .store .hub none) 40 0 = some (valid .instr .store [part .hub none], part .hub none) ∧
    missFor (memState .store .hub none) (valid .instr .store [part .hub none]) (part .hub none) = none ∧
    walksOn (memState .store .hub none) 0 < 64 ∧ missAt (memState .store .hub none) (memState .store .hub none).nextId = none := by decide +kernel
def missing : Part := { part .miss none with timer := none }
def walked (level : Nat) (e : Word) : State :=
  let s := memOf (valid .instr .store [missing])
  { s with chip := { s.chip with misses := [walking level (some e)] } }
theorem witness_WalksEnd : walkEnabled (walked 2 0xF000000000000000) 60 = true ∧
    missAt (walked 2 0xF000000000000000) 60 = some (walking 2 (some 0xF000000000000000)) ∧
    partAtReq (walked 2 0xF000000000000000) 40 0 = some (valid .instr .store [missing], missing) ∧
    entryEnd 2 0xF000000000000000 = some (.leaf 2 0xF000000000000000) ∧
    permitted (walked 2 0xF000000000000000) (valid .instr .store [missing]) 2 0xF000000000000000 4096 = true ∧
    permitted (walked 2 0xC000000000000000) (valid .instr .store [missing]) 2 0xC000000000000000 4096 = false ∧
    entryEnd 2 0 = some (.absent 2) ∧ entryEnd 2 0x8000000000000001 = some .malformed ∧ regionAt (walked 2 0) 1 = some region := by decide +kernel
theorem witness_WalksEnd_absent : (frameAt (walked 2 0) (frameOf 129)).pfc < 63 ∧ faultQueueFull (walked 2 0) 0 = false ∧
    63 ≤ (frameAt (frame2 (List.replicate 63 (.pfc true)) (walked 2 0)) (frameOf 129)).pfc ∧
    faultQueueFull { walked 2 0 with chip := { (walked 2 0).chip with partitions := [⟨{ setup with faultQ := ⟨0, 0⟩ }, [], [], false⟩] } } 0 = true :=
  by decide +kernel
theorem witness_WalksEnd_client : ∀ a b, (valid .instr .store [missing]).client ≠ .fill a b := fun _ _ h => by cases h
theorem witness_HeldFaultsRetry : retryEnabled (memState .store (.held none) none) 40 0 = true ∧
    retryEnabled (memState .store (.held (some (2, 5))) none) 40 0 = true ∧
    partAtReq (memState .store (.held (some (2, 5))) none) 40 0 = some (valid .instr .store [part (.held (some (2, 5))) none], part (.held (some (2, 5))) none) ∧
    tlbFind (cluTlbAt (memState .store (.held none) none) elS) 0 4096 = none ∧ tlbFind (dieTlbAt (memState .store (.held none) none) 0) 0 4096 = none ∧
    retryEnabled (known 0xF000000000000000 (memState .store (.held none) none)) 40 0 = true := by decide +kernel
theorem witness_LostTransactions : timeoutEnabled (later (2 ^ 26) (memState .store .queued (some 4096))) 40 0 = true ∧
    regionAt (memState .store .queued (some 4096)) 1 = some region ∧
    uncorrectableEnabled (memState (.load false) .serving (some 4096)) (.access 40 0) = true ∧
    foundCell (memState (.load false) .serving (some 4096)) (valid .instr (.load false) [part .serving (some 4096)]) (part .serving (some 4096)) = some (.block 64) := by
  decide +kernel
def lateState : State :=
  let s := withReqs up [request .instr .store [part .queued (some 4096)], { request .instr .store [part .performed (some 4096)] with id := 41 }]
  { s with chip := { s.chip with lostSlots := [(cluOf tile, 0, 41, 0)] } }
theorem witness_LostTransactions_late : lateEnabled lateState 41 0 = true ∧ (partAtReq lateState 41 0).isSome := by decide +kernel

/-! ## Witnesses: the mill and the matrix elements -/

/-- The region with a mill program of 4 by 4, printed in R437, under number 0, and a request to context 2. -/
def program0 : List Word32 := [4, 4, 0x10000001, 0x20008001, 0x70000000, 0]
def regionP : Region := { regionH with patMap := [(0, tile, 0)], handles := [(0, dense 1 8), (5, dense 1 8), (12, pat), (13, { pat with w0 := handleW0 true 2 4 6 false false 0 tile 8 4 })] }
def millReq (kind : MillKind) (h index : Nat) : MillReq := ⟨kind, 2, h, index, elA, 4, 129, 129, 3⟩
def milling (q : MillReq) (ctx : MillCtx) : State :=
  let s := withRegion (withNet up [msg 2 (millUnit elA) (.mill q)]) regionP
  withElem { s with chip := { s.chip with patterns := [(tile, [(0, 6, program0)])], mills := [(tile, [(2, ctx)])] } } elA
    fun e => { e with pipe := [{ doneOp with wait := .reply }] }
def readProgram : Pat := (readPattern program0).getD (.perm 0 0)
theorem witness_MillContexts_taken : millReqEnabled (milling (millReq (.row false) 12 1) MillCtx.reset) elA 2 = true ∧
    nextMillReq (milling (millReq (.row false) 12 1) MillCtx.reset) elA 2 =
      some (msg 2 (millUnit elA) (.mill (millReq (.row false) 12 1)), millReq (.row false) 12 1) ∧
    regionOf (milling (millReq (.row false) 12 1) MillCtx.reset) elA = some regionP ∧
    findPattern (milling (millReq (.row false) 12 1) MillCtx.reset) regionP elA elA 12 false = .pattern readProgram 0 6 := by decide +kernel
theorem witness_MillContexts_error :
    nextMillReq (milling (millReq (.row false) 13 1) MillCtx.reset) elA 2 =
      some (msg 2 (millUnit elA) (.mill (millReq (.row false) 13 1)), millReq (.row false) 13 1) ∧
    findPattern (milling (millReq (.row false) 13 1) MillCtx.reset) regionP elA elA 13 false = .error codeEpatdef := by decide +kernel
def walkingCtx (l : List (Nat × Nat)) : MillCtx := { MillCtx.reset with busy := true, reqs := [millReq (.row false) 12 1], coords := l }
theorem witness_MillContexts_coordinates (l : List (Nat × Nat)) (h : l = [] ∨ l = [(1, 3)]) :
    coordEnabled (milling (millReq (.row false) 12 1) (walkingCtx l)) elA 2 = true ∧
    walkingAt (milling (millReq (.row false) 12 1) (walkingCtx l)) elA 2 = some (millReq (.row false) 12 1) ∧
    opTag (milling (millReq (.row false) 12 1) (walkingCtx l)) elA 3 = some 129 := by
  rcases h with rfl | rfl <;> decide +kernel
def expandReq : MillReq := millReq (.expand 0 1 false false) 12 96
def expandCtx : MillCtx := { MillCtx.reset with bound := some (12, unitOf elA, 0, 0), busy := true, reqs := [expandReq], values := [] }
theorem witness_MillSlots : slotReady (milling expandReq expandCtx) elA 2 = true ∧
    (expandingAt (milling expandReq expandCtx) elA 2).isSome ∧ (expandingAt (milling expandReq expandCtx) elA 2).all (fun x => x.slots ≠ 1) := by decide +kernel

/-- An MMA of one row of I8 by I8, and rings that hold what it reads. -/
def mmaOp (op : Nat) (a : Word) : MatOp := ⟨op, 4, 129, a, 0, none, none, ⟨0, 1, .i8, .i8, 5, false, false, false, false, false⟩, 3, false, 30, false, false⟩
def matRun (ph : MatPhase) : MatRun := ⟨ph, 0, 0, 0, [], [], 0, 0, 0, 0, 0, 0, 0, 0, false⟩
def fullRing (q : Nat) : Ring := ⟨tile, q, 3, 64, 64, 48, 0, 48, 0, 0, 0, []⟩
def matrix (m : MatState) : State :=
  let s := withRegion up { region with handles := [(3, { ringHandle with w2 := 4096 })] }
  { s with chip := { s.chip with mats := [(elM, m)], rings := [fullRing 0, fullRing 1] } }
def queued (op : Nat) : MatState := { MatState.reset with queue := [mmaOp op 0] }
def running (op : Nat) (ph : MatPhase) : MatState := { queued op with run := some (matRun ph) }
theorem witness_MatrixBegins : beginEnabled (matrix (queued opMma)) elM = true ∧ (matAt (matrix (queued opMma)) elM).queue = [mmaOp opMma 0] ∧
    beginFault (matrix (queued opMma)) elM (mmaOp opMma 0) = false ∧ (regionOf (matrix (queued opMma)) elM).isSome ∧
    beginFault (matrix { MatState.reset with queue := [mmaOp opMma 0x1000000] }) elM (mmaOp opMma 0x1000000) = true ∧
    beginEnabled (matrix { MatState.reset with queue := [mmaOp opMma 0x1000000] }) elM = true := by decide +kernel
theorem witness_MatrixBegins_load : loadEnabled (matrix (running opMma .load)) elM = true ∧
    matRunning (matrix (running opMma .load)) elM = some (mmaOp opMma 0, matRun .load) ∧
    ringB (matrix (running opMma .load)) elM (mmaOp opMma 0) = some (fullRing 1) := by decide +kernel
def adapterHeader : List Byte := [0, 0, 0, 0, 1] ++ List.replicate 27 0
def adapted : MatState := { running opMma .adapters with
  run := some { matRun .adapters with adapters := [⟨0, adapterHeader, []⟩] } }
theorem witness_MatrixRows : rowEnabled (matrix (running opMma .rows)) elM = true ∧
    matRunning (matrix (running opMma .rows)) elM = some (mmaOp opMma 0, matRun .rows) ∧
    ringA (matrix (running opMma .rows)) elM (mmaOp opMma 0) = some (fullRing 0) ∧ passEnabled (matrix adapted) elM = true ∧
    (readAdapter adapterHeader).isSome := by decide +kernel
/-- The rings' lines hold errors. -/
def spoilt (ph : MatPhase) : State :=
  let s := matrix (running opMma ph)
  { s with chip := { s.chip with bad := (List.range 30).map .spadLine } }
theorem witness_BadSlotsAbort : matRunning (spoilt .load) elM = some (mmaOp opMma 0, matRun .load) ∧ (matrixSlot (spoilt .load) elM).isSome ∧
    badSlot (spoilt .load) elM = true ∧ injects (spoilt .load) elM = true ∧ (regionOf (spoilt .load) tile).isSome ∧
    (ringB (spoilt .load) elM (mmaOp opMma 0)).isSome ∧ (ringA (spoilt .load) elM (mmaOp opMma 0)).isSome ∧ loadEnabled (spoilt .load) elM = true ∧
    badSlot (spoilt .rows) elM = true ∧ rowEnabled (spoilt .rows) elM = true := by decide +kernel
def fillRec : AdjFill := ⟨50, 0, 0, 0, 3, .entry 2, 1, elM, 129, [], [], true⟩
def filling : State := { up with chip := { up.chip with fills := [fillRec] } }
theorem witness_AdjunctFills : fillEnabled filling 50 = true ∧ fillAt filling 50 = some fillRec ∧ waitingRows filling 50 = [] ∧
    fillBroken filling fillRec = false ∧ blocksFor (fillBytes filling 50 fillRec.left.length).length ≤ adjunctBlocks filling (cluster 0 0) := by decide +kernel
def working : MatState := { running opMma .drain with work := [(5, [1])] }
theorem witness_MatrixCommits : commitEnabled (matrix working) elM = true ∧ matRunning (matrix working) elM = some (mmaOp opMma 0, matRun .drain) ∧
    (mmaOp opMma 0).multiplies = true ∧ (5, [1]) ∈ (matAt (matrix working) elM).work ∧ ringAt (matrix working) elM 0 = some (fullRing 0) ∧
    (∀ op ∈ [opMldb, opMzero, opMadj], commitEnabled (matrix (running op .drain)) elM = true) := by decide +kernel
theorem witness_MatrixAbandons : abandonEnabled (matrix { running opMma .load with abandon := true }) elM = true ∧
    matRunning (matrix { running opMma .load with abandon := true }) elM = some (mmaOp opMma 0, matRun .load) ∧
    (mmaOp opMma 0).rings ≠ [] := by decide +kernel

/-! ## Witnesses: the graph engine -/

/-- A graph of six nodes: kernels, a condition and a while node with its body, and a run of it. -/
def kernelRec (succ : List Nat) : NodeRec := ⟨.kernel 0, 3, 0, 1, none, 0, 0, 0, [1, 0, 0, 0], 0, succ⟩
def graph1 : Graph := ⟨1, 0, [kernelRec [1], kernelRec [], { kernelRec [1] with kind := .cond 3 0 }, { kernelRec [1] with kind := .loop 4 3 0 2 },
  kernelRec []], [], [(3, 4096, 64)], [4]⟩
def nodeAt (n c : Nat) (st : NodeState) (left : List Nat) (failed : Bool) : NodeRun := ⟨n, c, st, false, 1, [1, 0, 0, 0], left, 0, failed, 0, 0⟩
def runOf (l : List NodeRun) : Run := ⟨5, 0, 1, 0, 0, 0, none, true, 0, .host 0, l, [(3, 4096, 64)], none, 0, 0, false⟩
def graphState (l : List NodeRun) (net : List Msg) : State :=
  let s := mapped up
  { s with chip := { s.chip with graphs := [graph1], runs := [runOf l], net := net, images := [(0, 0, goodImage)] } }
where goodImage : Image := { image with stageRects := [⟨0, 0, ⟨0, 0, 1, 1⟩⟩], sameShape := true }

/-- A launch packet that names graph 1, and one whose graph does not exist: not yet read, read, and read with its handles' words. -/
def launch1 : LaunchEntry := ⟨0, 0, 4096, .host 0, false, none⟩
def packetBytes (g : Byte) : List Byte := [0, 0, 0, 0, 0, 0, 0xF0, g] ++ List.replicate 56 0
def launching (l : List Fetch) : State :=
  let s := graphState [] []
  { s with chip := { s.chip with launchQ := [launch1], fetches := l } }
def packetRead (g : Byte) : Fetch := ⟨70, .packet 0, 0, [some (packetBytes g)]⟩
def handlesRead : Fetch := ⟨71, .handles 0, 0, [some [0, 16, 0, 0, 0, 0, 0, 0]]⟩
theorem witness_LaunchesAreTaken : takeAct (launching []) 0 ≠ .none ∧ launchesOf (launching []) 0 = [launch1] ∧
    fetchFor (launching []) (.packet 0) = none ∧
    takeAct (launching [packetRead 2]) 0 ≠ .none ∧ (fetchFor (launching [packetRead 2]) (.packet 0)).isSome = true ∧
    packetStatus (launching [packetRead 2]) launch1 (packetWords (launching [packetRead 2]) 0) ≠ 0 := by decide +kernel
theorem witness_LaunchesAreTaken_read (l : List Fetch) (h : l = [packetRead 1] ∨ l = [packetRead 1, handlesRead]) :
    takeAct (launching l) 0 ≠ .none ∧ packetStatus (launching l) launch1 (packetWords (launching l) 0) = 0 ∧
    (packetWords (launching l) 0).isSome ∧ ((packetWords (launching l) 0).bind (packetGraph (launching l) launch1)) = some graph1 ∧
    graph1.handles ≠ [] ∧ (fetchFor (launching l) (.handles 0)).isSome = (l.length == 2) := by rcases h with rfl | rfl <;> decide +kernel
/-- The same packet launched by a Q element whose LAUNCH binds a slot. -/
def byElem : LaunchEntry := ⟨0, 0, 4096, .elem elQ 1 129 129 [0] false, false, some { launch with va := 4096, t1 := [0] }⟩
def launched : State :=
  let s := withElem (launching [packetRead 1, handlesRead]) elQ fun e => { e with pipe := [{ doneOp with wait := .reply }] }
  { s with chip := { s.chip with launchQ := [byElem] } }
theorem witness_LaunchesAreTaken_element : takeAct launched 0 ≠ .none ∧ launchesOf launched 0 = [byElem] ∧
    packetStatus launched byElem (packetWords launched 0) = 0 ∧ (fetchFor launched (.handles 0)).isSome = true ∧
    (opAt launched elQ launch.op).isSome ∧ inImage launched 1 = false := by decide +kernel
theorem witness_LaunchesAreTaken_doorbell : up.chip.power.booted = true ∧ up.chip.power.halted = false ∧ (fnAt up 0).fifo.length < 64 ∧
    field (0x1000 : Word) 61 57 = 0 ∧ field (0x1000 : Word) 5 0 = 0 ∧ field (1 : Word) 5 0 ≠ 0 := by decide +kernel
def decMsg : Msg := msg 2 (dieUnit 0) (.decrement 5 0)
theorem witness_CountersFall (c : Nat) (h : c = 1 ∨ c = 2) :
    decrementEnabled (graphState [nodeAt 0 c .waiting [] false] [decMsg]) 2 = true ∧
    msgAt (graphState [nodeAt 0 c .waiting [] false] [decMsg]) 2 = some decMsg ∧
    runAt (graphState [nodeAt 0 c .waiting [] false] [decMsg]) 5 = some (runOf [nodeAt 0 c .waiting [] false]) ∧
    nodeRun (graphState [nodeAt 0 c .waiting [] false] [decMsg]) 5 0 = some (nodeAt 0 c .waiting [] false) ∧
    nodeRec (graphState [nodeAt 0 c .waiting [] false] [decMsg]) 5 0 = some (kernelRec [1]) := by
  rcases h with rfl | rfl <;> decide +kernel
/-- A node that does not wait, one to be skipped, one with no instance, and a condition node. -/
def spent : State := graphState [nodeAt 0 0 .running [] false] [decMsg]
def skipped : State := graphState [{ nodeAt 0 1 .waiting [] false with skip := true }] [decMsg]
def empty : State := graphState [{ nodeAt 0 1 .waiting [] false with vec := [0, 0, 0, 0] }] [decMsg]
def condMsg : Msg := msg 2 (dieUnit 2) (.decrement 5 2)
def condWaits : State := graphState [nodeAt 2 1 .waiting [] false] [condMsg]
theorem witness_CountersFall_kinds : (∀ s ∈ [spent, skipped, empty], decrementEnabled s 2 = true ∧ (nodeRun s 5 0).isSome) ∧
    decrementEnabled condWaits 2 = true ∧ (nodeRec condWaits 5 2).map (·.kind) = some (.cond 3 0) := by decide +kernel
def report (failed : Bool) : Msg := msg 2 (dieUnit 0) (.shareEnd 5 0 0 failed)
theorem witness_NodesEnd_report (left : List Nat) (h : left = [0] ∨ left = [0, 1]) :
    reportReached (graphState [nodeAt 0 0 .running left false] [report false]) 2 = true ∧
    msgAt (graphState [nodeAt 0 0 .running left false] [report false]) 2 = some (report false) ∧
    nodeRun (graphState [nodeAt 0 0 .running left false] [report false]) 5 0 = some (nodeAt 0 0 .running left false) := by
  rcases h with rfl | rfl <;> decide +kernel
theorem witness_NodesEnd_failure : nodeFailEnabled (graphState [nodeAt 0 0 .running [] true] []) 5 0 = true ∧
    (nodeRec (graphState [nodeAt 0 0 .running [] true] []) 5 0).bind (·.errn) ≠ some 0 := by decide +kernel
/-- A node's condition word as read: 0, 1, or not to be had. -/
def wordRead (n : Nat) (v : Option (List Byte)) : Fetch := ⟨72, .cond 5 n, 0, [v]⟩
def one8 : List Byte := [1, 0, 0, 0, 0, 0, 0, 0]
def withFetches (l : List Fetch) (s : State) : State := { s with chip := { s.chip with fetches := l } }
def condState (l : List Fetch) : State := withFetches l (graphState [nodeAt 2 0 .ready [] false] [])
theorem witness_NodesEnd_condition (l : List Fetch) (h : l = [] ∨ l = [wordRead 2 (some (List.replicate 8 0))] ∨ l = [wordRead 2 (some one8)] ∨
      l = [wordRead 2 none]) : condEnabled (condState l) 5 2 = true ∧
    (nodeRec (condState l) 5 2).map (·.kind) = some (.cond 3 0) ∧ (conditionPlace (condState l) 5 3 0).isSome ∧
    (fetchFor (condState l) (.cond 5 2)).isSome = !l.isEmpty := by rcases h with rfl | rfl | rfl | rfl <;> decide +kernel
theorem witness_NodesEnd_words : ((fetchFor (condState [wordRead 2 (some one8)]) (.cond 5 2)).bind fun f => f.word 0 0) = some 1 ∧
    ((fetchFor (condState [wordRead 2 none]) (.cond 5 2)).bind fun f => f.word 0 0) = none := by decide +kernel
def whileState (n : Nat) : State :=
  withFetches [wordRead 3 (some one8)] (graphState [{ nodeAt 3 0 .running [] false with iter := n }, nodeAt 4 0 .complete [] false] [])
theorem witness_NodesEnd_while (n : Nat) (h : n = 1 ∨ n = 2) : whileEnabled (whileState n) 5 3 = true ∧
    (nodeRec (whileState n) 5 3).map (·.kind) = some (.loop 4 3 0 2) ∧ (nodeRec (whileState n) 5 4).isSome ∧
    ((fetchFor (whileState n) (.cond 5 3)).bind fun f => f.word 0 0) = some 1 ∧ (conditionPlace (whileState n) 5 3 0).isSome ∧
    nodeRun (whileState n) 5 4 = some (nodeAt 4 0 .complete [] false) := by
  rcases h with rfl | rfl <;> decide +kernel
/-- A condition word that cannot be read; a while node whose body has failed. -/
def unreadable (l : List NodeRun) : State :=
  let s := graphState l []
  { s with chip := { s.chip with runs := [{ runOf l with handles := [] }] } }
theorem witness_NodesEnd_unreadable : condEnabled (unreadable [nodeAt 2 0 .ready [] false]) 5 2 = true ∧
    conditionPlace (unreadable [nodeAt 2 0 .ready [] false]) 5 3 0 = none ∧
    (nodeRec (unreadable [nodeAt 2 0 .ready [] false]) 5 2).bind (·.errn) ≠ some 2 ∧
    2 ∉ reachable (unreadable [nodeAt 2 0 .ready [] false]) 5 4096 (succsOf (unreadable [nodeAt 2 0 .ready [] false]) 5 2) ∧
    whileEnabled (unreadable [nodeAt 3 0 .ready [] false, nodeAt 4 0 .waiting [] false]) 5 3 = true := by decide +kernel
def bodyFailed : State := graphState [nodeAt 3 0 .running [] false, nodeAt 4 0 .running [] true] []
theorem witness_NodesEnd_body : whileEnabled bodyFailed 5 3 = true ∧ nodeRun bodyFailed 5 3 = some (nodeAt 3 0 .running [] false) ∧
    nodeRun bodyFailed 5 4 = some (nodeAt 4 0 .running [] true) ∧ (nodeRec bodyFailed 5 3).bind (·.errn) = none := by decide +kernel
theorem witness_RunsEnd_element :
    let r := { runOf [nodeAt 0 0 .complete [] false] with origin := .elem elQ 1 129 129 [0] false }
    let s := { graphState [] [] with chip := { (graphState [] []).chip with runs := [r] } }
    runEndEnabled s 5 = true ∧ inImage s 1 = false ∧ (regionAt s 1).any (fun x => x.phase == .running) ∧ (129 : Tag) ≠ noTag := by decide +kernel
theorem witness_RunsEnd : runEndEnabled (graphState [nodeAt 0 0 .failed [] true] []) 5 = true ∧
    runStatus (graphState [nodeAt 0 0 .failed [] true] []) (runOf [nodeAt 0 0 .failed [] true]) = 2 := by decide +kernel

/-- A share of node 0 that waits for its place, with no region yet. -/
def share (aged : Nat) : Share := ⟨7, 0, 5, 0, 0, 1, 0, 3, aged, 0, false, some 0, [], []⟩
def pooled : State :=
  let s := graphState [nodeAt 0 0 .running [0] false] []
  later 400000 { s with t18 := 18000 * 400000, chip := { s.chip with shares := [share 0], regions := [], units := [] } }
def places (s : State) : DispatchAct → Bool
  | .place r => (installFault s r.image r.rects).isNone
  | _ => false
theorem witness_InstancesAreInstalled : (pool pooled 0)[0]? = some (share 0) ∧ dispatchAct pooled 0 0 ≠ .none ∧
    places { pooled with nextId := pooled.nextId + 1 } (dispatchAct { pooled with nextId := pooled.nextId + 1 } 0 0) = true := by decide +kernel

/-- A share whose image is not there, and one of a level above a region that is in its way. -/
def imageless : State := { pooled with chip := { pooled.chip with images := [] } }
def isRefused (a : DispatchAct) : Bool := match a with | .refuse _ => true | _ => false
theorem witness_InstancesAreInstalled_refused : (pool imageless 0)[0]? = some (share 0) ∧ dispatchAct imageless 0 0 ≠ .none ∧
    isRefused (dispatchAct { imageless with nextId := imageless.nextId + 1 } 0 0) = true := by decide +kernel

/-- The region in other phases. -/
def inPhase (ph : Phase) (root : Option Nat) : Region := { region with phase := ph, rootFrame := root }
def phased (ph : Phase) (root : Option Nat) : State := withRegion up (inPhase ph root)
theorem witness_InstancesAreInstalled_wake : wakeDone (phased (.waking 0) none) 1 = true ∧
    regionAt (phased (.waking 0) none) 1 = some (inPhase (.waking 0) none) := by decide +kernel
theorem witness_InstancesAreInstalled_load (c : Nat) (root : Option Nat) (h : c = 0 ∨ c = 2) (h' : root = none ∨ root = some 2) :
    loadDone (phased (.loading c 0) root) 1 = true ∧
    regionAt (phased (.loading c 0) root) 1 = some (inPhase (.loading c 0) root) ∧
    (rootOf' (phased (.loading c 0) root) (inPhase (.loading c 0) root)).isSome ∧ (configOf region.image 0).isSome := by
  rcases h with rfl | rfl <;> rcases h' with rfl | rfl <;> decide +kernel
def preempted : State :=
  let s := withRegion pooled { inPhase (.waking 0) none with yr := true, run := 5, node := 0, shDie := 0 }
  s
theorem witness_InstancesAreInstalled_preempt : preemptEnabled preempted 1 = true ∧
    shareOfRegion preempted { inPhase (.waking 0) none with yr := true } = some (share 0) ∧ shareAt preempted 7 = some (share 0) := by decide +kernel
def stopped : Region := { inPhase .stopping (some 2) with error := some ⟨codeEhandle, elS, 4, 129, 0⟩ }
def withEdge : State :=
  let s := withRegion (graphState [nodeAt 0 0 .running [] true] []) { stopped with run := 5 }
  { s with chip := { s.chip with graphs := [{ graph1 with nodes := [{ kernelRec [1] with errn := some 1 }, kernelRec []] }] } }
theorem witness_InstancesEnd_edge : instanceEnabled withEdge 1 = true ∧ (nodeRec withEdge 5 0).bind (·.errn) = some 1 := by decide +kernel
theorem witness_InstancesEnd : instanceEnabled (withRegion up { region with rootFreed := true }) 1 = true ∧
    instanceEnabled (withRegion up stopped) 1 = true ∧ regionAt (withRegion up stopped) 1 = some stopped ∧
    (nodeRec (withRegion up stopped) stopped.run stopped.node).bind (·.errn) = none := by decide +kernel
theorem witness_PoolsGoOn_aging : agingDue pooled = some 7 ∧ shareAt pooled 7 = some (share 0) := by decide +kernel
def broad : Image := { graphState.goodImage with shape := [⟨0, 0, 8, 4⟩], stageRects := [⟨0, 0, ⟨0, 0, 8, 4⟩⟩] }
def crowdedOut : State :=
  let c := { upChip.power with gated := (List.range 9).map fun k => cluster 0 (k + 1) }
  { pooled with chip := { pooled.chip with
      regions := [{ region with level := 1, grant := [] }], images := [(0, 0, broad)], units := [(tile, unit1), (apUnit, unit1)], power := c } }
theorem witness_PoolsGoOn_reservation : reserveEnabled crowdedOut 0 = true ∧ pool crowdedOut 0 = [share 0] ∧
    (positionWithout crowdedOut (share 0) (fun _ => true)).isSome := by decide +kernel
theorem witness_InstancesAreInstalled_block : (pool crowdedOut 0)[0]? = some (share 0) ∧ dispatchAct crowdedOut 0 0 = .block ∧
    dispatchAct { crowdedOut with nextId := crowdedOut.nextId + 1 } 0 0 = .block := by decide +kernel

/-! ## Witnesses: pre-emption, errors, the kiln -/

def asked (rem : Nat) : Region := { region with yr := true, rem := rem }
def quiet : State :=
  let s := withRegion up (asked 10)
  { s with frames := [(2, { FrameRec.reset with val := true, yld := true })] }
theorem witness_RegionsAreSaved_halt : deadlineEnabled (withRegion up (asked 0)) 1 = true ∧ regionAt (withRegion up (asked 0)) 1 = some (asked 0) ∧
    cooperativeEnabled quiet 1 = true ∧ withdrawEnabled quiet 1 = true := by decide +kernel
theorem witness_RegionsAreSaved_capture : captureEnabled (phased .halting (some 2)) 1 = true ∧
    regionAt (phased .halting (some 2)) 1 = some (inPhase .halting (some 2)) := by decide +kernel

/-- The context image of the region. -/
def savedRegion : Saved := ⟨9, inPhase .halting (some 2), [], [], [], [], [], [], [], [], [], [], [], [], [], [], [], [2], [], []⟩
def capturing : State :=
  let s := withRegion pooled { inPhase (.capturing 0) (some 2) with node := 0 }
  { s with chip := { s.chip with saved := [savedRegion] } }
theorem witness_RegionsAreSaved_complete : saveDone capturing 1 = true ∧ capturing.chip.saved.find? (fun v => v.region.id = 1) = some savedRegion ∧
    shareOfRegion capturing { inPhase (.capturing 0) (some 2) with node := 0 } = some (share 0) ∧ shareAt capturing 7 = some (share 0) := by decide +kernel
/-- A dirty line of the region that holds an error; the region while its image is written back. -/
def spoiltLine : State :=
  let s := phased .halting (some 2)
  { s with chip := { s.chip with bad := [.spadLine 3], spadDirty := [3] } }
theorem witness_RegionsAreSaved_bad : captureEnabled spoiltLine 1 = true ∧
    (saveCells spoiltLine (inPhase .halting (some 2))).find? spoiltLine.chip.bad.contains = some (.spadLine 3) := by decide +kernel
def restoring : State :=
  let s := withRegion up (inPhase (.restoring 0) (some 2))
  { s with chip := { s.chip with saved := [{ savedRegion with rings := [ring0], elems := [(elS, { Elem.reset with divBusy := 5 })] }] } }
theorem witness_InstancesRestored : loadDone restoring 1 = true ∧ regionAt restoring 1 = some (inPhase (.restoring 0) (some 2)) ∧
    (restoring.chip.saved.find? (fun v => v.region.id = 1)).isSome ∧ (∀ f ∈ restoring.chip.faults, f.answer = none) := by decide +kernel
def resuming (gone : List Pos) : State :=
  { pooled with gone := gone, chip := { pooled.chip with saved := [savedRegion], shares := [{ share 0 with next := 1, live := 1, saved := [9] }] } }
theorem witness_InstancesResume : resumeEnabled (resuming []) 1 = true ∧ savedAt (resuming []) 1 = some savedRegion ∧
    tileLost (resuming []) savedRegion = false ∧ resumeEnabled (resuming [tile]) 1 = true ∧ savedAt (resuming [tile]) 1 = some savedRegion ∧
    tileLost (resuming [tile]) savedRegion = true := by decide +kernel
def errRep : ErrorReport := ⟨codeEhandle, elS, 4, 129, 0⟩
def erring (r : Region) : State := withNet (withRegion up r) [msg 2 (controlPoint tile) (.error 1 errRep)]
theorem witness_ErrorsStopRegions : errorEnabled (erring region) 2 = true ∧ msgAt (erring region) 2 = some (msg 2 (controlPoint tile) (.error 1 errRep)) ∧
    errorEnabled (erring stopped) 2 = true ∧ regionAt (erring stopped) 1 = some stopped ∧ stopped.error ≠ none ∧
    watchdogEnabled (withRegion up { region with wdog := 2 ^ 20 }) 1 = true := by decide +kernel
def abortRep : AbortReport := ⟨true, some 40, elS, 4, 129, none⟩
def aborting (nr : Bool) : State := withNet (withRegion up { region with nr := nr }) [msg 2 (controlPoint tile) (.abort 1 abortRep)]
theorem witness_AbortsRollBack (nr : Bool) : abortEnabled (aborting nr) 2 = true ∧
    msgAt (aborting nr) 2 = some (msg 2 (controlPoint tile) (.abort 1 abortRep)) ∧ regionAt (aborting nr) 1 = some { region with nr := nr } ∧
    launchPending (aborting nr) { region with nr := nr } = false ∧ canRollBack (aborting nr) { region with nr := nr } = !nr := by
  cases nr <;> decide +kernel
def againAborting (r : Region) (e : AbortReport) : State := withNet (withRegion up r) [msg 2 (controlPoint tile) (.abort 1 e)]
def rollingRegion : Region := inPhase (.loading 0 (up.t18 + 72000)) (some 2)
theorem witness_AbortsRollBack_again : abortEnabled (againAborting stopped abortRep) 2 = true ∧ stopped.error ≠ none ∧
    abortEnabled (againAborting rollingRegion abortRep) 2 = true ∧ rollingBack rollingRegion = true ∧
    rollingRegion.phase = .loading 0 (reinstallEnd (againAborting rollingRegion abortRep) rollingRegion) ∧
    abortEnabled (againAborting region { abortRep with window := some (tile, 3) }) 2 = true ∧
    hitRings (againAborting region { abortRep with window := some (tile, 3) }) { abortRep with window := some (tile, 3) } = [(tile, 3)] := by decide +kernel
/-- A stream that has sent blocks since its mark, with a replay window, which an abort has met or not, and without one. -/
def streaming (h2 : Nat) (l : List (Pos × Nat)) : State :=
  withQ (withNet (withRegion up { region with windowHits := l }) [msg 2 (controlPoint tile) (.abort 1 abortRep)]) fun q =>
    { q with streams := [{ inStream with h2 := h2, cursor := 5, mark := 2 }] }
theorem witness_AbortsRollBack_streams : canRollBack (streaming 3 []) region = true ∧ canRollBack (streaming 0 []) region = false ∧
    canRollBack (streaming 3 [(tile, 3)]) { region with windowHits := [(tile, 3)] } = false ∧ abortEnabled (streaming 3 []) 2 = true := by decide +kernel

/-- Data of an element's own that cannot be corrected. -/
def holdsBad : State := withNet (withElem adding elS fun e => { e with entries := [entryAt .resident], pipe := [doneOp] }) [token 4 0]
def adjLine : AdjLine := ⟨0, 0, 0, 4096, .entry 2, [], 0, 0⟩
theorem witness_ErrorsInStorage : badHolder holdsBad (.entry elS 9) = some (elS, 4, 0) ∧ badHolder holdsBad (.side elS 5) = some (elS, 0, 0) ∧
    badHolder holdsBad (.token 1) = some (elS, 4, 129) ∧ (opAt holdsBad elS 3).isSome ∧ regionOf holdsBad elS = some region ∧
    (badHolder { up with chip := { up.chip with adjunct := [adjLine] } } (.adjunct elM 0)).isSome ∧ 8 < 2 ^ 34 ∧ 8 < 80 * (sramBytes / 32) := by decide +kernel
theorem witness_CorrectedErrors : namedExists (.tile tile) = true ∧ bucketDue { up with t18 := 10 ^ 18 } = some 0 ∧ tile ∉ up.gone ∧
    (∃ n, n ≤ 2 ^ 16 ∧ field (cecfgAt up 0) 31 16 < n) ∧ (namedPlace (.tile tile)).die = 0 := by
  exact ⟨by decide +kernel, by decide +kernel, by decide +kernel, ⟨2 ^ 16, by decide, by decide +kernel⟩, by decide +kernel⟩
theorem met_alone (s : State) (u : UnitName) (a : MetAccess) (h : accessesAt s u = [a]) : correctedAt s u = some a := by
  simp [correctedAt, h, Nat.mod_one]
theorem witness_CorrectedErrors_delay : correctedAt (memState (.load false) .serving (some 4096)) (.pc (ctrlOf 4096)) = some (.req 40) ∧
    correctedAt (arriving (token 4 0)) (.tile tile) = some (.token 1) ∧
    correctedAt (withElem adding elS fun e => { e with pipe := [{ doneOp with due := some 5 }] }) (.tile tile) = some (.op elS 3) ∧
    correctedAt (moving (.filling 0)) (.sram 0 0) = some (.entry elS 9) :=
  ⟨met_alone _ _ _ (by decide +kernel), met_alone _ _ _ (by decide +kernel), met_alone _ _ _ (by decide +kernel), met_alone _ _ _ (by decide +kernel)⟩
def kilning : State :=
  let s := mapped up
  { s with chip := { s.chip with regions := [], units := [], faulty := [tile], kiln := { s.chip.kiln with en := true } } }
theorem witness_KilnTests_submit : (kilnTile kilning).isSome ∧
    (kilnClaim { kilning with nextId := kilning.nextId + 1 } tile kilning.nextId).isSome ∧ (kilnTile kilning).all (fun x => x.1 == tile) := by decide +kernel
def scanRec (b : Bool) : Scan := ⟨3, 0, 0, b⟩
def scanning (b : Bool) : State := withQ up fun q => { q with scan := some (scanRec b) }
theorem witness_KilnTests_scan (b : Bool) : scanDue (scanning b) = some elQ ∧ (qAt (scanning b) elQ).scan = some (scanRec b) ∧
    regionOf (scanning b) elQ = some region ∧ MemoryOk (scanning b) := by
  cases b <;> exact ⟨by decide +kernel, by decide +kernel, by decide +kernel, rfl, rfl, rfl⟩
def kilnInTheWay : State := { crowdedOut with chip := { crowdedOut.chip with regions := [{ region with kiln := true, grant := [] }], kiln := { crowdedOut.chip.kiln with abl := 0 } } }
theorem witness_KilnTests_abort : kilnAbortEnabled kilnInTheWay = true ∧ kilnRegion kilnInTheWay = some { region with kiln := true, grant := [] } ∧
    regionAt kilnInTheWay { region with kiln := true, grant := [] }.id = some { region with kiln := true, grant := [] } := by
  decide +kernel

/-! ## Witnesses: the host, power, boot, observation -/

/-- The module up, with no region. -/
def idle : State := { up with chip := { up.chip with regions := [], units := [] } }
theorem witness_PartitionCommands : (∀ fn ∈ [0, 1], commandEnabled (mapped idle) fn = true) ∧ setupStatus setup idle = 0 ∧ (partAt (mapped idle) 0).isSome ∧
    setupStatus { setup with part := 9 } (mapped idle) ≠ 0 ∧ winStatus 0 1 0 (mapped idle) = 0 ∧ (partAt (mapped idle) 0).isSome ∧
    expStatus 3 0 (mapped idle) = 0 ∧ commandEnabled idle 0 = true :=
  ⟨by decide +kernel, by decide +kernel, by decide +kernel, by decide +kernel, by decide +kernel, by decide +kernel, by decide +kernel, by decide +kernel⟩
theorem witness_TranslationCommands : commandEnabled (mapped idle) 1 = true ∧ partSet (mapped idle) 1 = true ∧
    openFault (mapped idle) 1 3 = none ∧ commandEnabled (mapped idle) 0 = true ∧ elogStatus 0 4096 4 (mapped idle) = 0 ∧
    (∃ m ∈ (walked 2 0).chip.misses, m.walking = true ∧ missHits .whole 0 m = true) ∧ commandEnabled (walked 2 0) 1 = true := by decide +kernel
def faulted : State :=
  let s := memState .store (.fault 3) none
  { s with chip := { s.chip with faults := [⟨3, 0, 40, 0, 4096, 2, [], none⟩] } }
theorem witness_TranslationCommands_answer : commandEnabled faulted 1 = true ∧ (openFault faulted 1 3).isSome ∧
    (∀ v ∈ faulted.chip.saved, ∀ y ∈ v.reqs, y.id ≠ 40) ∧ (reqAt faulted 40).any (fun q => !q.dead) ∧
    ((reqAt faulted 40).bind fun q => q.parts[0]?).isSome ∧ (regionAt faulted 1).isSome := by decide +kernel
def faultSaved : State :=
  let s := faulted
  { s with chip := { s.chip with reqs := [], saved := [{ savedRegion with reqs := s.chip.reqs }] } }
theorem witness_TranslationCommands_saved : commandEnabled faultSaved 1 = true ∧ (openFault faultSaved 1 3).isSome ∧
    (∃ v ∈ faultSaved.chip.saved, ∃ y ∈ v.reqs, y.id = 40) := by decide +kernel
theorem witness_CommandRefusals : (∀ fn ∈ [0, 1], commandEnabled (mapped idle) fn = true) ∧ winStatus 9 0 0 (mapped idle) ≠ 0 ∧
    expStatus 5000 0 (mapped idle) ≠ 0 ∧ elogStatus 9 0 0 (mapped idle) ≠ 0 ∧ pwrStatus 9 (mapped idle) ≠ 0 ∧
    gateStatus [⟨7, 0, 0, 0⟩] (mapped idle) ≠ 0 ∧ partSet idle 1 = false ∧ commandEnabled idle 1 = true := by decide +kernel
def placed : State :=
  let s := mapped idle
  { s with chip := { s.chip with images := [(0, 0, graphState.goodImage)], graphs := [graph1], runs := [runOf []] } }
theorem witness_GraphCommands : commandEnabled placed 1 = true ∧ partSet placed 1 = true ∧ runAt placed 5 = some (runOf []) ∧
    (runOf []).part = partOfFn 1 ∧ graphOperands placed (partOfFn 1) 1 0 = none ∧
    ((runAt placed 6).any fun r => r.part == partOfFn 1) = false ∧ removeStatus (partOfFn 1) 1 placed = 2 := by decide +kernel
def killing : State :=
  let s := graphState [nodeAt 0 0 .running [0] false] []
  { s with chip := { s.chip with saved := [{ savedRegion with region := { region with id := 8 } }] } }
theorem witness_GraphCommands_kill : commandEnabled killing 1 = true ∧ (runAt killing 5).any (fun r => r.part == partOfFn 1) ∧
    regionAt killing 1 = some region ∧ region.run = 5 ∧ region.error = none ∧ regionAt killing 8 = none := by decide +kernel
def twoNodes : GraphImage := ⟨[⟨.kernel 0, 3, 0, some (1, [1, 0, 0, 0])⟩, ⟨.kernel 0, 3, 0, some (1, [1, 0, 0, 0])⟩], [(0, 1)], [], [], 1, false, 64⟩
def offered : State := { placed with chip := { placed.chip with graphImages := [(0, 8192, twoNodes)] } }
theorem witness_GraphCommands_install : graphOperands offered (partOfFn 1) 8192 4096 = some twoNodes ∧ partSet offered 1 = true ∧
    commandEnabled offered 1 = true := by decide +kernel
/-- A function's command in progress, and what has been read for it. -/
def inProgress (fn : Nat) (w : CmdWork) (l : List Fetch) (s : State) : State :=
  { s with chip := { s.chip with fns := [{ Fn.reset fn with pcwork := some w }], fetches := l } }
def graphFetch (im : Option (List Byte)) : Fetch := ⟨73, .graph 1, 0, [im, some one8]⟩
def installing (im : Option (List Byte)) : State := inProgress 1 (.graph 8192 4096 1) [graphFetch im] offered
theorem witness_CommandsEnd_setup : (fnAt (inProgress 0 (.setup setup 5) [] (mapped idle)) 0).pcwork = some (.setup setup 5) ∧
    (mapped idle).t18 < 5 ∧ 5 ≤ (later 9 { mapped idle with t18 := 9 }).t18 ∧ (∀ g ∈ setup.groups, g < 8) ∧
    MemoryOk (inProgress 0 (.setup setup 5) [] (later 9 { idle with t18 := 9 })) :=
  ⟨by decide +kernel, by decide +kernel, by decide +kernel, by decide, rfl, rfl, rfl⟩
theorem witness_CommandsEnd_install : (fnAt (installing (some (List.replicate 64 0))) 1).pcwork = some (.graph 8192 4096 1) ∧
    fetchFor (installing (some (List.replicate 64 0))) (.graph 1) = some (graphFetch (some (List.replicate 64 0))) ∧
    (graphFetch none).range 0 = none ∧ graphOperands (installing none) (partOfFn 1) 8192 4096 = some twoNodes ∧
    graphStatus ((graphFetch (some (List.replicate 64 0))).word 1) 1 twoNodes (installing (some (List.replicate 64 0))) = 0 ∧
    graphStatus ((graphFetch (some (List.replicate 64 0))).word 1) 0 twoNodes (installing (some (List.replicate 64 0))) ≠ 0 ∧
    freeGraph (installing none) = some 0 := by decide +kernel
theorem witness_CommandsEnd_inv : translatedDone (inProgress 1 (.inv 50 0) [] idle) 50 0 = true ∧
    translatedDone (inProgress 1 (.inv 50 0) [] (memState .store .queued (some 4096))) 50 0 = false := by decide +kernel
def descFetch (w0 : Byte) : Fetch := ⟨74, .command 1, 0, [some (w0 :: List.replicate 63 0)]⟩
def descWords (w0 : Word) : List Word := w0 :: List.replicate 7 0
theorem witness_CommandsEnd_descriptor : fetchFor (inProgress 1 .descriptor [descFetch 3] placed) (.command 1) = some (descFetch 3) ∧
    hostServed (inProgress 1 .descriptor [descFetch 3] placed) = true ∧ (∀ i ∈ List.range 8, (descFetch 3).word 0 i = (descWords 3)[i]?) ∧
    field ((descWords 3).getD 0 0) 7 0 = 0x03 ∧ (Fetch.mk 74 (.command 1) 0 [none]).word 0 0 = none ∧
    (∀ c ∈ [0x02, 0x0B, 0x0C], ∀ i ∈ List.range 8, (descFetch c).word 0 i = (descWords (c.zeroExtend 64))[i]?) := by decide +kernel
def stopping (e : Nat) : State := { idle with chip := { idle.chip with power := { idle.chip.power with stopEnds := some (e, 1) } } }
theorem witness_PowerStates : commandEnabled idle 0 = true ∧ (∀ d ∈ [0, 1, 2, 3, 4], pwrStatus d idle = 0) ∧ clampStays idle = false ∧
    stopOver (stopping 0) = true ∧ hostServed idle = true ∧ MemoryOk idle ∧ gateStatus [tile] idle = 0 ∧ idle.chip.power.thc = false :=
  ⟨by decide +kernel, by decide +kernel, by decide +kernel, by decide +kernel, by decide +kernel, ⟨rfl, rfl, rfl⟩, by decide +kernel, rfl⟩
def hot (x : Int) : State :=
  let p := { idle.chip.power with thc := true, junction := [(0, x)] }
  { idle with chip := { idle.chip with power := p } }
def halted' : State := { idle with chip := { idle.chip with power := { idle.chip.power with halted := true, booted := false } } }
theorem witness_PowerStates_clamp : commandEnabled (hot 105) 0 = true ∧ pwrStatus 0 (hot 105) = 0 ∧ (hot 105).chip.power.thc = true ∧
    (∃ x ∈ (hot 105).chip.power.junction, (100 : Int) ≤ x.2) ∧ commandEnabled (hot 50) 0 = true ∧ ¬ (∃ x ∈ (hot 50).chip.power.junction, (100 : Int) ≤ x.2) ∧
    halted'.chip.power.halted = true := by decide +kernel
def reduced' (tr : Bool) : State :=
  let p := { idle.chip.power with full := false, training := tr }
  { idle with chip := { idle.chip with power := p } }
theorem witness_BootAndService : bootEnabled State.reset = true ∧ trainingEnabled (reduced' false) = true ∧ fullEnabled (reduced' true) = true ∧
    commandEnabled idle 1 = true := by decide +kernel
def peer (op : PeerOp) : PeerAccess := ⟨0, 0, 0, 4096, op⟩
def exporting : State := { idle with chip := { idle.chip with exports := [(3, placeBit true 63 ||| placeBit true 62)] } }
theorem witness_OutsideAccesses_peer : hostServed exporting = true ∧ exporting.chip.power.full = true ∧
    (exporting.chip.power.full && (exporting.chip.exports.any fun x => exportLets (peer (.read 8)) x.2) && peerSize (peer (.read 8))) = true ∧
    hostServed (reduced' false) = true ∧ (reduced' false).chip.power.full = false ∧
    ((exporting.chip.exports.any fun x => exportLets (peer (.write [1, 2])) x.2) && peerSize (peer (.write [1, 2]))) = true ∧
    ((exporting.chip.exports.any fun x => exportLets (peer (.atomic .add 8 1 0)) x.2) && peerSize (peer (.atomic .add 8 1 0))) = true ∧
    ((idle.chip.exports.any fun x => exportLets (peer (.read 8)) x.2) && peerSize (peer (.read 8))) = false := by decide +kernel
theorem witness_OutsideAccesses : hostServed (mapped idle) = true ∧ (mapped idle).chip.power.full = true ∧
    Claims.hostBlocks 4090 8 = [(6, 2), (0, 6)] ∧ (barAddr (mapped idle) 0 4090 true).isSome ∧ (barAddr (mapped idle) 1 4090 true).isSome ∧
    barAddr (mapped idle) 1 (2 ^ 50) false = none ∧ hostServed (reduced' false) = true ∧ (reduced' false).chip.power.full = false ∧
    objectParts (mapped idle) 1 = [0] := by decide +kernel
theorem witness_OutsideAccesses_reduced : MemoryOk (reduced' false) ∧ Claims.lastAt (reduced' false) 8 4 3 11 :=
  ⟨⟨rfl, rfl, rfl⟩, ⟨cluster 0 0, by decide +kernel⟩, fun j _ h h' => absurd h' (by omega)⟩
theorem witness_HostRegisters : hostServed idle = true ∧ clusterHeld idle tile = false ∧ clusterHeld up tile = true ∧
    field (0x00020806 : Word) 20 16 + field (0x00020806 : Word) 12 8 + field (0x00020806 : Word) 4 0 = 16 ∧
    selectorGood true 31 = true ∧ selectorGood false 15 = true := by decide +kernel
def fn1 (g : Fn → Fn) (s : State) : State := { s with chip := { s.chip with fns := [g (Fn.reset 1)] } }
theorem witness_ObservationRecords_sample :
    sampleEnabled (fn1 (fun f => { f with smpcfg := 0x8000000000000000 }) (later (2 ^ 40) (mapped up))) 1 tile = true ∧
    sampleEnabled (fn1 (fun f => { f with smpcfg := 0x8000000000000020 }) (later (2 ^ 40) (mapped up))) 1 tile = true := by decide +kernel
def obsRec : ObsRec := ⟨11, 1, .sample, [1, 2, 3, 4], 0, .waiting⟩
def observing (wp : BitVec 32) : State :=
  let s := fn1 (fun f => { f with sample := { f.sample with base := 4096, len := 8, wp := wp } }) (mapped up)
  { s with chip := { s.chip with obs := [obsRec] } }
theorem witness_ObservationRecords_record : recordEnabled (observing 0) 11 = true ∧
    (observing 0).chip.obs.find? (fun x => x.id = 11) = some obsRec ∧ (ringOf (fnAt (observing 0) 1) .sample).len = 8 ∧
    rangeGood (observing 0) (partOfFn 1) 4096 32 true = true ∧ recordEnabled (observing 8) 11 = true ∧
    ((ringOf (fnAt (observing 8) 1) .sample).wp - (ringOf (fnAt (observing 8) 1) .sample).rp).toNat = 8 := by decide +kernel
theorem witness_ObservationRecords_none :
    recordEnabled { idle with chip := { idle.chip with obs := [obsRec] } } 11 = true ∧ (ringOf (fnAt idle 1) .sample).len = 0 := by decide +kernel
/-- A record whose write has been performed, or has been lost; the same under reduced service. -/
def inStage (st : ObsStage) : State := { observing 0 with chip := { (observing 0).chip with obs := [{ obsRec with st := st }] } }
theorem witness_ObservationRecords_written : recordEnabled (inStage .written) 11 = true ∧ recordEnabled (inStage .lost) 11 = true := by decide +kernel
def observingReduced : State :=
  let s := observing 0
  { s with chip := { s.chip with power := { s.chip.power with full := false }, fns := [{ Fn.reset 1 with sample := { (Fn.reset 1).sample with base := 64, len := 8 } }] } }
theorem witness_ObservationRecords_reduced : recordEnabled observingReduced 11 = true ∧ rangeGood observingReduced (partOfFn 1) 64 32 true = true ∧
    observingReduced.chip.power.full = false := by decide +kernel
def eventMsg (op : Option Nat) : Msg := msg 2 (dieUnit 0) (.event ⟨0, 1, 0, elS, 5, 0, 0, op⟩)
theorem witness_ObservationRecords_event : collectEnabled (withNet up [eventMsg none]) 2 = true ∧
    msgAt (withNet up [eventMsg none]) 2 = some (eventMsg none) ∧ collectEnabled (withNet finishing [eventMsg (some 3)]) 2 = true ∧
    opAt finishing elS 3 = some doneOp := by decide +kernel
theorem witness_RegistersRead : idle.chip.power.dps < 8 ∧ deadline idle 0 11 < 2 ^ 32 := by decide +kernel

/-! ## Witnesses: the step -/

def fetching : State := { adding with cur := some (firing elS) }
theorem witness_StepRuns : fetching.cur = some (firing elS) ∧ (decodeWords (fetchWords fetching (firing elS)).1 (fetchWords fetching (firing elS)).2).toOption.isSome ∧
    (decodeWords (fetchWords (at_ elS) (firing elS)).1 (fetchWords (at_ elS) (firing elS)).2).toOption.isNone := by decide +kernel
def awaited (n : Nat) : State := { idle with inputs := [(n, .trainingEnd)] }
theorem witness_StepRuns_input : (awaited 0).cur = none ∧ (dueInput (awaited 0) (awaited 0).inputs).isSome ∧
    dueInput idle idle.inputs = none ∧ answers (exec .trainingEnd { awaited 0 with inputs := [] }) = false := by decide +kernel
def reducedService (s : State) : State :=
  let p := { s.chip.power with full := false, dps := 5 }
  { s with chip := { s.chip with power := p } }
def oneReady : State := reducedService (withElem adding elS fun e => { e with ready := [firing elS] })
theorem witness_StepRuns_alone : (partMoves State.reset).length = 1 ∧ firings State.reset = [] ∧ partMoves (reducedService idle) = [] ∧
    firings (reducedService idle) = [] ∧ partMoves oneReady = [] ∧ firings oneReady = [firing elS] ∧ (fetched oneReady (firing elS)).isSome := by
  decide +kernel
theorem witness_InvariantKept : Inv State.reset ∧ Inv idle :=
  ⟨⟨⟨rfl, rfl, rfl⟩, ⟨fun _ h => absurd h List.not_mem_nil, fun _ h => absurd h List.not_mem_nil⟩, rfl⟩,
   ⟨⟨rfl, rfl, rfl⟩, ⟨fun _ h => absurd h List.not_mem_nil, fun _ h => absurd h List.not_mem_nil⟩, rfl⟩⟩
theorem witness_NothingComesBack : answers (step State.reset) = true := by decide +kernel

/-! ## Witnesses: further cases -/

theorem witness_FloatsRound : Claims.finite32 (Claims.finOf ⟨false, true, .rne⟩ 0x3F800000) ∧ Claims.finite32 (Claims.finOf ⟨false, true, .rne⟩ 1) ∧
    Claims.finite32 (fadd ⟨false, true, .rne⟩ 0x3F800000 1).1 ∧ Claims.finite32 (fmul ⟨false, false, .rup⟩ 0x3F800000 0x3F800001).1 :=
  ⟨by unfold Claims.finite32; decide +kernel, by unfold Claims.finite32; decide +kernel, by unfold Claims.finite32; decide +kernel,
   by unfold Claims.finite32; decide +kernel⟩

/-- HFMT: roles 0 to 3 whose handle is not made or whose kind is not theirs; role 4 of 32 and role 5 of 16 and of no format. -/
theorem witness_HandleRefusals_format : engUses (atH elQ) regionH 4 = false ∧ (handleHome regionH 4).valid = true ∧
    (handleHome regionH 14).valid = false ∧ (handleHome regionH 7).kind ≠ 2 ∧ (handleHome regionH 7).valid = true ∧ (handleHome regionH 7).kind < 2 ∧
    (handleHome regionH 4).kind ≠ 3 ∧ (handleHome regionH 4).kind ≠ 4 := by decide +kernel
theorem witness_HandleRefusals_argument : (handleHome regionH 12).valid = true ∧ (handleHome regionH 12).kind = 4 ∧ 32 ≤ (32 : Word).toNat ∧
    (handleHome regionH 7).kind ≤ 4 ∧ 16 ≤ (16 : Word).toNat ∧ decodeFmt? ((15 : Word).extractLsb' 0 4) = none := by decide +kernel

/-- STRMO: OPEN of no blocks, OPEN of a stream that is open, a block of a stream that is not, a block while a write is on its way. -/
theorem witness_OutputStreams_none : (lowWord (0 : Wide)).toNat % 2 ^ 32 = 0 ∧ streamEng (atH elQ) elQ 2 = none ∧
    (streamEng (busyQ .strmo) elQ 2).isSome = true := by decide +kernel
def writing' : EngOp := { eng .strmo 20 with n := 3, next := 1, open' := [0], got := [] }
theorem witness_OutputStreams_waits : streamEng (withQ (atH elQ) fun q => { q with engs := [writing'], streams := [inStream] }) elQ 2 = some writing' ∧
    writing'.open' ≠ [] ∧ writing'.next < writing'.n ∧ writing'.win ≠ 0 := by decide +kernel

/-- Requests whose lanes are none: of the hbm handle at the port, of cluster storage at its place. -/
def noLane (q : MemReq) (st : PartStage) : MemReq := { q with parts := [{ part st none with lanes := [] }], t0 := [routeTo elS 4 0 0 false] }
def emptyHbm : MemReq := { noLane inMsg .sent with op := .gather }
theorem witness_EmptyGathers : acquireEnabled (sentOf emptyHbm) 40 = true ∧ reqAt (sentOf emptyHbm) 40 = some emptyHbm ∧
    requestMsg (sentOf emptyHbm) 40 = some (sentMsg (memoryPort tile)) ∧ emptyHbm.level = 2 ∧ emptyHbm.parts.flatMap (·.lanes) = [] ∧
    awaitsSlots emptyHbm = false ∧ emptyHbm.tokens ≠ [] ∧ emptyHbm.val = 0 ∧ regionAt (sentOf emptyHbm) 1 = some region ∧
    entryServes region emptyHbm (reqEntry (sentOf emptyHbm) region .instr (memoryPort elS) 3 true) = true ∧
    blocksOf hbmEntry emptyHbm = [] ∧ emptyHbm.silent = false := by decide +kernel
def emptyClu : MemReq := { noLane onChip .sent with op := .gather }
def emptyAt : State := withRegion (sentOf emptyClu) { region with handles := [(3, cluEntry)] }
def noPart : Part := { part .sent none with lanes := [] }
theorem witness_RequestsPass_empty : performEnabled emptyAt 40 0 = true ∧
    requestMsg emptyAt 40 = some (sentMsg (memoryPort tile)) ∧ emptyClu.silent = false ∧ emptyClu.parts.flatMap (·.lanes) = [] ∧
    partAtReq emptyAt 40 0 = some (emptyClu, noPart) := by decide +kernel
theorem witness_RequestsPass_emptyServed : entryServes { region with handles := [(3, cluEntry)] } emptyClu
    (Claims.entryThere emptyAt { region with handles := [(3, cluEntry)] } emptyClu (memoryPort tile)) = true := by decide +kernel
theorem witness_RequestsPass_emptyBlocks : groupBlocks (· % cluEntry.ext) [] = [] := by decide +kernel

/-- Results: one whose residue does not match, one that streams two values, and a request's message at its unit. -/
def finishing' (x : PipeOp) : State := withElem adding elS fun e => { e with pipe := [x] }
def badOp : PipeOp := { doneOp with bad := true }
def twoOp : PipeOp := { doneOp with op := 0xC2, outs := outOf (some 0) 5 false true ++ outOf (some 0) 6 false true }
theorem witness_ResultsLeave_bad : completionEnabled (finishing' badOp) elS 3 = true ∧ opAt (finishing' badOp) elS 3 = some badOp ∧
    opStep (finishing' badOp) elS badOp = .send ∧ regionOf (finishing' badOp) elS = some region := by decide +kernel
theorem witness_ResultsLeave_streams : completionEnabled (finishing' twoOp) elS 3 = true ∧ opStep (finishing' twoOp) elS twoOp = .send ∧
    twoOp.streams = true ∧ 1 < twoOp.outs.length := by decide +kernel
def leaving : State :=
  withNet (memOf { inMsg with parts := [part .tile none] }) [{ sentMsg (memoryPort tile) with due := 0 }]
theorem witness_ResultsLeave_request : requestInjects leaving elS 5 = true ∧ (msgAt leaving 5).isSome ∧
    (requestIn leaving { sentMsg (memoryPort tile) with due := 0 }).isSome ∧ (elemAt leaving elS).out.find? (fun y => y.id = 5) = none := by decide +kernel

/-- Held results: a bad one, one that has a request to make, one whose entry is in the cellar, one whose set is full. -/
def holding' (x : PipeOp) (l : List StoreEntry) : State := withElem adding elS fun e => { e with pipe := [x], entries := l }
def deferring : PipeOp := { heldOp with defer := some (firing elS) }
theorem witness_HeldResultsLeave_others : nextSendEnabled (holding' { heldOp with bad := true } []) elS 3 = true ∧
    heldEntry (holding' { heldOp with bad := true } []) elS 4 3 129 = .go ∧
    nextSendEnabled (holding' deferring []) elS 3 = true ∧ deferring.defer.isSome = true ∧ heldEntry (holding' deferring []) elS 4 3 129 = .go := by decide +kernel
def itsEntry : StoreEntry := ⟨9, 2, 4, 3, 0, false, .cellar, 0, 0, 0⟩
def crowded' : State := withElem (crowd .resident) elS fun e => { e with pipe := [heldOp] }
theorem witness_HeldResultsLeave_fill : nextSendEnabled (holding' heldOp [itsEntry]) elS 3 = true ∧ heldEntry (holding' heldOp [itsEntry]) elS 4 3 129 = .fill 9 := by
  decide +kernel

/-- The table's answers: the parent, a release of a frame that is not there, and of one that is. -/
def asksTable (q : FrameReq) (s : State) : State := withNet s [msg 2 (frameTable tile) (.frame q)]
def frame2' : State := frame2 [.alloc 0 2 1 0 0 none] (withElem up elS fun e => { e with pipe := [{ doneOp with wait := .reply }] })
theorem witness_FrameAnswers : frameOpEnabled (asksTable (.parent 2 elS 3) frame2') 2 = true ∧ frameOpEnabled (asksTable (.free 3 1 none elS 3) frame2') 2 = true ∧
    (frameAt frame2' 3).val = false ∧ (frameAt frame2' 2).val = true ∧ (frameAt frame2' 2).cv = false ∧
    (opAt (asksTable (.free 3 1 none elS 3) frame2') elS 3).isSome ∧ (regionOf frame2' elS).isSome ∧
    frameOpEnabled (asksTable (.free 2 0 none elS 3) frame2') 2 = true := by decide +kernel

/-- A NEXT and a LOOPN emission that waited for their tag, and the release of the root frame. -/
def waitsTag (q : FrameReq) : State := { frame2' with chip := { frame2'.chip with fwaits := [⟨8, q, 0⟩] } }
theorem witness_FramesGrantedAndReleased_tags : frameGrantEnabled (waitsTag (.next 2 1 elS 3)) 8 = true ∧ (FrameReq.next 2 1 elS 3).tagFrame = some 2 ∧
    frameGrantEnabled (waitsTag (.loop 2 1 1 false elS 6)) 8 = true ∧ (FrameReq.loop 2 1 1 false elS 6).tagFrame = some 2 ∧
    waitAt (waitsTag (.next 2 1 elS 3)) 8 = some ⟨8, .next 2 1 elS 3, 0⟩ := by decide +kernel
theorem witness_FramesGrantedAndReleased_root : region.rootFrame = some 2 ∧
    regionOfFrame (withRegion freeing { region with rootFrame := some 9 }) 2 = some { region with rootFrame := some 9 } ∧
    frameReleaseEnabled (withRegion freeing { region with rootFrame := some 9 }) 8 = true := by decide +kernel

/-- Requests that end: of a condition word, of an engine's write and read, of a fill, of a mill, and a dead one. -/
def ends (c : Client) (op : ROp) (dead : Bool) : State :=
  withNet (withReqs adding [{ request c op [] with dead := dead }]) [msg 2 elS (.done 40)]
theorem witness_RequestsEnd_clients : (∀ y ∈ [(Client.condw elS 3, ROp.store), (.eng elQ 20 0, .engWrite), (.eng elQ 20 0, .engRead), (.fill 7 0, .engRead),
    (.mill tile 0, .engRead)], doneEnabled (ends y.1 y.2 false) 2 = true ∧ doneOf (ends y.1 y.2 false) 2 = some (request y.1 y.2 [])) ∧
    doneEnabled (ends (.eng elQ 20 0) .engRead true) 2 = true := by decide +kernel

/-- The merge unit at an end token: of side A before side B's, after it, of side B after side A's, and at a record out of order. -/
def endRec : Wide × Tag := (ofWord 0x80000000, 129)
def merge0 : Merge := (withQ up id |> fun s => (qAt s elQ).merge)
theorem witness_MergeEnds : recEnd endRec.1 = true ∧ merge0.skip = false ∧ merge0.doneA = false ∧ merge0.doneB = false ∧
    recEnd (rec1 1).1 = false ∧ mrgOrdered (0, false) 2 (recKey (rec1 1).1) = false := by decide +kernel

/-- The bytes of a push, and a stream whose window holds its next block. -/
theorem witness_RingsTakePushes_bytes : ring0.size % 16 = 0 ∧ ring0.tpos < ring0.count ∧ push.data.length ≤ ring0.count ∧
    ringHandle.ext ≤ ringHandle.bankCount * 2048 ∧ ringEntry pushing ring0 = some ({ region with handles := [(3, ringHandle)] }, ringHandle) := by decide +kernel
theorem witness_RingsTakePushes_gone : ringEntry { up with chip := { up.chip with rings := [ring0], pushes := [push] } } ring0 = none ∧
    pushEnabled { up with chip := { up.chip with rings := [ring0], pushes := [push] } } 6 = true ∧
    regionOf { up with chip := { up.chip with rings := [ring0], pushes := [push] } } tile = some region := by decide +kernel
def windowed' : EngOp := { eng .strmi 20 with h2 := 3, next := 1, d0 := none, open' := [0] }
def windowRing0 : Ring := { ring0 with tail := 1, tpos := 1 }
def windowState : State :=
  let s := withRegion (withQ up fun q => { q with engs := [windowed'], streams := [inStream] }) { region with handles := [(3, ringHandle)] }
  { s with chip := { s.chip with rings := [windowRing0] } }
theorem witness_StreamsSendBlocks_window : blockEnabled windowState elQ 20 = true ∧ engAt windowState elQ 20 = some windowed' ∧
    arrivedReads windowState elQ 20 = [] ∧ windowRing windowState elQ windowed' = some windowRing0 ∧ ringAt windowState tile 0 = some windowRing0 ∧
    slotBad windowState windowRing0 0 = false ∧ streamAt windowState elQ 2 = some inStream ∧ (regionOf windowState elQ).isSome := by decide +kernel

/-- CSRW: no walk in the access processor, one of CSRW, one of another instruction. -/
def walkOf' (code : Nat) : Walk :=
  { p := elA, op := 3, code := code, entry := 4, tag := 129, out := 129, d0 := some 0, d1 := none, rel := false, h := 4, row := 0, chunk := 0,
    phase := 0, k := 0, p0 := 0, p1 := 0, last := 0, idx := 0, rawv := false, pack := false, chk := false, tile := tile, q := 0, buf := 0,
    fill := 0, bytes := [], pushes := 0, emit := 0 }
def walkingAp (code : Nat) : State := { atH elA with chip := { (atH elA).chip with walks := [walkOf' code] } }
theorem witness_RowWalks_idle : (∀ w ∈ (walkingAp 0xC8).chip.walks, w.p = (firing elA).pos → w.code ≠ 0xC7) ∧
    ¬ (∀ w ∈ (walkingAp 0xC7).chip.walks, w.p = (firing elA).pos → w.code ≠ 0xC7) := by decide +kernel

/-- Requests whose last reply is back: those answered by a message, a graph engine's read, a record's write. -/
theorem witness_RequestsReturn_messages : (∀ c ∈ [Client.condw elS 3, .eng elQ 20 0, .fill 7 0, .mill tile 0, .walk elA 3],
    performEnabled (memOf (lastBack c .engRead)) 40 0 = true) ∧ performEnabled (memOf (lastBack .instr .store)) 40 0 = true ∧
    (lastBack .instr .store).silent = true := by decide +kernel
def fetched1 : State :=
  let s := memOf { lastBack (.fetch 9 0 0) .engRead with n := 8 }
  { s with chip := { s.chip with fetches := [⟨9, .params 7, 1, [some [0, 0, 0, 0, 0, 0, 0, 0]]⟩] } }
theorem witness_RequestsReturn_engines : performEnabled fetched1 40 0 = true ∧ (fetched1.chip.fetches.find? (fun y => y.id = 9)).isSome ∧
    performEnabled (memOf (lastBack (.record (some 11)) .engWrite)) 40 0 = true := by decide +kernel

/-- Walks that end: with the leaf a store kept, of a fill, of a part whose frame is parked for it. -/
def keeps (leaf : Word) : MemReq := { valid .instr .store [missing] with pins := [(0, (2, leaf))] }
def walkEnds (q : MemReq) : State :=
  let s := memOf q
  { s with chip := { s.chip with misses := [walking 2 (some 0)] } }
theorem witness_WalksEnd_pinned : walkEnabled (walkEnds (keeps 0xF000000000000000)) 60 = true ∧
    pinnedLeaf (walkEnds (keeps 0xF000000000000000)) 40 0 = some (2, 0xF000000000000000) ∧
    permitted (walkEnds (keeps 0xF000000000000000)) (keeps 0xF000000000000000) 2 0xF000000000000000 4096 = true ∧
    permitted (walkEnds (keeps 0xC000000000000000)) (keeps 0xC000000000000000) 2 0xC000000000000000 4096 = false ∧
    walkEnabled (walkEnds (valid (.fill 7 0) .engRead [missing])) 60 = true ∧ pinnedLeaf (walkEnds (valid (.fill 7 0) .engRead [missing])) 40 0 = none := by decide +kernel
def owing : Part := { missing with owes := true }
theorem witness_WalksEnd_owes : walkEnabled (walkEnds (valid .instr .store [owing])) 60 = true ∧ owing.owes = true ∧ missing.owes = false ∧
    partAtReq (walkEnds (valid .instr .store [owing])) 40 0 = some (valid .instr .store [owing], owing) := by decide +kernel

/-- Rows with adapter 1, whose lines the cache holds, or does not; a row of an adapter the table lacks, of broken metadata, of an empty chunk. -/
def entryBytes : List Byte := [0, 0, 0, 0, 1, 5, 5] ++ List.replicate 25 0
def withAdapter (n : Nat) (o : MatOp) (r : MatRun) (lines : List AdjLine) : State :=
  let s := matrix { MatState.reset with queue := [o], run := some r, ctx := some (5, 0, 0) }
  let s := withRegion s { region with handles := [(3, { ringHandle with w2 := 4096 }), (5, { hbmEntry with w2 := 4096 })] }
  { s with chip := { s.chip with adjunct := lines, rings := [{ fullRing 0 with side := [(0, BitVec.ofNat 40 n)] }, fullRing 1] } }
def adOp : MatOp := { mmaOp opMma 0 with x := { (mmaOp opMma 0).x with ad := true } }
def line' (key : AdjKey) (b : List Byte) : AdjLine := ⟨0, 0, 0, 4096, key, b, 1, 0⟩
def heldRow : State := withAdapter 1 adOp (matRun .rows) [line' (.entry 1) entryBytes, line' (.a 1 0 0) (List.replicate 768 0)]
theorem witness_MatrixRows_held : rowEnabled heldRow elM = true ∧ matRunning heldRow elM = some (adOp, matRun .rows) ∧
    (Claims.heldLines heldRow elM adOp (matRun .rows) 1).isSome ∧ badSlot heldRow elM = false ∧
    (ringA heldRow elM adOp).map (fun g => ((slotSide g g.rpos).extractLsb' 0 16).toNat) = some 1 := by decide +kernel
def missedRow : State := withAdapter 1 adOp (matRun .rows) []
theorem witness_MatrixRows_deferred : rowEnabled missedRow elM = true ∧ Claims.heldLines missedRow elM adOp (matRun .rows) 1 = none ∧
    (tableAt missedRow elM).isSome ∧ (rowNeeds missedRow elM adOp 0 1 none).isSome ∧ (matRun .rows).failed = false ∧
    Claims.heldLine missedRow elM 0 4096 (entryNeed 5 1) = none := by decide +kernel
def farRow : State := withAdapter 200 adOp (matRun .rows) []
theorem witness_MatrixRows_bad : rowEnabled farRow elM = true ∧ Claims.adapterBad farRow elM adOp (matRun .rows) region 200 ∧ injects farRow elM = true :=
  ⟨by decide +kernel, .inl (by decide +kernel), by decide +kernel⟩
def nmOp : MatOp := { mmaOp opMma 0 with x := { (mmaOp opMma 0).x with nm := true } }
def nmRow : State := withAdapter 0 nmOp (matRun .rows) []
theorem witness_MatrixRows_broken : rowEnabled nmRow elM = true ∧ (nmOp.x.nm && nmBroken (slotBytes nmRow (fullRing 0) 0) nmOp.values) = true := by
  decide +kernel
def emptyRow : MatRun := { matRun .rows with emptyMask := 7 }
theorem witness_MatrixRows_empty : rowEnabled (matrix { queued opMmap with run := some emptyRow }) elM = true ∧ (mmaOp opMmap 0).op = opMmap := by
  decide +kernel

/-- An MMAP of a region that has no mill context; it has begun as faulty. -/
theorem witness_MatrixBegins_noContext : beginEnabled (matrix (queued opMmap)) elM = true ∧ mmapContext (matrix (queued opMmap)) elM = none := by decide +kernel

/-- An expansion that a context begins, and the binding of one. -/
def expanding : State := milling expandReq { expandCtx with busy := false, reqs := [] }
theorem witness_MillContexts_expansion : millReqEnabled expanding elA 2 = true ∧ (nextMillReq expanding elA 2).map (·.2) = some expandReq ∧
    (match expansionOf expanding elA 2 expandReq with | .ok _ => true | .error _ => false) = true ∧ (millAt expanding elA 2).failed = false ∧
    (match expansionOf (milling { expandReq with h := 13 } MillCtx.reset) elA 2 { expandReq with h := 13 } with | .ok _ => false | .error _ => true) = true := by
  decide +kernel
def bindReq : MillReq := millReq (.bind 0 2 0) 12 0
theorem witness_MillContexts_binding : millReqEnabled (milling bindReq MillCtx.reset) elA 2 = true ∧ (walkTile (milling bindReq MillCtx.reset) elA 0).isSome ∧
    (opAt (milling bindReq MillCtx.reset) elA 3).isSome := by decide +kernel

/-- A region whose root frame is next, and a share whose image takes parameter words. -/
theorem witness_InstancesAreInstalled_root : loadDone (phased (.rooting 0) none) 1 = true ∧
    (rootOf' (phased (.rooting 0) none) (inPhase (.rooting 0) none)).isSome := by decide +kernel

/-- A token on its way, and a lookup of a key that was looked for. -/
theorem witness_ErrorsInStorage_token : onTheWay (withNet up [distant (token 4 0).hdr]) 1 = true ∧
    (badHolder (withNet up [distant (token 4 0).hdr]) (.token 1)).isSome = true ∧ (msgAt (withNet up [distant (token 4 0).hdr]) 1).isSome := by decide +kernel
def keyLooked : State := withElem adding elS fun e => { e with looks := [⟨9, keyOf .s false 4 3 129, .looking 0⟩] }
theorem witness_CellarMoves_key : cellarDone keyLooked elS 9 = true ∧ (elemAt keyLooked elS).entries.find? (fun x => x.id = 9) = none := by decide +kernel

/-- A run that an element launched, whose region is saved. -/
def runOfSaved : State :=
  let r := { runOf [nodeAt 0 0 .complete [] false] with origin := .elem elQ 9 129 129 [0] false }
  let s := graphState [] []
  { s with chip := { s.chip with runs := [r], regions := [], saved := [{ savedRegion with region := { region with id := 9 } }] } }
theorem witness_RunsEnd_saved : runEndEnabled runOfSaved 5 = true ∧ inImage runOfSaved 9 = true := by decide +kernel
def withParams : State :=
  { pooled with chip := { pooled.chip with
      images := [(0, 0, { graphState.goodImage with configs := [{ noConfig with handles := [{ decl 3 .hbm false with base := some 0 }] }, noConfig] })] } }
def isFetch (a : DispatchAct) : Bool := match a with | .fetch _ => true | _ => false
theorem witness_InstancesAreInstalled_fetch : (pool withParams 0)[0]? = some (share 0) ∧ dispatchAct withParams 0 0 ≠ .none ∧
    isFetch (dispatchAct { withParams with nextId := withParams.nextId + 1 } 0 0) = true := by decide +kernel

end Sys2Proof.Tests
end

