-- ==== Sys2Proof/Proofs/Firings.lean ====
section
/-! How a firing ends: the body of its instruction, once the firing has been taken up, and the body that raises a region error. -/

namespace Sys2Proof.Proofs.Firings

open Sys2Proof Sys2Proof.Machine Sys2Proof.Laws.Ops Sys2Proof.Laws.Element

/-- An instruction that acts on the firing taken up completes with what its body leaves. -/
theorem completes_of_onFiring {i : Instr} {s : State} {f : Firing} {body : Firing → Prog} {P : State → Prop}
    (hexec : exec i s = onFiring body s) (hcur : s.cur = some f) (h : P (after (body f) s)) : Completes i s P :=
  ⟨_, hexec.trans (onFiring_next hcur body), h⟩

/-- A body that is another in this state leaves what that one leaves. -/
theorem after_congr {p q : Prog} {s : State} (h : p s = q s) : after p s = after q s := congrArg (applyAll · s) h

/-- What a firing leaves does not depend on which free values have been drawn before it. -/
theorem leaves_of_free {s t : State} {n : Nat} {f : Firing} {x : Issue} {bodies : Nat → List Body}
    (h : Leaves { s with free := n } f x bodies t) : Leaves s f x bodies t := h

/-- The messages of a region error: one to the home control point of the element's region, none from an element of no region
(R361). -/
def errorMsgs (src : Pos) (code entry : Nat) (tag : Tag) (value : Word) (s : State) : List Msg :=
  (regionOf s src).toList.map fun r =>
    controlMsg src (controlPoint r.homeClu) (.error r.id ⟨code, src, entry, tag, value⟩) s

theorem after_raiseError (src : Pos) (code entry : Nat) (tag : Tag) (value : Word) (s : State) :
    after (raiseError src code entry tag value) s =
      { s with chip := { s.chip with net := s.chip.net ++ errorMsgs src code entry tag value s },
               nextId := s.nextId + (errorMsgs src code entry tag value s).length } := by
  rw [raiseError, after_reading, errorMsgs]
  cases regionOf s src with
  | none => simp
  | some r => exact after_control ..

/-- A firing that fails leaves in its element only the moment of the firing, and the messages of its error (R10, R95). -/
theorem after_failFiring (f : Firing) (code : Nat) (value : Word) (s : State) :
    after (failFiring f code value) s =
      { s with
        chip := { s.chip with
          elems := modKey Elem.reset f.pos (fun e => { e with lastFire := some s.fc }) s.chip.elems,
          net := s.chip.net ++ errorMsgs f.pos code f.entry f.tag value s },
        nextId := s.nextId + (errorMsgs f.pos code f.entry f.tag value s).length,
        cur := none } := by
  rw [failFiring, after_seqAll_cons, after_seqAll_cons, after_raiseError]
  rfl

/-- A firing that fails raises its error and does nothing else (R10, R95). -/
theorem failFiring_raises (s : State) (f : Firing) (code : Nat) (value : Word) :
    Claims.Raises s f code value (after (failFiring f code value) s) := by
  rw [after_failFiring]
  refine ⟨by simp [elemAt], fun p hp => by simp [elemAt, getKey_modKey_other _ hp], rfl,
    ⟨fun _ => rfl, fun _ => rfl, fun _ => rfl⟩, ⟨rfl, rfl, rfl, rfl, rfl, rfl, rfl⟩, rfl, ?_⟩
  simp only [errorMsgs]
  cases regionOf s f.pos with
  | none => exact List.append_nil _
  | some r => exact ⟨_, rfl, rfl, rfl⟩

end Sys2Proof.Proofs.Firings
end

