-- ==== Sys2Proof/Proofs/YieldAndTraps.lean ====
section
/-! YIELD, TRAP and ASSERT (spec/03 R94, R95). -/

namespace Sys2Proof.Proofs.YieldAndTraps

open Sys2Proof Sys2Proof.Machine Sys2Proof.Laws.Ops Sys2Proof.Laws.Element Sys2Proof.Proofs.Firings

theorem exec_yield (o : Ops2) (s : State) : exec (.yield o) s = onFiring (yieldValue o) s := rfl

theorem exec_trap (sa : Src) (s : State) : exec (.trap sa) s = onFiring (trapValue sa) s := rfl

theorem exec_assert (o : Ops2) (s : State) : exec (.assert o) s = onFiring (assertValue o) s := rfl

/-- With no yield requested, or the root frame freed, YIELD sends A on (R94, R352). -/
theorem yieldValue_of_passing (o : Ops2) {s : State} {f : Firing}
    (h : ∀ r, regionOf s f.pos = some r → r.yr = false ∨ r.rootFreed = true) :
    yieldValue o f s = forward 0x0A o.ta (sideB s f o.sb) (bothOuts o.d0 o.d1 (sideA s f o.sa) false) f s := by
  unfold yieldValue
  cases hr : regionOf s f.pos with
  | none => rfl
  | some r =>
    rcases h r hr with hy | hfreed
    · simp [hy]
    · simp [hfreed]

/-- The operation of a YIELD that parks: as that of one that sends A on, but held when it has passed the pipeline (R94). -/
def parkingIssue (o : Ops2) (s : State) (f : Firing) (n : Nat) : Issue :=
  ⟨0x0A, o.ta, sideB s f o.sb, some n, bothOuts o.d0 o.d1 (sideA s f o.sa) false, 0, .yielding, false⟩

/-- With a yield requested and the root frame in use, YIELD parks its frame and holds its result (R94, R352). -/
theorem yieldValue_of_parking (o : Ops2) {s : State} {f : Firing} {r : Region} (hr : regionOf s f.pos = some r)
    (hy : r.yr = true) (hroot : r.rootFreed = false) :
    yieldValue o f s = andThen (parkFrame (frameOf f.tag) (.yld true))
      (withFree fun i => issueOp f (parkingIssue o s f (1 + Config.delay i)) fun _ => skip) s := by
  simp [yieldValue, hr, hy, hroot, withLatency, parkingIssue]

/-- YIELD passes its value on or parks, as its region stands (R94, R352). -/
theorem yieldParks : Claims.YieldParks := by
  intro o s f hcur
  refine ⟨fun hpass => completes_of_onFiring (exec_yield o s) hcur ?_, fun r hr hy hroot => ?_⟩
  · rw [after_congr (yieldValue_of_passing o hpass)]
    exact sendAfter_leaves ..
  · refine ⟨1 + Config.delay (after (parkFrame (frameOf f.tag) (.yld true)) s).free, by omega,
      completes_of_onFiring (exec_yield o s) hcur ?_⟩
    rw [after_congr (yieldValue_of_parking o hr hy hroot), after_andThen, after_withFree]
    exact leaves_of_free (issueOp_leaves _ f (parkingIssue o s f _) _ _ fun _ => skip_posts)

/-- TRAP fails its firing (R95). -/
theorem trap_raises (sa : Src) {s : State} {f : Firing} (hcur : s.cur = some f) :
    Completes (.trap sa) s (Claims.Raises s f codeEtrap (lowWord (sideA s f sa))) := by
  refine completes_of_onFiring (exec_trap sa s) hcur ?_
  have failing : trapValue sa f s = failFiring f codeEtrap (lowWord (sideA s f sa)) s := rfl
  rw [after_congr failing]
  exact failFiring_raises ..

/-- ASSERT fails its firing where A is 0 (R95). -/
theorem assert_raises (o : Ops2) {s : State} {f : Firing} (hcur : s.cur = some f) (hA : lowWord (sideA s f o.sa) = 0) :
    Completes (.assert o) s (Claims.Raises s f codeEtrap (lowWord (sideB s f o.sb))) := by
  refine completes_of_onFiring (exec_assert o s) hcur ?_
  have failing : assertValue o f s = failFiring f codeEtrap (lowWord (sideB s f o.sb)) s := if_pos hA
  rw [after_congr failing]
  exact failFiring_raises ..

/-- ASSERT sends on an A that is not 0 (R95). -/
theorem assert_computes (o : Ops2) {s : State} {f : Firing} (hcur : s.cur = some f) (hA : lowWord (sideA s f o.sa) ≠ 0) :
    Computes (.assert o) s f 0x0C o.ta (sideB s f o.sb) none (bothOuts o.d0 o.d1 (sideA s f o.sa) false) 0 := by
  refine completes_of_onFiring (exec_assert o s) hcur ?_
  have passing : assertValue o f s =
      forward 0x0C o.ta (sideB s f o.sb) (bothOuts o.d0 o.d1 (sideA s f o.sa) false) f s := if_neg hA
  rw [after_congr passing]
  exact sendAfter_leaves ..

/-- Settles O14: YIELD by whether its region has a yield requested, TRAP and ASSERT by the one body that raises an error. -/
theorem yieldAndTraps : Obligations.YieldAndTraps :=
  ⟨yieldParks, fun sa _ _ hcur => trap_raises sa hcur, fun o _ _ hcur => ⟨assert_raises o hcur, assert_computes o hcur⟩⟩

end Sys2Proof.Proofs.YieldAndTraps
end

