-- ==== Sys2Proof/Proofs/Lanes.lean ====
section
/-! The lanes of a wide payload, and the firings of V that compute on them (spec/07 R169). -/

namespace Sys2Proof.Proofs.Lanes

open Sys2Proof Sys2Proof.Machine Sys2Proof.Laws.Element Sys2Proof.Proofs.Firings

/-! ## Lanes -/

theorem lane_cons_zero (x : BitVec 32) (w : Wide) : lane (x.zeroExtend 512 ||| w <<< 32) 0 = x := by
  ext j hj
  simp [lane, hj, show j < 512 by omega]

theorem lane_cons_succ (x : BitVec 32) (w : Wide) {i : Nat} (hi : i + 1 < 16) :
    lane (x.zeroExtend 512 ||| w <<< 32) (i + 1) = lane w i := by
  ext j hj
  have hpos : 32 * (i + 1) + j = 32 * i + j + 32 := by omega
  have hin : 32 * i + j + 32 < 512 := by omega
  simp [lane, hpos, hin, BitVec.getLsbD_eq_getElem (show 32 * i + j < 512 by omega)]

/-- A lane of a payload made from its lanes; missing ones are 0. -/
theorem lane_ofLanes (l : List (BitVec 32)) {i : Nat} (hi : i < 16) : lane (ofLanes l) i = l.getD i 0 := by
  induction l generalizing i with
  | nil => simp [ofLanes, lane]
  | cons x l ih =>
    cases i with
    | zero => exact lane_cons_zero ..
    | succ i => exact (lane_cons_succ x _ hi).trans (ih (by omega))

/-- A lane of a payload given lane by lane. -/
theorem lane_ofLanes_map (g : Nat → BitVec 32) {i : Nat} (hi : i < 16) : lane (ofLanes ((List.range 16).map g)) i = g i := by
  simp [lane_ofLanes _ hi, hi]

theorem lanes_ofLanes_map (g : Nat → BitVec 32) : lanes (ofLanes ((List.range 16).map g)) = (List.range 16).map g :=
  List.map_congr_left fun _ hi => lane_ofLanes_map g (List.mem_range.1 hi)

/-- An operation in each lane, with the flags of the lanes ORed (R170). -/
theorem mapLanes2_eq (g : BitVec 32 → BitVec 32 → BitVec 32 × Flags) (a b : Wide) : mapLanes2 g a b =
    (ofLanes ((List.range 16).map fun i => (g (lane a i) (lane b i)).1),
      (List.range 16).foldl (fun fl i => fl ||| (g (lane a i) (lane b i)).2) 0) := by
  simp only [mapLanes2, List.map_map, List.foldl_map, Function.comp_def]

/-! ## Firings of V -/

/-- An instruction of V of two sides sends its wide result (R169). -/
theorem sends_of_vec2 {i : Instr} {s : State} {f : Firing} {op lat : Nat} {o : Ops2}
    {g : FpCtl → Wide → Wide → Wide × Flags} (hexec : exec i s = onFiring (vec2 op o lat g) s) (hcur : s.cur = some f) :
    let r := g (ctlAt s f) (sideA s f o.sa) (sideB s f o.sb)
    Claims.SendsWide i s f op o lat r.1 r.2 := by
  intro r
  refine completes_of_onFiring hexec hcur ?_
  have sending : vec2 op o lat g f s =
      sendAfter f op o.ta (sideB s f o.sb) (some lat) (bothOuts o.d0 o.d1 r.1 true) r.2 s := rfl
  rw [after_congr sending]
  exact sendAfter_leaves ..

/-- An instruction of V of two sides sends its narrow result (R169). -/
theorem sends_of_vecNarrow2 {i : Instr} {s : State} {f : Firing} {op lat : Nat} {o : Ops2}
    {g : FpCtl → Wide → Wide → Word × Flags} (hexec : exec i s = onFiring (vecNarrow2 op o lat g) s)
    (hcur : s.cur = some f) :
    let r := g (ctlAt s f) (sideA s f o.sa) (sideB s f o.sb)
    Claims.SendsWord i s f op o lat r := by
  intro r
  refine completes_of_onFiring hexec hcur ?_
  have sending : vecNarrow2 op o lat g f s =
      sendAfter f op o.ta (sideB s f o.sb) (some lat) (bothOuts o.d0 o.d1 (ofWord r.1) false) r.2 s := rfl
  rw [after_congr sending]
  exact sendAfter_leaves ..

/-- An instruction of V of side A alone computes its narrow result (R169). -/
theorem computes_of_vecNarrow1 {i : Instr} {s : State} {f : Firing} {op lat : Nat} {o : Ops1}
    {g : FpCtl → Wide → Word × Flags} (hexec : exec i s = onFiring (vecNarrow1 op o lat g) s) (hcur : s.cur = some f) :
    let r := g (ctlAt s f) (sideA s f o.sa)
    Computes i s f op o.ta 0 (some lat) (bothOuts o.d0 o.d1 (ofWord r.1) false) r.2 := by
  intro r
  refine completes_of_onFiring hexec hcur ?_
  have sending : vecNarrow1 op o lat g f s =
      sendAfter f op o.ta 0 (some lat) (bothOuts o.d0 o.d1 (ofWord r.1) false) r.2 s := rfl
  rw [after_congr sending]
  exact sendAfter_leaves ..

end Sys2Proof.Proofs.Lanes
end

