-- ==== Sys2Proof/Proofs/Reductions.lean ====
section
/-! The fixed tree, VRSUM, VRMAX, VDOT and VSCAN (spec/05 R139, spec/07 R182, R183). -/

namespace Sys2Proof.Proofs.Reductions

open Sys2Proof Sys2Proof.Machine Sys2Proof.Proofs.Lanes

theorem exec_vrsum (o : Ops1) (s : State) :
    exec (.vrsum o) s = onFiring (vecNarrow1 0x70 o 16 fun c a => reduced (tree16 (fadd c) (lanes a))) s := rfl

theorem exec_vrmax (o : Ops1) (s : State) :
    exec (.vrmax o) s = onFiring (vecNarrow1 0x71 o 5 fun c a => reduced (tree16 (fminmax true c) (lanes a))) s := rfl

theorem exec_vscan (o : Ops2) (s : State) :
    exec (.vscan o) s = onFiring (vec2 0x72 o 16 fun c a b => vscan c a (lane b 0)) s := rfl

theorem exec_vdot (o : Ops2) (s : State) : exec (.vdot o) s = onFiring (vecNarrow2 0x87 o 20 vdot) s := rfl

section
variable (op : BitVec 32 → BitVec 32 → BitVec 32 × Flags)

/-! ## The tree -/

/-- One step of the tree: the operation on two values, and the flags so far with those of the step. -/
def node (x y : BitVec 32 × Flags) : BitVec 32 × Flags := ((op x.1 y.1).1, x.2 ||| y.2 ||| (op x.1 y.1).2)

/-- One level of the tree: the values 2i and 2i + 1 give value i. -/
def level (l : List (BitVec 32 × Flags)) : List (BitVec 32 × Flags) :=
  (List.range (l.length / 2)).map fun i => node op (l.getD (2 * i) (0, 0)) (l.getD (2 * i + 1) (0, 0))

theorem tree16_eq_levels (xs : List (BitVec 32)) :
    tree16 op xs = (level op (level op (level op (level op (xs.map fun x => (x, 0)))))).headD (0, 0) := rfl

/-- A level of 2n values given one by one has n values. -/
theorem level_map_range (n : Nat) (g : Nat → BitVec 32 × Flags) :
    level op ((List.range (2 * n)).map g) = (List.range n).map fun i => node op (g (2 * i)) (g (2 * i + 1)) := by
  have hlen : ((List.range (2 * n)).map g).length / 2 = n := by simp
  rw [level, hlen]
  refine List.map_congr_left fun i hi => ?_
  have hi : i < n := List.mem_range.1 hi
  simp [show 2 * i < 2 * n by omega, show 2 * i + 1 < 2 * n by omega]

/-- Four levels reduce sixteen lanes to one value. -/
theorem reductionTree : Claims.ReductionTree := by
  intro op a
  have hlanes : (lanes a).map (fun x => (x, (0 : Flags))) = (List.range (2 * 8)).map fun i => (lane a i, 0) := by
    simp [lanes]
  rw [tree16_eq_levels, hlanes, level_map_range, level_map_range op 4, level_map_range op 2, level_map_range op 1]
  rfl

/-! ## The passes of a scan -/

/-- The flags of the pass at distance 2^k, ORed into those of the passes before it. -/
def passFlags (y : Nat → BitVec 32) (k : Nat) (g : Flags) : Flags :=
  (List.range 16).foldl (fun g i => if i < 2 ^ k then g
    else g ||| (op (Claims.scanLane op y k (i - 2 ^ k)) (Claims.scanLane op y k i)).2) g

/-- What the pass at distance 2^k gives for lane i, with the flags of its step (R183). -/
def scanStep (y : Nat → BitVec 32) (k i : Nat) : BitVec 32 × Flags :=
  if i < 2 ^ k then (Claims.scanLane op y k i, 0)
  else op (Claims.scanLane op y k (i - 2 ^ k)) (Claims.scanLane op y k i)

theorem scanStep_fst (y : Nat → BitVec 32) (k i : Nat) : (scanStep op y k i).1 = Claims.scanLane op y (k + 1) i := by
  by_cases hk : i < 2 ^ k
  · simp only [scanStep, Claims.scanLane, if_pos hk]
  · simp only [scanStep, Claims.scanLane, if_neg hk]

theorem or_scanStep_snd (y : Nat → BitVec 32) (k i : Nat) (g : Flags) : g ||| (scanStep op y k i).2 =
    if i < 2 ^ k then g else g ||| (op (Claims.scanLane op y k (i - 2 ^ k)) (Claims.scanLane op y k i)).2 := by
  by_cases hk : i < 2 ^ k
  · simp only [scanStep, if_pos hk]
    exact BitVec.or_zero
  · simp only [scanStep, if_neg hk]

theorem getD_map_range (u : Nat → BitVec 32) {i : Nat} (hi : i < 16) : ((List.range 16).map u).getD i 0 = u i := by
  rw [List.getD_eq_getElem?_getD, List.getElem?_map, List.getElem?_range hi, Option.map_some, Option.getD_some]

/-- One pass takes the lanes after k passes to those after k + 1 (R183). -/
theorem scanPass_scanLane (y : Nat → BitVec 32) (k : Nat) (g : Flags) :
    scanPass op (2 ^ k) ((List.range 16).map (Claims.scanLane op y k)) g =
      ((List.range 16).map (Claims.scanLane op y (k + 1)), passFlags op y k g) := by
  let u := (List.range 16).map (Claims.scanLane op y k)
  have steps : ((List.range 16).map fun i => if i < 2 ^ k then (u.getD i 0, 0) else op (u.getD (i - 2 ^ k) 0) (u.getD i 0)) =
      (List.range 16).map (scanStep op y k) := by
    refine List.map_congr_left fun i hi => ?_
    have hi : i < 16 := List.mem_range.1 hi
    have hbelow : i - 2 ^ k < 16 := Nat.lt_of_le_of_lt (Nat.sub_le ..) hi
    simp only [u, scanStep, getD_map_range _ hi, getD_map_range _ hbelow]
  simp only [u] at steps
  simp only [scanPass, steps, List.map_map, List.foldl_map, Function.comp_def, scanStep_fst, or_scanStep_snd, passFlags]

/-- The first n passes. -/
theorem foldl_scanPass (y : Nat → BitVec 32) (n : Nat) :
    ((List.range n).map (2 ^ ·)).foldl (fun x d => scanPass op d x.1 x.2) ((List.range 16).map y, (0 : Flags)) =
      ((List.range 16).map (Claims.scanLane op y n), (List.range n).foldl (fun g k => passFlags op y k g) 0) := by
  induction n with
  | zero => rfl
  | succ n ih => simp only [List.range_succ (n := n), List.map_append, List.map_singleton, List.foldl_append, List.foldl_cons,
      List.foldl_nil, ih, scanPass_scanLane]

end

/-- The lanes a scan begins with: those of A, or A moved up one lane with the operation's neutral value in lane 0 (R183). -/
def scanStart (a : Wide) (ctl : BitVec 32) (i : Nat) : BitVec 32 :=
  if ctl.getLsbD 1 then (if i = 0 then (if ctl.getLsbD 0 then 0xFF800000 else 0) else lane a (i - 1)) else lane a i

theorem scanStart_lanes (a : Wide) (ctl : BitVec 32) :
    (if ctl.getLsbD 1 then (if ctl.getLsbD 0 then 0xFF800000 else 0) :: (lanes a).take 15 else lanes a) =
      (List.range 16).map (scanStart a ctl) := by
  by_cases hx : ctl.getLsbD 1 = true
  · have moved : (List.range 16).map (scanStart a ctl) =
        scanStart a ctl 0 :: (List.range 15).map (scanStart a ctl ∘ (· + 1)) := by
      rw [List.range_succ_eq_map, List.map_cons, List.map_map]
    rw [if_pos hx, moved, lanes, ← List.map_take, List.take_range]
    simp [scanStart, hx]
  · rw [if_neg hx, lanes]
    exact List.map_congr_left fun i _ => (if_neg hx).symm

/-- The operation of a scan: a sum or a maximum (R183). -/
def scanOp (c : FpCtl) (ctl : BitVec 32) : BitVec 32 → BitVec 32 → BitVec 32 × Flags :=
  if ctl.getLsbD 0 then fminmax true c else fadd c

/-- A scan is four passes over the lanes it begins with. -/
theorem vscan_eq (c : FpCtl) (a : Wide) (ctl : BitVec 32) : vscan c a ctl =
    (ofLanes ((List.range 16).map (Claims.scanLane (scanOp c ctl) (scanStart a ctl) 4)),
      (List.range 4).foldl (fun g k => passFlags (scanOp c ctl) (scanStart a ctl) k g) 0) := by
  have passes := foldl_scanPass (scanOp c ctl) (scanStart a ctl) 4
  rw [← scanStart_lanes] at passes
  exact congrArg (fun r => (ofLanes r.1, r.2)) passes

/-- The tree over the lane products, with the flags of the products and of the tree (R182). -/
theorem vdot_eq (c : FpCtl) (a b : Wide) : vdot c a b =
    let r := tree16 (fadd c) ((List.range 16).map fun i => (fmul c (lane a i) (lane b i)).1)
    (r.1.zeroExtend 64, (List.range 16).foldl (fun fl i => fl ||| (fmul c (lane a i) (lane b i)).2) 0 ||| r.2) := by
  simp only [vdot, mapLanes2_eq, lanes_ofLanes_map]

/-! ## The four instructions -/

theorem vrsum_computes (o : Ops1) {s : State} {f : Firing} (hcur : s.cur = some f) :
    let sum := tree16 (fadd (ctlAt s f)) (lanes (sideA s f o.sa))
    Computes (.vrsum o) s f 0x70 o.ta 0 (some 16) (bothOuts o.d0 o.d1 (ofWord (sum.1.zeroExtend 64)) false) sum.2 := by
  simpa only [reduced] using computes_of_vecNarrow1 (exec_vrsum o s) hcur

theorem vrmax_computes (o : Ops1) {s : State} {f : Firing} (hcur : s.cur = some f) :
    let top := tree16 (fminmax true (ctlAt s f)) (lanes (sideA s f o.sa))
    Computes (.vrmax o) s f 0x71 o.ta 0 (some 5) (bothOuts o.d0 o.d1 (ofWord (top.1.zeroExtend 64)) false) top.2 := by
  simpa only [reduced] using computes_of_vecNarrow1 (exec_vrmax o s) hcur

theorem vscan_sends (o : Ops2) {s : State} {f : Firing} (hcur : s.cur = some f) :
    let c := ctlAt s f
    let ctl := lane (sideB s f o.sb) 0
    let y := scanStart (sideA s f o.sa) ctl
    Claims.SendsWide (.vscan o) s f 0x72 o 16 (ofLanes ((List.range 16).map (Claims.scanLane (scanOp c ctl) y 4)))
      ((List.range 4).foldl (fun g k => passFlags (scanOp c ctl) y k g) 0) := by
  have sends := sends_of_vec2 (exec_vscan o s) hcur
  rwa [vscan_eq] at sends

theorem vdot_sends (o : Ops2) {s : State} {f : Firing} (hcur : s.cur = some f) :
    Claims.SendsWord (.vdot o) s f 0x87 o 20 (vdot (ctlAt s f) (sideA s f o.sa) (sideB s f o.sb)) :=
  sends_of_vecNarrow2 (exec_vdot o s) hcur

/-- The reductions by the tree, and the scan by its passes. -/
theorem vectorReductions : Claims.VectorReductions := by
  refine ⟨fun o s f hcur => ⟨vrsum_computes o hcur, vrmax_computes o hcur⟩,
    fun o s f hcur => ⟨⟨_, _, fun i hi => lane_ofLanes_map _ hi, rfl, vscan_sends o hcur⟩, ⟨_, _, rfl, rfl, ?_⟩⟩⟩
  have sends := vdot_sends o hcur
  rwa [vdot_eq] at sends

/-- Settles O10: the tree level by level, the scan pass by pass. -/
theorem reductions : Obligations.Reductions := ⟨reductionTree, vectorReductions⟩

end Sys2Proof.Proofs.Reductions
end

