-- ==== Sys2Proof/Proofs/Scalars.lean ====
section
/-! The firings of S that send one 64-bit result, and the integer instructions that add, multiply and compare (spec/06 R142, R147,
R150). -/

namespace Sys2Proof.Proofs.Scalars

open Sys2Proof Sys2Proof.Machine Sys2Proof.Laws.Element Sys2Proof.Proofs.Firings

/-! ## Firings of S -/

/-- An instruction whose body is to send values after a latency computes them (R142). -/
theorem computes_of_sending {i : Instr} {s : State} {f : Firing} {body : Firing → Prog} {op lat : Nat} {ta : TagAction}
    {b : Wide} {outs : List Out} {flags : Flags} (hexec : exec i s = onFiring body s) (hcur : s.cur = some f)
    (sending : body f s = sendAfter f op ta b (some lat) outs flags s) : Computes i s f op ta b (some lat) outs flags := by
  refine completes_of_onFiring hexec hcur ?_
  rw [after_congr sending]
  exact sendAfter_leaves ..

section
variable {i : Instr} {s : State} {f : Firing} {op lat : Nat}

/-- An instruction of two sides sends its value. -/
theorem sends_of_alu2 {o : Ops2} {g : Word → Word → Word} (hexec : exec i s = onFiring (alu2 op o lat g) s)
    (hcur : s.cur = some f) {v : Word} (hv : g (Claims.wordA s f o) (Claims.wordB s f o) = v) : Claims.Sends i s f op o lat v :=
  hv ▸ computes_of_sending hexec hcur rfl

/-- An instruction of two sides sends its value after 1 fc, given bit by bit. -/
theorem sendsBits_of_alu2 {o : Ops2} {g : Word → Word → Word} (hexec : exec i s = onFiring (alu2 op o 1 g) s)
    (hcur : s.cur = some f) {bit : Nat → Bool}
    (hbit : ∀ j, j < 64 → (g (Claims.wordA s f o) (Claims.wordB s f o)).getLsbD j = bit j) : Claims.SendsBits i s f op o bit :=
  ⟨_, hbit, sends_of_alu2 hexec hcur rfl⟩

/-- An instruction of side A alone sends its value. -/
theorem computes_of_alu1 {o : Ops1} {g : Word → Word} (hexec : exec i s = onFiring (alu1 op o lat g) s)
    (hcur : s.cur = some f) {v : Word} (hv : g (lowWord (sideA s f o.sa)) = v) :
    Computes i s f op o.ta 0 (some lat) (bothOuts o.d0 o.d1 (ofWord v) false) 0 :=
  hv ▸ computes_of_sending hexec hcur rfl

/-- An FP32 instruction of side A alone sends its value with its flags. -/
theorem computes_of_fpu1 {o : Ops1} {g : FpCtl → Word → Word × Flags} (hexec : exec i s = onFiring (fpu1 op o lat g) s)
    (hcur : s.cur = some f) {v : Word} {flags : Flags} (hv : g (ctlAt s f) (lowWord (sideA s f o.sa)) = (v, flags)) :
    Computes i s f op o.ta 0 (some lat) (bothOuts o.d0 o.d1 (ofWord v) false) flags := by
  refine computes_of_sending hexec hcur ?_
  rw [fpu1, hv]

end

/-! ## Wrapping arithmetic (R147) -/

theorem add_eq_ofInt (x y : Word) : x + y = BitVec.ofInt 64 (x.toInt + y.toInt) := by
  simp [BitVec.ofInt_add]

theorem sub_eq_ofInt (x y : Word) : x - y = BitVec.ofInt 64 (x.toInt - y.toInt) := by
  simp [Int.sub_eq_add_neg, BitVec.ofInt_add, BitVec.ofInt_neg, BitVec.sub_eq_add_neg]

theorem mul_eq_ofInt (x y : Word) : x * y = BitVec.ofInt 64 (x.toInt * y.toInt) := by
  simp [BitVec.ofInt_mul]

/-- Settles O2: each value is the model's own, which wraps. -/
theorem wrappingArithmetic : Obligations.WrappingArithmetic := fun _ _ _ hcur =>
  ⟨sends_of_alu2 (g := fun a b => a + b) rfl hcur (add_eq_ofInt ..),
    sends_of_alu2 (g := fun a b => a - b) rfl hcur (sub_eq_ofInt ..),
    sends_of_alu2 (g := fun a b => a * b) rfl hcur (mul_eq_ofInt ..),
    sends_of_alu2 (g := mulhs) rfl hcur rfl,
    sends_of_alu2 (g := mulhu) rfl hcur rfl⟩

/-! ## Minima, maxima and comparisons (R150) -/

/-- A truth value that is sent is 1 or 0, as its proposition says (R142). -/
theorem ofBool64_of_iff {b : Bool} {p : Prop} [Decidable p] (h : b = true ↔ p) : ofBool64 b = if p then 1 else 0 := by
  simp only [ofBool64, h]

theorem ofBool64_bne (x y : Word) : ofBool64 (x != y) = if x = y then 0 else 1 :=
  (ofBool64_of_iff bne_iff_ne).trans (ite_not ..)

/-- Settles O5: the lesser, the greater and the truth of a comparison, in the order of the integers that the operands stand for. -/
theorem minMaxCompare : Obligations.MinMaxCompare := fun _ _ _ hcur =>
  ⟨sends_of_alu2 (g := mins) rfl hcur rfl,
    sends_of_alu2 (g := minu) rfl hcur rfl,
    sends_of_alu2 (g := maxs) rfl hcur rfl,
    sends_of_alu2 (g := maxu) rfl hcur rfl,
    sends_of_alu2 (g := fun a b => ofBool64 (a == b)) rfl hcur (ofBool64_of_iff beq_iff_eq),
    sends_of_alu2 (g := fun a b => ofBool64 (a != b)) rfl hcur (ofBool64_bne ..),
    sends_of_alu2 (g := fun a b => ofBool64 (decide (a.toInt < b.toInt))) rfl hcur (ofBool64_of_iff decide_eq_true_iff),
    sends_of_alu2 (g := fun a b => ofBool64 (decide (a.toNat < b.toNat))) rfl hcur (ofBool64_of_iff decide_eq_true_iff),
    sends_of_alu2 (g := fun a b => ofBool64 (decide (a.toInt ≤ b.toInt))) rfl hcur (ofBool64_of_iff decide_eq_true_iff),
    sends_of_alu2 (g := fun a b => ofBool64 (decide (a.toNat ≤ b.toNat))) rfl hcur (ofBool64_of_iff decide_eq_true_iff)⟩

end Sys2Proof.Proofs.Scalars
end

