-- ==== Sys2Proof/Proofs/Division.lean ====
section
/-! DIVS, DIVU, REMS and REMU, and the divider of an element (spec/06 R144, R148). -/

namespace Sys2Proof.Proofs.Division

open Sys2Proof Sys2Proof.Machine Sys2Proof.Laws.Ops Sys2Proof.Laws.Element Sys2Proof.Proofs.Firings

/-! ## The divider (R144) -/

/-- The state in which the element of a firing has its divider busy for 18 fc. -/
def dividerTaken (s : State) (f : Firing) : State :=
  after (updElem f.pos fun e => { e with divBusy := s.fc + 18 }) s

section
variable {i : Instr} {s : State} {f : Firing} {op : Nat} {o : Ops2} {g : Word → Word → Word}

/-- A division whose divider is free takes it and sends its value, which does not depend on the divider: a side reads no more of
an element than its tables. -/
theorem divides_of_divide (hexec : exec i s = onFiring (divide op o g) s) (hcur : s.cur = some f)
    (hfree : (elemAt s f.pos).divBusy ≤ s.fc) {v : Word} (hv : g (Claims.wordA s f o) (Claims.wordB s f o) = v) :
    Claims.Divides i s f op o v := by
  refine completes_of_onFiring hexec hcur ?_
  have taken : after (divide op o g f) s = after (alu2 op o 18 g f) (dividerTaken s f) := by
    rw [divide, after_either, if_neg (by simpa using hfree), after_andThen]
    rfl
  have sending : alu2 op o 18 g f (dividerTaken s f) =
      sendAfter f op o.ta (sideB s f o.sb) (some 18) (bothOuts o.d0 o.d1 (ofWord v) false) 0 (dividerTaken s f) := by
    rw [← hv]
    rfl
  rw [taken, after_congr sending]
  exact sendAfter_leaves ..

/-- A firing that is held back is at the head of its element's ready firings again. -/
theorem holdBack_heldBack (s : State) (f : Firing) : Claims.HeldBack s f (after (holdBack f) s) := by
  rw [holdBack, after_andThen, updElem, after_upd, endFiring, after_eff]
  refine ⟨by simp [elemAt], fun p hp => by simp [elemAt, getKey_modKey_other _ hp], rfl,
    ⟨fun _ => rfl, fun _ => rfl, fun _ => rfl⟩, ⟨rfl, rfl, rfl, rfl, rfl, rfl, rfl⟩, rfl⟩

/-- A division whose divider is busy does not fire. -/
theorem heldBack_of_divide (hexec : exec i s = onFiring (divide op o g) s) (hcur : s.cur = some f)
    (hbusy : s.fc < (elemAt s f.pos).divBusy) : Completes i s (Claims.HeldBack s f) := by
  refine completes_of_onFiring hexec hcur ?_
  rw [divide, after_either, if_pos (by simpa using hbusy)]
  exact holdBack_heldBack ..

end

/-! ## Quotients and remainders (R148) -/

/-- The signed remainder is what the quotient leaves of the dividend. -/
theorem rems_eq (x y : Word) : rems x y =
    if y = 0 then x else if x = 0x8000000000000000 ∧ y = BitVec.allOnes 64 then 0
    else BitVec.ofInt 64 (x.toInt - x.toInt.tdiv y.toInt * y.toInt) := by
  rw [rems, truncBits, Int.tmod_def, Int.mul_comm]

theorem quotients : Claims.Quotients := fun _ _ _ hcur hfree =>
  ⟨divides_of_divide (g := divs) rfl hcur hfree rfl,
    divides_of_divide (g := divu) rfl hcur hfree rfl,
    divides_of_divide (g := rems) rfl hcur hfree (rems_eq ..),
    divides_of_divide (g := remu) rfl hcur hfree rfl⟩

theorem dividerBusy : Claims.DividerBusy := by
  intro o s f hcur hbusy i hi
  simp only [List.mem_cons, List.not_mem_nil, or_false] at hi
  obtain rfl | rfl | rfl | rfl := hi
  · exact heldBack_of_divide (g := divs) rfl hcur hbusy
  · exact heldBack_of_divide (g := divu) rfl hcur hbusy
  · exact heldBack_of_divide (g := rems) rfl hcur hbusy
  · exact heldBack_of_divide (g := remu) rfl hcur hbusy

/-- Settles O3: by whether the divider is busy when the division is taken up. -/
theorem division : Obligations.Division := ⟨quotients, dividerBusy⟩

end Sys2Proof.Proofs.Division
end

