-- ==== Sys2Proof/Proofs/BitsAndFields.lean ====
section
/-! Bitwise operations, shifts, counts of bits, bit fields and extensions, bit by bit (spec/06 R149, R151 to R153). -/

namespace Sys2Proof.Proofs.BitsAndFields

open Sys2Proof Sys2Proof.Machine Sys2Proof.Proofs.Scalars

/-! ## Shifts and rotates (R149) -/

theorem getLsbD_shl (x y : Word) {j : Nat} (hj : j < 64) :
    (shl x y).getLsbD j = (decide (y.toNat % 64 ≤ j) && x.getLsbD (j - y.toNat % 64)) := by
  rw [shl, amount, BitVec.getLsbD_shiftLeft]
  simp [hj, ← decide_not]

/-- A word has no bit above bit 63. -/
theorem getLsbD_guard (x : Word) (k : Nat) : (decide (k < 64) && x.getLsbD k) = x.getLsbD k := by
  by_cases hk : k < 64
  · simp [hk]
  · simp [hk, BitVec.getLsbD_of_ge x k (by omega)]

theorem getLsbD_shr (x y : Word) (j : Nat) :
    (shr x y).getLsbD j = (decide (j + y.toNat % 64 < 64) && x.getLsbD (j + y.toNat % 64)) := by
  rw [getLsbD_guard, shr, amount, BitVec.getLsbD_ushiftRight, Nat.add_comm]

theorem getLsbD_sra (x y : Word) {j : Nat} (hj : j < 64) :
    (sra x y).getLsbD j = if j + y.toNat % 64 < 64 then x.getLsbD (j + y.toNat % 64) else x.getLsbD 63 := by
  rw [sra, amount, BitVec.getLsbD_sshiftRight, BitVec.msb_eq_getLsbD_last, Nat.add_comm]
  simp [show ¬ 64 ≤ j by omega]

theorem getLsbD_rol (x y : Word) {j : Nat} (hj : j < 64) :
    (rol x y).getLsbD j = x.getLsbD ((j + 64 - y.toNat % 64) % 64) := by
  have hn : y.toNat % 64 < 64 := Nat.mod_lt _ (by decide)
  rw [rol, amount, BitVec.getLsbD_rotateLeft, Nat.mod_eq_of_lt hn]
  generalize y.toNat % 64 = n at hn
  by_cases h : j < n
  · have turned : (j + 64 - n) % 64 = 64 - n + j := by omega
    simp [h, turned]
  · have turned : (j + 64 - n) % 64 = j - n := by omega
    simp [h, hj, turned]

/-- Bitwise operations, shifts and rotates: every bit of the result. -/
theorem bitwiseAndShifts : Claims.BitwiseAndShifts := fun _ _ _ hcur =>
  ⟨sendsBits_of_alu2 (g := fun a b => a &&& b) rfl hcur fun _ _ => BitVec.getLsbD_and,
    sendsBits_of_alu2 (g := fun a b => a ||| b) rfl hcur fun _ _ => BitVec.getLsbD_or,
    sendsBits_of_alu2 (g := fun a b => a ^^^ b) rfl hcur fun _ _ => BitVec.getLsbD_xor,
    sendsBits_of_alu2 (g := fun a b => a &&& ~~~b) rfl hcur fun _ hj => by simp [hj],
    sendsBits_of_alu2 (g := shl) rfl hcur fun _ hj => getLsbD_shl _ _ hj,
    sendsBits_of_alu2 (g := shr) rfl hcur fun j _ => getLsbD_shr _ _ j,
    sendsBits_of_alu2 (g := sra) rfl hcur fun _ hj => getLsbD_sra _ _ hj,
    sendsBits_of_alu2 (g := rol) rfl hcur fun _ hj => getLsbD_rol _ _ hj⟩

/-! ## Counts of bits (R151) -/

/-- The number of 0 bits above the highest 1 bit. -/
def zerosAbove (x : Word) : Nat := if x = 0 then 64 else 63 - Nat.log2 x.toNat

theorem clz_eq (x : Word) : clz x = BitVec.ofNat 64 (zerosAbove x) := by
  rw [clz, zerosAbove, apply_ite (BitVec.ofNat 64)]
  rfl

/-- The highest 1 bit stands below the zeros counted, and there is none above it. -/
theorem zerosAbove_spec {x : Word} (hx : x ≠ 0) : zerosAbove x < 64 ∧ x.getLsbD (63 - zerosAbove x) = true ∧
    ∀ i, 63 - zerosAbove x < i → i < 64 → x.getLsbD i = false := by
  have hpos : x.toNat ≠ 0 := by simpa [← BitVec.toNat_inj] using hx
  have hlog : Nat.log2 x.toNat < 64 := (Nat.log2_lt hpos).2 x.isLt
  have highest : 63 - zerosAbove x = Nat.log2 x.toNat := by simp only [zerosAbove, hx, if_false]; omega
  refine ⟨by simp only [zerosAbove, hx, if_false]; omega, ?_, fun i hi _ => ?_⟩
  · rw [highest]
    exact Nat.testBit_log2 hpos
  · rw [highest] at hi
    exact Nat.testBit_lt_two_pow (Nat.lt_of_lt_of_le Nat.lt_log2_self (Nat.pow_le_pow_right (by decide) hi))

/-! ## Bit fields and extensions (R152, R153) -/

theorem getLsbD_keepLow (x : Word) (n j : Nat) : (keepLow x n).getLsbD j = (decide (j < n) && x.getLsbD j) := by
  by_cases hn : 64 ≤ n
  · by_cases hj : j < 64
    · simp [keepLow, hn, show j < n by omega]
    · simp [keepLow, hn, BitVec.getLsbD_of_ge x j (by omega)]
  · have bits : (keepLow x n).getLsbD j = (decide (j < 64) && (decide (j < n) && x.getLsbD j)) := by
      simp [keepLow, hn, nat64, BitVec.getLsbD_ofNat, Nat.testBit_mod_two_pow, BitVec.testBit_toNat]
    rw [bits, Bool.and_left_comm, getLsbD_guard]

theorem getLsbD_bfx (x y : Word) (j : Nat) : (bfx x y).getLsbD j =
    (decide (j < min (field y 14 8) 64) && decide (field y 5 0 + j ≤ 63) && x.getLsbD (field y 5 0 + j)) := by
  have guarded := getLsbD_guard x (field y 5 0 + j)
  rw [bfx, getLsbD_keepLow, BitVec.getLsbD_ushiftRight, Bool.and_assoc, ← guarded]
  simp [Nat.lt_succ_iff]

theorem getLsbD_zext (x y : Word) {j : Nat} (hj : j < 64) :
    (zext x y).getLsbD j = if 64 ≤ field y 6 0 ∨ j < field y 6 0 then x.getLsbD j else false := by
  rw [zext, getLsbD_keepLow]
  by_cases h : j < field y 6 0
  · simp [h]
  · simp [h, show ¬ 64 ≤ field y 6 0 by omega]

/-- The copies of a sign that stand above a width. -/
theorem getLsbD_allOnes_shiftLeft (n : Nat) {j : Nat} (hj : j < 64) :
    (BitVec.allOnes 64 <<< n : Word).getLsbD j = decide (n ≤ j) := by
  rw [BitVec.getLsbD_shiftLeft, BitVec.getLsbD_allOnes]
  simp [hj, show j - n < 64 by omega, ← decide_not]

theorem getLsbD_sext (x y : Word) {j : Nat} (hj : j < 64) : (sext x y).getLsbD j =
    if field y 6 0 = 0 then false
    else if 64 ≤ field y 6 0 ∨ j < field y 6 0 then x.getLsbD j else x.getLsbD (field y 6 0 - 1) := by
  unfold sext
  generalize field y 6 0 = n
  by_cases hzero : n = 0
  · simp [hzero]
  by_cases hwide : 64 ≤ n
  · simp [hzero, hwide]
  simp only [hzero, hwide, if_false, false_or]
  cases hsign : x.getLsbD (n - 1)
  · rw [if_neg Bool.false_ne_true, getLsbD_keepLow]
    by_cases hlow : j < n <;> simp [hlow]
  · rw [if_pos rfl, BitVec.getLsbD_or, getLsbD_keepLow, getLsbD_allOnes_shiftLeft n hj]
    by_cases hlow : j < n
    · simp [hlow, show ¬ n ≤ j by omega]
    · simp [hlow, show n ≤ j by omega]

/-- Counts of bits, bit fields and extensions. -/
theorem countsAndFields : Claims.CountsAndFields := by
  refine ⟨fun o s f hcur => ⟨⟨zerosAbove (lowWord (sideA s f o.sa)), fun hx => if_pos hx, zerosAbove_spec, ?_⟩, ?_⟩,
    fun o s f hcur => ⟨?_, ?_, ?_⟩⟩
  · exact computes_of_alu1 (g := clz) rfl hcur (clz_eq _)
  · exact computes_of_alu1 (g := popc) rfl hcur rfl
  · exact sendsBits_of_alu2 (g := bfx) rfl hcur fun j _ => getLsbD_bfx _ _ j
  · exact sendsBits_of_alu2 (g := sext) rfl hcur fun _ hj => getLsbD_sext _ _ hj
  · exact sendsBits_of_alu2 (g := zext) rfl hcur fun _ hj => getLsbD_zext _ _ hj

/-- Settles O4: every bit of each result. -/
theorem bitsAndFields : Obligations.BitsAndFields := ⟨bitwiseAndShifts, countsAndFields⟩

end Sys2Proof.Proofs.BitsAndFields
end

