-- ==== Sys2Proof/Proofs/FloatBits.lean ====
section
/-! FABS, FNEG, FCLASS, FPACK and FHI: the FP32 instructions that look at bits only (spec/06 R155, R158, R161, R165). -/

namespace Sys2Proof.Proofs.FloatBits

open Sys2Proof Sys2Proof.Machine Sys2Proof.Proofs.Scalars

/-! ## Signs, exponents and mantissas -/

theorem getLsbD_signMask : ∀ j < 32, (0x80000000 : BitVec 32).getLsbD j = decide (j = 31) := by decide

theorem getLsbD_magnitudeMask : ∀ j < 32, (0x7FFFFFFF : BitVec 32).getLsbD j = decide (j < 31) := by decide

/-- An encoding is its sign before its magnitude. -/
theorem getLsbD_signed (b : BitVec 1) (x : BitVec 32) {j : Nat} (hj : j < 32) :
    (b ++ x.extractLsb' 0 31 : BitVec 32).getLsbD j = if j < 31 then x.getLsbD j else b.getLsbD 0 := by
  rw [BitVec.getLsbD_append]
  by_cases h : j < 31
  · simp [h, hj]
  · simp [h, show j - 31 = 0 by omega]

/-- Under the mask of the magnitude the sign is cleared. -/
theorem and_magnitudeMask (x : BitVec 32) : x &&& 0x7FFFFFFF = ((0 : BitVec 1) ++ x.extractLsb' 0 31 : BitVec 32) := by
  refine BitVec.eq_of_getLsbD_eq fun j hj => ?_
  rw [BitVec.getLsbD_and, getLsbD_magnitudeMask j hj, getLsbD_signed _ _ hj]
  by_cases h : j < 31 <;> simp [h]

/-- The mask of the sign inverts it. -/
theorem xor_signMask (x : BitVec 32) :
    x ^^^ 0x80000000 = (~~~(x.extractLsb' 31 1) ++ x.extractLsb' 0 31 : BitVec 32) := by
  refine BitVec.eq_of_getLsbD_eq fun j hj => ?_
  rw [BitVec.getLsbD_xor, getLsbD_signMask j hj, getLsbD_signed _ _ hj]
  by_cases h : j < 31
  · simp [h, show j ≠ 31 by omega]
  · simp [show j = 31 by omega]

/-- The exponent field and the mantissa of an encoding (R119). -/
def exponent (v : BitVec 32) : Nat := (v.extractLsb' 23 8).toNat
def mantissa (v : BitVec 32) : Nat := (v.extractLsb' 0 23).toNat

/-- A field that is 0 has no bit. -/
theorem getLsbD_of_field_zero {x : BitVec 32} {start len : Nat} (h : (x.extractLsb' start len).toNat = 0) {j : Nat}
    (hlow : start ≤ j) (hhigh : j < start + len) : x.getLsbD j = false := by
  have bit := congrArg (BitVec.getLsbD · (j - start)) (BitVec.eq_of_toNat_eq h : x.extractLsb' start len = 0)
  simpa [-BitVec.getLsbD_eq_getElem, BitVec.getLsbD_extractLsb', show j - start < len by omega,
    show start + (j - start) = j by omega] using bit

/-- An encoding with no exponent and no mantissa is its sign alone. -/
theorem and_signMask_of_zero {x : BitVec 32} (he : exponent x = 0) (hm : mantissa x = 0) : x &&& 0x80000000 = x := by
  refine BitVec.eq_of_getLsbD_eq fun j hj => ?_
  rw [BitVec.getLsbD_and, getLsbD_signMask j hj]
  by_cases hmant : j < 23
  · rw [getLsbD_of_field_zero hm (Nat.zero_le j) (by omega), Bool.false_and]
  by_cases hexp : j < 31
  · rw [getLsbD_of_field_zero he (by omega) (by omega), Bool.false_and]
  · simp [show j = 31 by omega]

/-! ## The operand (R155) -/

theorem isSubnormal_iff (x : BitVec 32) : isSubnormal x = true ↔ exponent x = 0 ∧ mantissa x ≠ 0 := by
  simp [isSubnormal, exponent, mantissa, ← BitVec.toNat_inj]

/-- Every encoding of exponent 0 may be flushed: a zero is its sign already. -/
theorem flushSub_eq (x : BitVec 32) : flushSub x = if exponent x = 0 then x &&& 0x80000000 else x := by
  rw [flushSub]
  by_cases he : exponent x = 0
  · by_cases hm : mantissa x = 0
    · simp only [isSubnormal_iff, he, hm, and_signMask_of_zero he hm, ite_self]
    · simp [isSubnormal_iff, he, hm]
  · simp [isSubnormal_iff, he]

theorem finBits_eq_finOf (c : FpCtl) (x : BitVec 32) : finBits c x = Claims.finOf c x := by
  rw [finBits, flushSub_eq]
  change _ = if c.daz = true ∧ exponent x = 0 then x &&& 0x80000000 else x
  cases c.daz
  · rw [if_neg Bool.false_ne_true, if_neg fun h => Bool.false_ne_true h.1]
  · simp only [if_true, true_and]

/-! ## FABS and FNEG (R158) -/

theorem signOperations : Claims.SignOperations := by
  refine fun o s f hcur => ⟨computes_of_fpu1 (o := o) (g := fun c a => ((fabsBits c (low32 a)).zeroExtend 64, 0)) rfl hcur ?_,
    computes_of_fpu1 (o := o) (g := fun c a => ((fnegBits c (low32 a)).zeroExtend 64, 0)) rfl hcur ?_⟩
  · rw [fabsBits, finBits_eq_finOf, and_magnitudeMask]
    rfl
  · rw [fnegBits, finBits_eq_finOf, xor_signMask]
    rfl

/-! ## FCLASS (R161) -/

/-- The number of an encoding's class, by its exponent, its mantissa and its sign. -/
def classNumber (v : BitVec 32) : Nat :=
  if exponent v = 255 then
    if mantissa v = 0 then (if v.getLsbD 31 then 0 else 7) else if v.getLsbD 22 then 9 else 8
  else if exponent v = 0 then
    if mantissa v = 0 then (if v.getLsbD 31 then 3 else 4) else if v.getLsbD 31 then 2 else 5
  else if v.getLsbD 31 then 1 else 6

/-- A scaled number is 0 only where the number is. -/
theorem scale2_num_eq_zero (m den : Nat) (e : Int) : (scale2 m den e).1 = 0 ↔ m = 0 := by
  unfold scale2
  split
  · exact Nat.mul_eq_zero.trans (or_iff_left (Nat.ne_of_gt (Nat.two_pow_pos _)))
  · exact Iff.rfl

theorem fp32Value_of_special {v : BitVec 32} (he : exponent v = 255) :
    fp32Value v = if mantissa v = 0 then .inf (v.getLsbD 31) else .nan v := if_pos he

/-- A finite encoding holds 0 where its exponent and its mantissa are 0. -/
theorem fp32Value_of_finite {v : BitVec 32} (he : exponent v ≠ 255) :
    ∃ num den, fp32Value v = .fin (v.getLsbD 31) num den ∧ (num = 0 ↔ exponent v = 0 ∧ mantissa v = 0) := by
  refine ⟨_, _, if_neg he, ?_⟩
  change (if exponent v = 0 then scale2 (mantissa v) 1 _ else scale2 (mantissa v + 2 ^ 23) 1 _).1 = 0 ↔ _
  split <;> simp [scale2_num_eq_zero, *]

/-- The class word has exactly the bit of the operand's class. -/
theorem fclass_eq (c : FpCtl) (x : BitVec 32) : (fclass c x).zeroExtend 64 = (1 : Word) <<< classNumber (finBits c x) := by
  unfold fclass classNumber
  generalize finBits c x = v
  by_cases hspecial : exponent v = 255
  · simp only [fp32Value_of_special hspecial, if_pos hspecial]
    by_cases hm : mantissa v = 0
    · cases v.getLsbD 31 <;> simp [hm]
    · cases hquiet : v.getLsbD 22 <;> simp [-BitVec.getLsbD_eq_getElem, hm, hquiet]
  · obtain ⟨num, den, value, hnum⟩ := fp32Value_of_finite hspecial
    simp only [value, hnum, isSubnormal_iff, if_neg hspecial]
    by_cases hzero : exponent v = 0
    · by_cases hm : mantissa v = 0
      · cases v.getLsbD 31 <;> simp [hzero, hm]
      · cases v.getLsbD 31 <;> simp [hzero, hm]
    · cases v.getLsbD 31 <;> simp [hzero]

theorem classify : Claims.Classify := by
  refine fun o s f hcur => computes_of_fpu1 (o := o) (g := fun c a => ((fclass c (low32 a)).zeroExtend 64, 0)) rfl hcur ?_
  rw [fclass_eq, finBits_eq_finOf]
  rfl

/-! ## FPACK and FHI (R165) -/

theorem packedPairs : Claims.PackedPairs :=
  ⟨fun _ _ _ hcur => sends_of_alu2 (g := fun a b => (low32 b ++ low32 a : BitVec 64)) rfl hcur rfl,
    fun _ _ _ hcur => computes_of_fpu1 (g := fun _ a => ((a.extractLsb' 32 32).zeroExtend 64, 0)) rfl hcur
      (congrArg (·, 0) (BitVec.setWidth_eq_append (by decide)))⟩

/-- Settles O6: each result bit by bit, and the class by exponent, mantissa and sign. -/
theorem floatBits : Obligations.FloatBits := ⟨signOperations, classify, packedPairs⟩

end Sys2Proof.Proofs.FloatBits
end

