-- ==== Sys2Proof/Proofs/IntegerLanes.lean ====
section
/-! VSEL, the integer lanes and the lane movements of V (spec/07 R178, R179, R181). -/

namespace Sys2Proof.Proofs.IntegerLanes

open Sys2Proof Sys2Proof.Machine Sys2Proof.Proofs.Lanes Sys2Proof.Proofs.Scalars

/-! ## Operations in each lane -/

/-- An operation of three sides in each lane, with the flags of the lanes ORed (R170). -/
theorem mapLanes3_eq (g : BitVec 32 → BitVec 32 → BitVec 32 → BitVec 32 × Flags) (a b c : Wide) : mapLanes3 g a b c =
    (ofLanes ((List.range 16).map fun i => (g (lane a i) (lane b i) (lane c i)).1),
      (List.range 16).foldl (fun fl i => fl ||| (g (lane a i) (lane b i) (lane c i)).2) 0) := by
  simp only [mapLanes3, List.map_map, List.foldl_map, Function.comp_def]

/-- Lanes that raise no flag raise none together. -/
theorem foldl_or_noFlags (l : List Nat) : l.foldl (fun (fl : Flags) _ => fl ||| 0) 0 = 0 := by
  induction l with
  | nil => rfl
  | cons _ _ ih => exact ih

theorem lanes2_eq (g : BitVec 32 → BitVec 32 → BitVec 32) (a b : Wide) :
    lanes2 g a b = (ofLanes ((List.range 16).map fun i => g (lane a i) (lane b i)), 0) := by
  simp only [lanes2, mapLanes2_eq, plain, foldl_or_noFlags]

theorem mapLanes3_plain (g : BitVec 32 → BitVec 32 → BitVec 32 → BitVec 32) (a b c : Wide) :
    mapLanes3 (fun x y z => plain (g x y z)) a b c =
      (ofLanes ((List.range 16).map fun i => g (lane a i) (lane b i) (lane c i)), 0) := by
  simp only [mapLanes3_eq, plain, foldl_or_noFlags]

section
variable {i : Instr} {s : State} {f : Firing} {op lat : Nat} {o : Ops2}

/-- An instruction of V of three sides sends its wide result (R169). -/
theorem sends_of_vec3 {sc : Src} {g : FpCtl → Wide → Wide → Wide → Wide × Flags}
    (hexec : exec i s = onFiring (vec3 op o sc lat g) s) (hcur : s.cur = some f) :
    let r := g (ctlAt s f) (sideA s f o.sa) (sideB s f o.sb) (sideC s f sc)
    Claims.SendsWide i s f op o lat r.1 r.2 :=
  computes_of_sending hexec hcur rfl

/-- An integer instruction of V sends the value of its rule in each lane, with no flag (R170, R179). -/
theorem sendsLanes_of_lanes2 {g h : BitVec 32 → BitVec 32 → BitVec 32}
    (hexec : exec i s = onFiring (vec2 op o lat fun _ a b => lanes2 g a b) s) (hcur : s.cur = some f)
    (hg : ∀ x y, g x y = h x y) : Claims.SendsLanes i s f op o lat h := by
  have sends := sends_of_vec2 hexec hcur
  rw [lanes2_eq] at sends
  exact ⟨_, fun j hj => (lane_ofLanes_map _ hj).trans (hg _ _), sends⟩

/-- A movement of the lanes of two sides sends the lanes moved, with no flag (R181). -/
theorem sendsMoved_of_vec2 {m : Wide → Wide → Wide} {g : Nat → BitVec 32}
    (hexec : exec i s = onFiring (vec2 op o 2 fun _ a b => (m a b, 0)) s) (hcur : s.cur = some f)
    (hlane : ∀ j, j < 16 → lane (m (sideA s f o.sa) (sideB s f o.sb)) j = g j) : Claims.SendsMoved i s f op o g :=
  ⟨_, hlane, sends_of_vec2 hexec hcur⟩

end

/-! ## VSEL and the integer lanes (R178, R179) -/

theorem add_lane_eq_ofInt (x y : BitVec 32) : x + y = BitVec.ofInt 32 (x.toInt + y.toInt) := by
  rw [BitVec.ofInt_add, BitVec.ofInt_toInt, BitVec.ofInt_toInt]

theorem mul_lane_eq_ofInt (x y : BitVec 32) : x * y = BitVec.ofInt 32 (x.toInt * y.toInt) := by
  rw [BitVec.ofInt_mul, BitVec.ofInt_toInt, BitVec.ofInt_toInt]

theorem sub_lane_eq_ofInt (x y : BitVec 32) : x - y = BitVec.ofInt 32 (x.toInt - y.toInt) := by
  rw [Int.sub_eq_add_neg, BitVec.ofInt_add, BitVec.ofInt_neg, BitVec.ofInt_toInt, BitVec.ofInt_toInt, BitVec.sub_eq_add_neg]

/-- A shift that copies the sign divides by a power of 2 and rounds down. -/
theorem sshiftRight_eq_ofInt (x : BitVec 32) (n : Nat) : x.sshiftRight n = BitVec.ofInt 32 (x.toInt / 2 ^ n) := by
  rw [BitVec.sshiftRight, Int.shiftRight_eq_div_pow, Int.natCast_pow]
  rfl

/-- The lanes whose mask is 0 come from B, the others from A. -/
theorem vsel_sends (o : Ops2) (sc : Src) {s : State} {f : Firing} (hcur : s.cur = some f) :
    ∃ r : Wide, (∀ i, i < 16 → lane r i =
        if lane (sideC s f sc) i = 0 then lane (sideB s f o.sb) i else lane (sideA s f o.sa) i) ∧
      Claims.SendsWide (.vsel o sc) s f 0x6F o 1 r 0 := by
  have sends := sends_of_vec3 (i := .vsel o sc) (o := o) (sc := sc)
    (g := fun _ x y z => mapLanes3 (fun p q m => plain (if m = 0 then q else p)) x y z) rfl hcur
  rw [mapLanes3_plain fun p q m => if m = 0 then q else p] at sends
  exact ⟨_, fun j hj => lane_ofLanes_map _ hj, sends⟩

theorem vectorIntegerLanes : Claims.VectorIntegerLanes :=
  ⟨fun _ _ _ hcur =>
    ⟨sendsLanes_of_lanes2 (g := fun x y => x + y) rfl hcur add_lane_eq_ofInt,
      sendsLanes_of_lanes2 (g := fun x y => x - y) rfl hcur sub_lane_eq_ofInt,
      sendsLanes_of_lanes2 (g := fun x y => x * y) rfl hcur mul_lane_eq_ofInt,
      sendsLanes_of_lanes2 (g := fun x y => x &&& y) rfl hcur fun _ _ => rfl,
      sendsLanes_of_lanes2 (g := fun x y => x ||| y) rfl hcur fun _ _ => rfl,
      sendsLanes_of_lanes2 (g := fun x y => x ^^^ y) rfl hcur fun _ _ => rfl,
      sendsLanes_of_lanes2 (g := fun x y => x <<< laneAmount y) rfl hcur fun _ _ => rfl,
      sendsLanes_of_lanes2 (g := fun x y => x >>> laneAmount y) rfl hcur fun _ _ => rfl,
      sendsLanes_of_lanes2 (g := fun x y => x.sshiftRight (laneAmount y)) rfl hcur fun _ _ => sshiftRight_eq_ofInt ..,
      sendsLanes_of_lanes2 (g := fun x y => if x.toInt ≤ y.toInt then x else y) rfl hcur fun _ _ => rfl,
      sendsLanes_of_lanes2 (g := fun x y => if x.toInt ≤ y.toInt then y else x) rfl hcur fun _ _ => rfl⟩,
    fun o sc _ _ hcur => vsel_sends o sc hcur⟩

/-! ## Lane movements (R181) -/

/-- The lane that a value names: its low 4 bits. -/
theorem toNat_lowNibble (x : BitVec 32) : (x.extractLsb' 0 4).toNat = x.toNat % 16 := by
  rw [BitVec.extractLsb'_toNat, Nat.shiftRight_zero]

theorem lane_vshuf (a b : Wide) {j : Nat} (hj : j < 16) :
    lane (vshuf a b) j = if (lane b j).getLsbD 31 then 0 else lane a ((lane b j).toNat % 16) := by
  rw [vshuf, lanes, List.map_map, lane_ofLanes_map _ hj, Function.comp_apply, toNat_lowNibble]

theorem lane_vbcast (a b : Wide) {j : Nat} (hj : j < 16) : lane (vbcast a b) j = lane a ((lane b 0).toNat % 16) := by
  rw [vbcast, lane_ofLanes _ hj, toNat_lowNibble, List.getD_eq_getElem?_getD,
    List.getElem?_replicate_of_lt hj, Option.getD_some]

theorem lane_vins (a b c : Wide) {j : Nat} (hj : j < 16) :
    lane (vins a b c) j = if j = (lane c 0).toNat % 16 then lane b 0 else lane a j := by
  rw [vins, lane_ofLanes_map _ hj, toNat_lowNibble]

theorem vext_eq (a b : Wide) : vext a b =
    let x := lane a ((lane b 0).toNat % 16)
    if (lane b 0).getLsbD 4 then x.signExtend 64 else x.zeroExtend 64 := by
  rw [vext, toNat_lowNibble]

theorem vext_sends (o : Ops2) {s : State} {f : Firing} (hcur : s.cur = some f) :
    Claims.Sends (.vext o) s f 0x83 o 2 (vext (sideA s f o.sa) (sideB s f o.sb)) :=
  sends_of_vecNarrow2 (g := fun _ a b => (vext a b, 0)) rfl hcur

theorem vectorMoves : Claims.VectorMoves :=
  ⟨fun o _ _ hcur =>
    ⟨sendsMoved_of_vec2 (m := vshuf) rfl hcur fun _ hj => lane_vshuf _ _ hj,
      sendsMoved_of_vec2 (m := vbcast) rfl hcur fun _ hj => lane_vbcast _ _ hj,
      sendsMoved_of_vec2 (m := vsplat) rfl hcur fun _ hj => lane_ofLanes_map _ hj,
      vext_eq .. ▸ vext_sends o hcur⟩,
    fun _ _ _ _ hcur =>
      ⟨_, fun _ hj => lane_vins _ _ _ hj, sends_of_vec3 (g := fun _ x y z => (vins x y z, 0)) rfl hcur⟩⟩

/-- Settles O8: what each instruction gives for a lane, from the lanes of its sides. -/
theorem integerLanesAndMoves : Obligations.IntegerLanesAndMoves := ⟨vectorIntegerLanes, vectorMoves⟩

end Sys2Proof.Proofs.IntegerLanes
end
